-- ==== Sys2Proof/Word.lean ====
section
/-! DEFINITION. The word types of the Preold and the plainest arithmetic on them (00_scope.md, R7, R8). -/

namespace Sys2Proof

/-- A byte of memory. -/
abbrev Byte := BitVec 8
/-- A 32-bit value of one lane (R11). -/
abbrev Word32 := BitVec 32
/-- A gang register, an address or a native instruction word (R11, R32). -/
abbrev Word64 := BitVec 64
/-- A mask with one bit per lane of a gang. -/
abbrev LaneMask := BitVec 32
/-- A register field of a native word (R32). -/
abbrev Field := BitVec 9

/-- Bits `hi` down to `lo` of a natural number, as a number (`x[h:l]` of R8). -/
def bits (x hi lo : Nat) : Nat := (x / 2 ^ lo) % 2 ^ (hi + 1 - lo)

/-- `sext(x, n)` of R8 for a `w`-bit field held in a natural number. -/
def sextNat (x w n : Nat) : BitVec n := (BitVec.ofNat w x).signExtend n

end Sys2Proof
end

