-- ==== Sys2Proof/Config.lean ====
section
/-! DEFINITION. What an implementation fixes and the spec leaves open: free values, each an opaque constant
without a body (log entries 2, 5, 6, 15), and the fixed sizes of R2. -/

namespace Sys2Proof.Config

/-- R48: whether a read of a register with a write in flight returns the new value (log 5).
Arguments: the tick of the reading issue, the register and lane, the position of the write in flight. -/
opaque hazardNew : Nat → Nat → Nat → Bool

/-- R27: whether an SREAD of FFLAGS includes the flags of the result in flight at a position (log 5). -/
opaque flagSeen : Nat → Nat → Bool

/-- R117: which of the overlapping lanes of one store writes a byte: a choice index (log 5). -/
opaque storeWinner : Nat → Nat → Nat

/-- R107: the candidate result of an approximate function, before the bound of R107 is applied (log 6).
The first argument is the opcode. -/
opaque approx : Nat → Word32 → Word32

/-- R389: the 64 bytes of a key pair that no session has set: that of key index 0, generated inside the device at each
boot, and that of an index that holds no key, by its tag (log 2). -/
opaque keyMaterial : Nat → List Byte

/-- R313: the set of an L2 slice that a line lies in; the index function is not given (log 46). -/
opaque l2Set : Nat → Nat

/-- R388: the parts of an SPDM response whose bytes the spec does not give (certificates, signatures, digests), by
request tick (log 15). -/
opaque spdmResponse : Nat → List Byte

/-- R388: the certificate chain of the device's identity, fused at manufacture, and that of the alias key of a firmware image
(log 15). -/
opaque identityCert : List Byte
opaque aliasCert : List Byte → List Byte

/-- R390: Malnen Devices' identifier in the registry and vendor fields (log 15). -/
opaque malnenId : List Byte

/-- R390: the junction temperature in °C, by tick (log 15). -/
opaque junction : Nat → Nat

/-- R384: what firmware writes for a field of the root block, by the field's offset (log 13). -/
opaque rootField : Nat → Nat

/-- R395: whether a booted image raises the fused floor to its own rollback number (log 13). -/
opaque raisesFloor : List Byte → Bool

/-- R398: the HBM4 stack that holds a physical address; the interleave is not given (log 15). -/
opaque stackOf : Nat → Nat

/-- R395: whether an image's Ed25519 signature by Malnen's release key verifies (log 15). -/
opaque signatureValid : List Byte → Bool

/-- R395: the version and rollback numbers that an image carries; the image layout is not given (log 15). -/
opaque imageVersion : List Byte → Nat
opaque imageRollback : List Byte → Nat

/-- R169, R173: whether a read racing with a matrix operation or writer sees a new byte (log 5). -/
opaque raceNew : Nat → Nat → Bool

/-- R180, R287: whether a leader's paired MMA sees the offer of a CIMSEL that has issued and that the follower's unit has not
performed, by tick (log 32). -/
opaque offerEarly : Nat → Bool

/-- R30, R362: whether a harvest paddock on the rectangle of a pre-empting paddock is saved, by tick and workgroup (log 50). -/
opaque savesHarvest : Nat → Nat → Bool

/-- R371: the length of the window that a peer exports to an ASID of this device, 0 for none, where the state does not
list the window (log 7). -/
opaque peerLength : Nat → Nat → Nat

/-- R376: whether the peer had applied an atomic whose response a dying plane lost (log 7), by tick and request. -/
opaque atomicApplied : Nat → Nat → Bool

/-- R381, R383: the ASID, the queue if any, and the remote key that the driver has bound a connection to, where the state does not list it
(log 7). -/
opaque hostAsid : Nat → Nat
opaque hostQueue : Nat → Option Nat
opaque hostRkey : Nat → Nat

/-- R358: the ELAPSED field and every other duration (log 4), by tick. -/
opaque elapsed : Nat → Nat

/-- R225: which of the sixteen entries of a 64 KiB page translates an access (log 5). -/
opaque pageEntry : Nat → Nat → Nat

/-- R354, R358: which of several packets of a queue that have come to their end completes first, by tick (log 37). -/
opaque firstComplete : Nat → Nat

end Sys2Proof.Config
end

