-- ==== Sys2Proof/Syntax.lean ====
section
/-! DEFINITION. The syntax: one constructor of `Instr` for each row of spec/opcode_table.json.
Native words carry the fields of their format (02_encoding.md, R32 to R39), script words the fields of
R367, and a step that has no word (95_what_each_step_holds.md) carries what names the unit that takes it. -/

namespace Sys2Proof

/-- The guard fields GE, GN and GQ of a word (R32, R39). -/
structure Guard where
  ge : Bool := false
  gn : Bool := false
  gq : BitVec 3 := 0
  deriving DecidableEq, Repr, Inhabited

/-- The fields of a V3 or V4 word (R34). In V3 `c` is Q2. -/
structure FV3 where
  d : Field
  a : Field
  b : Field
  c : Field
  gb : Bool
  sat : Bool
  rnd : BitVec 3
  ty : BitVec 4
  sub : BitVec 3
  guard : Guard := {}
  deriving DecidableEq, Repr, Inhabited

/-- The fields of a VI word (R34). -/
structure FVI where
  d : Field
  a : Field
  imm : BitVec 24
  ty : BitVec 4
  sub : BitVec 2
  guard : Guard := {}
  deriving DecidableEq, Repr, Inhabited

/-- The fields of a G word (R34). -/
structure FG where
  d : Field
  a : Field
  b : Field
  c : Field
  sub : BitVec 4
  guard : Guard := {}
  deriving DecidableEq, Repr, Inhabited

/-- The fields of a GI word (R34). -/
structure FGI where
  d : Field
  a : Field
  imm : BitVec 24
  sub : BitVec 6
  guard : Guard := {}
  deriving DecidableEq, Repr, Inhabited

/-- The fields of an E word (R34). -/
structure FE where
  d : Field
  imm : BitVec 32
  q : BitVec 7
  guard : Guard := {}
  deriving DecidableEq, Repr, Inhabited

/-- The fields of a B word (R34); `off` counts words. -/
structure FB where
  d : Field
  off : BitVec 32
  q : BitVec 7
  guard : Guard := {}
  deriving DecidableEq, Repr, Inhabited

/-- The fields of an M word (R34, R38). -/
structure FM where
  d : Field
  a : Field
  b : Field
  ord : BitVec 2
  defer : Bool
  idx : BitVec 2
  mop : BitVec 4
  scope : BitVec 3
  space : BitVec 3
  size : BitVec 3
  mq : BitVec 3
  guard : Guard := {}
  deriving DecidableEq, Repr, Inhabited

/-- The fields of an X or T word (R34). -/
structure FX where
  d : Field
  a : Field
  b : Field
  c : Field
  qual : BitVec 12
  guard : Guard := {}
  deriving DecidableEq, Repr, Inhabited

/-- The fields of a script word (R367). -/
structure FS where
  d : BitVec 4
  a : BitVec 4
  b : BitVec 4
  imm : BitVec 12
  deriving DecidableEq, Repr, Inhabited

/-- The fields of SLI and SLUI (R367). -/
structure FSI where
  d : BitVec 4
  imm : BitVec 16
  deriving DecidableEq, Repr, Inhabited

/-- What a peer device asks of an exporter (22_fabric_host.md, R371, R373, R379). -/
inductive PeerOp
  | read
  | write
  | atomic (mop : BitVec 4) (unsigned : Bool)
  /-- A close query for a plane (R376). -/
  | close (plane : Nat)
  deriving DecidableEq, Repr, Inhabited

/-- A request packet that arrives from a peer (R371). -/
structure PeerReq where
  device : Nat
  asid : Nat
  op : PeerOp
  offset : Nat
  /-- Bytes of the access: 1 to 16, or up to 128 for a copy engine (R373). -/
  size : Nat
  data : List Byte
  /-- The swap value of a .cas. -/
  data2 : List Byte := []
  /-- The class that the packet carries (R374). -/
  harvest : Bool := false
  /-- The plane on which the packet comes: bits 9:7 of its line's address, unless a plane is dead (R372, R376). -/
  plane : Nat := offset / 128 % 8
  deriving DecidableEq, Repr, Inhabited

/-- What can be power-gated (17_dies_network.md, R318; 23_tenancy.md, R399). -/
inductive GateUnit
  | way (die slice way : Nat)
  | bank (die bank : Nat)
  | quadrant (core quadrant : Nat)
  deriving DecidableEq, Repr, Inhabited

/-- Where an uncorrectable error is found (R397). -/
inductive EccUnit
  /-- A 32-byte sector: its unified address and the KIND code of R398, 0 for a core's scratchpad. -/
  | sector (address kind : Nat)
  /-- A word of a vector register: the gang, the register and the lane. -/
  | vectorWord (gang register lane : Nat)
  /-- A gang register of a part. -/
  | gangRegister (part register : Nat)
  /-- A 4-byte word of a workgroup's tile, and one of its sidecar from 4,096 on. -/
  | tileWord (workgroup tile word : Nat)
  /-- A part of a workgroup's CIM bank. -/
  | cimPart (workgroup bank part : Nat)
  deriving DecidableEq, Repr, Inhabited

/-- One constructor for each row of spec/opcode_table.json. The rows without operands stand last. A management or
SPDM request (R388, R390) acts on the message at the head of the management endpoint's queue in the state. -/
inductive Instr
  /-- NOP (R87). Issues with no effect; with S = 1 it ends a run. -/
  | nop (o : FX)
  /-- BR (R69). Branches the part by a word offset, conditionally per slice (.sl), for any lane (.any) or for all lanes (.all), splitting on .sl divergence. -/
  | br (o : FB)
  /-- BRG (R72). Branches the whole part when a gang register is nonzero, or zero with .z. -/
  | brg (o : FB)
  /-- JT (R74). Jumps through a jump table indexed by a gang register after a landing-pad check, falling through when the index is out of range. -/
  | jt (o : FX)
  /-- JTV (R74). Jumps each slice through a jump table indexed by a vector register, splitting the part by target. -/
  | jtv (o : FX)
  /-- CALL (R75). Pushes the return address on each calling slice's return stack and branches by offset. -/
  | call (o : FB)
  /-- CALLI (R76). Calls the address in a gang register after alignment, depth, fetch and landing-pad checks. -/
  | calli (o : FX)
  /-- RET (R77). Pops the return stack and continues at the popped address, or ends a trap frame and resumes. -/
  | ret (o : FX)
  /-- LPAD (R73). Marks a tagged landing pad for indirect transfers and otherwise has no effect. -/
  | lpad (o : FX)
  /-- REGANG (R79). Parks the part until every awaited slice is parked at a REGANG, then merges parts with matching state. -/
  | regang (o : FX)
  /-- EXIT (R81). Ends the part's slices after its lane results land, releasing blocks and workgroup resources when the last exits. -/
  | exit (o : FX)
  /-- TRAP (R85). Raises TRAPn after lane results land. -/
  | trap (o : FX)
  /-- BRK (R86). Acts as trap 15 with AUX 0xFF when traps are enabled, else only converges and waits. -/
  | brk (o : FX)
  /-- ELECT (R82). Sets a predicate in the lowest active lane only and writes that lane's number to a gang register. -/
  | elect (o : FX)
  /-- ACQUIRE (R88). Requests the gang's full register allotment and, on the first ACQUIRE, the workgroup's tiles, scratchpad and CIM banks, parking until granted. -/
  | acquire (o : FX)
  /-- MASKRD (R82). Writes a predicate in each active lane from the corresponding bit of a gang register. -/
  | maskrd (o : FX)
  /-- MASKWR (R82). Writes to a gang register the mask of active lanes whose predicate is 1. -/
  | maskwr (o : FX)
  /-- SREAD (R83). Reads a system register into a gang register, or WID into a vector pair per lane. -/
  | sread (o : FX)
  /-- SWRITE_FFLAGS (R27). SWRITE to FFLAGS sets or clears the sticky floating flags shared by the gang. -/
  | swriteFflags (o : FX)
  /-- SWRITE_FMODE (R84). SWRITE to FMODE sets rounding mode and FTZ for every later instruction of the gang. -/
  | swriteFmode (o : FX)
  /-- SWRITE_PRIVHWM (R28). SWRITE to PRIVHWM maps private memory up to the written size, trapping PRIVGROW above LIMIT. -/
  | swritePrivhwm (o : FX)
  /-- SWRITE_TRAPVEC (R84). SWRITE to TRAPVEC sets the trap handler address and enable for every later trap. -/
  | swriteTrapvec (o : FX)
  /-- GMOVI (R66). Writes a sign-extended 32-bit immediate to a gang register. -/
  | gmovi (o : FE)
  /-- GMOVH (R66). Writes a 32-bit immediate to bits 63:32 of a gang register. -/
  | gmovh (o : FE)
  /-- GLEA (R66). Computes gA + (gB << N) + gC into a gang register. -/
  | glea (o : FG)
  /-- GSEL (R66). Selects gA or gB into a gang register according to whether gC is nonzero. -/
  | gsel (o : FG)
  /-- GSET (R66). Writes 1 or 0 to a gang register according to a comparison of two gang registers. -/
  | gset (o : FG)
  /-- GADD (R63). Adds two gang registers modulo 2^64. -/
  | gadd (o : FG)
  /-- GSUB (R63). Subtracts two gang registers modulo 2^64. -/
  | gsub (o : FG)
  /-- GMUL (R63). Writes the low 64 bits of the product of two gang registers. -/
  | gmul (o : FG)
  /-- GMULH (R63). Writes the high 64 bits of the signed or unsigned product of two gang registers. -/
  | gmulh (o : FG)
  /-- GDIV (R65). Divides two gang registers with defined results for zero divisor and overflow. -/
  | gdiv (o : FG)
  /-- GREM (R65). Writes the remainder of two gang registers with defined borderline results. -/
  | grem (o : FG)
  /-- GAND (R63). Bitwise AND of two gang registers. -/
  | gand (o : FG)
  /-- GOR (R63). Bitwise OR of two gang registers. -/
  | gor (o : FG)
  /-- GXOR (R63). Bitwise XOR of two gang registers. -/
  | gxor (o : FG)
  /-- GSHL (R64). Shifts a gang register left by gB[5:0]. -/
  | gshl (o : FG)
  /-- GSHR (R64). Shifts a gang register right with zero fill by gB[5:0]. -/
  | gshr (o : FG)
  /-- GSAR (R64). Shifts a gang register right with sign fill by gB[5:0]. -/
  | gsar (o : FG)
  /-- GMIN (R63). Writes the smaller of two gang registers, signed or unsigned. -/
  | gmin (o : FG)
  /-- GMAX (R63). Writes the larger of two gang registers, signed or unsigned. -/
  | gmax (o : FG)
  /-- GADD_IMM (R63). Adds a sign-extended 24-bit immediate to a gang register. -/
  | gaddImm (o : FGI)
  /-- GSUB_IMM (R63). Subtracts a sign-extended immediate from a gang register. -/
  | gsubImm (o : FGI)
  /-- GMUL_IMM (R63). Multiplies a gang register by an immediate, low 64 bits. -/
  | gmulImm (o : FGI)
  /-- GMULH_IMM (R63). High 64 bits of a gang register times an immediate. -/
  | gmulhImm (o : FGI)
  /-- GDIV_IMM (R65). Divides a gang register by an immediate. -/
  | gdivImm (o : FGI)
  /-- GREM_IMM (R65). Remainder of a gang register by an immediate. -/
  | gremImm (o : FGI)
  /-- GAND_IMM (R63). AND of a gang register with an immediate. -/
  | gandImm (o : FGI)
  /-- GOR_IMM (R63). OR of a gang register with an immediate. -/
  | gorImm (o : FGI)
  /-- GXOR_IMM (R63). XOR of a gang register with an immediate. -/
  | gxorImm (o : FGI)
  /-- GSHL_IMM (R64). Shifts a gang register left by an immediate count 0 to 63. -/
  | gshlImm (o : FGI)
  /-- GSHR_IMM (R64). Shifts a gang register right with zero fill by an immediate count. -/
  | gshrImm (o : FGI)
  /-- GSAR_IMM (R64). Shifts a gang register right with sign fill by an immediate count. -/
  | gsarImm (o : FGI)
  /-- GMIN_IMM (R63). Smaller of a gang register and an immediate. -/
  | gminImm (o : FGI)
  /-- GMAX_IMM (R63). Larger of a gang register and an immediate. -/
  | gmaxImm (o : FGI)
  /-- IADD (R93). Adds per lane, modulo 2^N or saturating. -/
  | iadd (o : FV3)
  /-- ISUB (R93). Subtracts per lane, modulo 2^N or saturating. -/
  | isub (o : FV3)
  /-- IMUL (R93). Multiplies per lane, modulo 2^N or saturating. -/
  | imul (o : FV3)
  /-- IMULH (R93). Writes the high 32 bits of the per-lane 64-bit product. -/
  | imulh (o : FV3)
  /-- IMAD (R93). Multiply-adds per lane, optionally wide to 64 bits. -/
  | imad (o : FV3)
  /-- IAND (R93). Bitwise AND per lane. -/
  | iand (o : FV3)
  /-- IOR (R93). Bitwise OR per lane. -/
  | ior (o : FV3)
  /-- IXOR (R93). Bitwise XOR per lane. -/
  | ixor (o : FV3)
  /-- ISHL (R93). Shifts left per lane by the low bits of vB. -/
  | ishl (o : FV3)
  /-- ISHR (R93). Shifts right with zero fill per lane. -/
  | ishr (o : FV3)
  /-- ISAR (R93). Shifts right with sign fill per lane. -/
  | isar (o : FV3)
  /-- IMIN (R93). Writes the smaller operand per lane. -/
  | imin (o : FV3)
  /-- IMAX (R93). Writes the larger operand per lane. -/
  | imax (o : FV3)
  /-- IABS (R93). Writes the absolute value per lane, optionally saturating. -/
  | iabs (o : FV3)
  /-- ICLZ (R93). Counts leading zero bits per lane. -/
  | iclz (o : FV3)
  /-- IPOPC (R93). Counts one bits per lane. -/
  | ipopc (o : FV3)
  /-- IADD_IMM (R94). Adds an immediate per lane. -/
  | iaddImm (o : FVI)
  /-- ISUB_IMM (R94). Subtracts an immediate per lane. -/
  | isubImm (o : FVI)
  /-- IMUL_IMM (R94). Multiplies by an immediate per lane. -/
  | imulImm (o : FVI)
  /-- IAND_IMM (R94). ANDs a zero-extended immediate per lane. -/
  | iandImm (o : FVI)
  /-- IOR_IMM (R94). ORs a zero-extended immediate per lane. -/
  | iorImm (o : FVI)
  /-- IXOR_IMM (R94). XORs a zero-extended immediate per lane. -/
  | ixorImm (o : FVI)
  /-- ISHL_IMM (R94). Shifts left by an immediate count per lane. -/
  | ishlImm (o : FVI)
  /-- ISHR_IMM (R94). Shifts right with zero fill by an immediate count per lane. -/
  | ishrImm (o : FVI)
  /-- ISAR_IMM (R94). Shifts right with sign fill by an immediate count per lane. -/
  | isarImm (o : FVI)
  /-- IMIN_IMM (R94). Smaller of a lane value and an immediate. -/
  | iminImm (o : FVI)
  /-- IMAX_IMM (R94). Larger of a lane value and an immediate. -/
  | imaxImm (o : FVI)
  /-- IBFX (R96). Extracts a bit field per lane, sign- or zero-extended. -/
  | ibfx (o : FV3)
  /-- IBFI (R96). Inserts the low bits of a into a bit field of vD per lane. -/
  | ibfi (o : FV3)
  /-- ISET (R95). Writes a predicate per lane from an integer comparison of two registers. -/
  | iset (o : FV3)
  /-- ISET_IMM (R95). Writes a predicate per lane from an integer comparison with an immediate. -/
  | isetImm (o : FVI)
  /-- MOV (R97). Copies a vector register per lane. -/
  | mov (o : FV3)
  /-- MOVI (R97). Writes a 32-bit immediate to each active lane. -/
  | movi (o : FE)
  /-- MOVG (R97). Copies a gang register into each active lane. -/
  | movg (o : FV3)
  /-- SEL (R97). Selects vA or vB per lane by a predicate. -/
  | sel (o : FV3)
  /-- QOP (R98). Combines two predicates per lane by a logical operation. -/
  | qop (o : FV3)
  /-- QMOV (R98). Moves predicates, or converts between predicates and vector values, per lane. -/
  | qmov (o : FV3)
  /-- FADD (R100). FP32 addition per lane with one rounding. -/
  | fadd (o : FV3)
  /-- FSUB (R100). FP32 subtraction per lane. -/
  | fsub (o : FV3)
  /-- FMUL (R100). FP32 multiplication per lane. -/
  | fmul (o : FV3)
  /-- FFMA (R100). FP32 fused multiply-add per lane with one rounding. -/
  | ffma (o : FV3)
  /-- FMIN (R100). IEEE minimumNumber per lane. -/
  | fmin (o : FV3)
  /-- FMAX (R100). IEEE maximumNumber per lane. -/
  | fmax (o : FV3)
  /-- FSET (R101). Writes a predicate per lane from an FP32 comparison. -/
  | fset (o : FV3)
  /-- FCLASS (R102). Writes a one-hot class mask of an FP32 value per lane. -/
  | fclass (o : FV3)
  /-- FRND (R102). Rounds an FP32 value to an integral value per lane. -/
  | frnd (o : FV3)
  /-- HADD2 (R103). Adds two packed FP16 or BF16 elements per lane. -/
  | hadd2 (o : FV3)
  /-- HMUL2 (R103). Multiplies two packed FP16 or BF16 elements per lane. -/
  | hmul2 (o : FV3)
  /-- HFMA2 (R103). Fused multiply-add of two packed 16-bit elements per lane. -/
  | hfma2 (o : FV3)
  /-- CVT (R104). Converts per lane between integer and floating types. -/
  | cvt (o : FV3)
  /-- DP4 (R105). Dot product of four 8-bit elements plus an accumulator per lane. -/
  | dp4 (o : FV3)
  /-- DP8 (R105). Dot product of eight 4-bit elements plus an accumulator per lane. -/
  | dp8 (o : FV3)
  /-- QPACK (R106). Encodes an FP32 value under a scale code into one element position of vD per lane. -/
  | qpack (o : FV3)
  /-- QUNPK (R106). Decodes one narrow element under a scale code to FP32 per lane. -/
  | qunpk (o : FV3)
  /-- RCP (R107). Approximate reciprocal per lane. -/
  | rcp (o : FV3)
  /-- RSQ (R107). Approximate reciprocal square root per lane. -/
  | rsq (o : FV3)
  /-- SQRT (R107). Correctly rounded square root per lane. -/
  | sqrt (o : FV3)
  /-- EXP2 (R107). Approximate base-2 exponential per lane. -/
  | exp2 (o : FV3)
  /-- LOG2 (R107). Approximate base-2 logarithm per lane. -/
  | log2 (o : FV3)
  /-- SIN (R107). Approximate sine per lane. -/
  | sin (o : FV3)
  /-- COS (R107). Approximate cosine per lane. -/
  | cos (o : FV3)
  /-- TANH (R107). Approximate hyperbolic tangent per lane. -/
  | tanh (o : FV3)
  /-- LPERM (R109). Permutes values among lanes of each segment by select, rotate, step, swizzle or reverse. -/
  | lperm (o : FV3)
  /-- BCAST (R110). Copies one lane's value to every active lane. -/
  | bcast (o : FV3)
  /-- QFOLD (R111). Folds a predicate over the active lanes of each segment. -/
  | qfold (o : FV3)
  /-- REDX (R112). Reduces each segment over its active lanes by a fixed tree. -/
  | redx (o : FV3)
  /-- SCANX (R113). Forms a sequential prefix over each segment's active lanes. -/
  | scanx (o : FV3)
  /-- LD (R117). Loads size bytes per active lane from a memory space. -/
  | ld (o : FM)
  /-- ST (R117). Stores size bytes per active lane, or records a deferred effect with .defer. -/
  | st (o : FM)
  /-- LDD (R121). Loads and decodes a group of page-format elements to FP32 per lane. -/
  | ldd (o : FM)
  /-- STQ (R122). Quantises FP32 values into page-format elements and block scale codes. -/
  | stq (o : FM)
  /-- PF (R123). Requests that lines be brought to L1 or L2, never faulting. -/
  | pf (o : FM)
  /-- RLD (R124). Loads from peer windows in passes by peer number. -/
  | rld (o : FM)
  /-- RST (R124). Stores to peer windows in passes by peer number. -/
  | rst (o : FM)
  /-- RAT (R128). Performs atomics on peer windows in peer passes and atomic passes. -/
  | rat (o : FM)
  /-- ATOM (R128). Performs atomic read-modify-writes in passes, returning old values. -/
  | atom (o : FM)
  /-- RED (R128). Performs atomic reductions without return, or records them with .defer. -/
  | red (o : FM)
  /-- FENCE (R131). Holds later accesses until earlier ones are performed at the named scope. -/
  | fence (o : FM)
  /-- CLEAN (R132). Writes dirty copies of a byte range to the scope's point of coherence. -/
  | clean (o : FM)
  /-- INVAL (R132). Cleans and then discards copies of a byte range inside the scope. -/
  | inval (o : FM)
  /-- ICINV (R133). Invalidates a range in the instruction caches and fill buffers of every core of the hedge. -/
  | icinv (o : FM)
  /-- ATTEMPT (R136). Opens a transaction level, taking the serial token after six conflicts. -/
  | attempt (o : FB)
  /-- OTHERWISE (R137). Opens a transaction level with an alternative target for retry. -/
  | otherwise (o : FB)
  /-- SETTLE (R138). Closes the innermost level into its parent, or commits at level 1. -/
  | settle (o : FX)
  /-- ABANDON (R139). Unwinds the innermost level with code 0x80 + n and continues at its target. -/
  | abandon (o : FX)
  /-- RETRY (R140). Leaves for the nearest alternative, or sleeps on every read set. -/
  | retry (o : FX)
  /-- XSTAT (R142). Copies the XSTAT register to a gang register, clearing CODE and LEVEL with .clr. -/
  | xstat (o : FX)
  /-- WAITW (R144). Waits until a word satisfies a comparison, as a transaction or a polled wait. -/
  | waitw (o : FM)
  /-- STINIT (R147). Initialises a stile with an expected arrival count. -/
  | stinit (o : FX)
  /-- STARR (R148). Arrives at a stile with release, returning the phase token. -/
  | starr (o : FX)
  /-- STEXP (R149). Adds an expected byte count to a stile's PENDING. -/
  | stexp (o : FX)
  /-- STWAIT (R150). Waits until a stile's phase has moved past a token, trapping on poison. -/
  | stwait (o : FX)
  /-- FBEGIN (R152). Opens a furrow and records the restart point. -/
  | fbegin (o : FX)
  /-- FEND (R153). Releases the furrow's deferred entries in order and closes it. -/
  | fend (o : FX)
  /-- COPY (R155). Hands a checked tensor copy descriptor to the core's copy engine. -/
  | copy (o : FX)
  /-- MSGSEND (R161). Sends a 64-byte active message to a handler on a target core. -/
  | msgsend (o : FX)
  /-- LAUNCH (R163). Offers a LAUNCH packet to a device queue without waiting. -/
  | launch (o : FX)
  /-- DTURN (R164). Queues a request to turn the droveway toward an inbound count. -/
  | dturn (o : FX)
  /-- DSTAT (R165). Writes a snapshot of the die's droveway to a gang register. -/
  | dstat (o : FX)
  /-- TLD (R172). Queues a load of tile rows and sidecar from global memory. -/
  | tld (o : FX)
  /-- TST (R174). Queues a store of tile rows to global memory, raw or re-encoded. -/
  | tst (o : FX)
  /-- TZERO (R175). Queues zeroing of a tile with unit sidecar codes. -/
  | tzero (o : FX)
  /-- TMOV (R175). Queues a copy of one tile's data, sidecar and descriptor to another. -/
  | tmov (o : FX)
  /-- TRD (R176). Reads tile bytes into vector registers after open operations on the tile retire. -/
  | trd (o : FX)
  /-- TWR (R177). Writes vector register bytes into a tile after open operations on the tile retire. -/
  | twr (o : FX)
  /-- CIMLD (R179). Queues a copy of a tile into one part of a CIM bank. -/
  | cimld (o : FX)
  /-- CIMSEL (R180). Queues the offer or withdrawal of a CIM bank to the west leader. -/
  | cimsel (o : FX)
  /-- MMA (R183). Queues a paired matrix multiply over the leader's and follower's banks. -/
  | mma (o : FX)
  /-- MMAS (R183). Queues a single-bank matrix multiply into an accumulator tile. -/
  | mmas (o : FX)
  /-- SHEAF (R186). Closes the open matrix operations into a numbered sheaf. -/
  | sheaf (o : FX)
  /-- MWAIT (R187). Waits as a transaction until a sheaf word reaches a sheaf number. -/
  | mwait (o : FX)
  /-- LANE_RESULT_LAND (R47). An outstanding lane result lands, unparking a part waiting at a switch marker when it is the last. -/
  | laneResultLand (part index : Nat)
  /-- PAGE_WALK (R229). A sector walker completes a translation walk and fills every waiting core. -/
  | pageWalk (sector : Nat)
  /-- FAULT_REPLAY (R203). After service, a fault-parked part replays its parked lanes up to the stop point. -/
  | faultReplay (part : Nat)
  /-- TRAP_DELIVERY (R205). A trap is delivered after lane results land, aborting transactions and entering the handler or ending the context. -/
  | trapDelivery (part : Nat)
  /-- ACQUIRE_GRANT (R196). The core's scheduler grants a waiting ACQUIRE request whole in class order. -/
  | acquireGrant (core : Nat)
  /-- SERIAL_TOKEN_GRANT (R276). A hedge's serial token passes to the next waiting part, G before H. -/
  | serialTokenGrant (hedge : Nat)
  /-- NOTICE (R274). A version-table notice reaches a core, dooming attempts and waking sleepers on the line. -/
  | notice (index : Nat)
  /-- POLL_INTERVAL (R145). After 2,048 cycles asleep, a polled WAITW polls its word again. -/
  | pollInterval (part : Nat)
  /-- WATCHDOG_EXPIRY (R283). The deadlock watchdog fires after T CP cycles of a stuck context and ends it. -/
  | watchdogExpiry (context : Nat)
  /-- MATRIX_OP_START (R169). The free matrix unit takes the next queued operation, G before H, in rotation. -/
  | matrixOpStart (core : Nat)
  /-- MATRIX_OP_RETIRE (R169). A matrix operation retires, ORing its flags into FFLAGS. -/
  | matrixOpRetire (core : Nat)
  /-- COPY_ELEMENT_LAND (R159). Copy elements land, updating the stile's PENDING and, at the end, the completion word. -/
  | copyElementLand (copy : Nat)
  /-- HANDLER_ADMIT (R317). The oldest mailbox message is admitted as a handler gang when a slot and block are free. -/
  | handlerAdmit (core : Nat)
  /-- MESSAGE_ACCEPT (R316). A target core accepts or refuses an arriving message into its mailbox. -/
  | messageAccept (index : Nat)
  /-- WAY_BANK_WAKE (R318). A gated L2 way or chip-scratchpad bank finishes waking and held accesses proceed. -/
  | wayBankWake (unit : GateUnit)
  /-- EVICTION_ORDER (R329). An H workgroup is ordered to stop, drain and spill its bale to meet a G need. -/
  | evictionOrder (core : Nat)
  /-- BALE_COMPLETE (R329). The bale is complete once late results and FEND releases land, and the workgroup joins the restart queue. -/
  | baleComplete (workgroup : Nat)
  /-- BALE_RESTART (R333). The bale at the head of a hedge's restart queue is read back onto a core and resumes at its restart point. -/
  | baleRestart (hedge : Nat)
  /-- PADDOCK_RESTORE (R362). A saved paddock is restored on a new rectangle and resumes as it stood. -/
  | paddockRestore (index : Nat)
  /-- PADDOCK_PLACE (R361). The dispatcher places a paddock on the first admitting rectangle of its hedge. -/
  | paddockPlace (die : Nat)
  /-- FAULT_NOTIFICATION (R232). Walkers post a page-fault notification to the hedge's fault ring when it has room. -/
  | faultNotification (index : Nat)
  /-- FAULT_RESPONSE (R233). A driver response entry is read, retrying or refusing the attached records. -/
  | faultResponse (hedge : Nat)
  /-- DOORBELL_WRITE (R348). A full 8-byte doorbell write advances a queue's WIDX when in range. -/
  | doorbellWrite (address : Nat) (data : List Byte)
  /-- NOP_PACKET (R353). A NOP packet starts and completes at once. -/
  | nopPacket (queue : Nat)
  /-- LAUNCH_PACKET (R352). A LAUNCH packet is checked, a bucket chosen and its paddocks offered for placement. -/
  | launchPacket (queue : Nat)
  /-- COPY_PACKET (R353). A COPY packet's descriptor is handed to the engine's copy channel. -/
  | copyPacket (queue : Nat)
  /-- BARRIER_PACKET (R355). A BARRIER packet starts and evaluates its signals. -/
  | barrierPacket (queue : Nat)
  /-- BARRIER_EVALUATE (R355). A write to a watched signal re-evaluates a waiting barrier, which fails, is satisfied or waits. -/
  | barrierEvaluate (queue : Nat)
  /-- BARRIER_POLL (R355). Every 1 µs a waiting barrier re-reads its remote signals. -/
  | barrierPoll (queue : Nat)
  /-- SIGNAL_PACKET (R354). A SIGNAL packet adds or stores a value to its target signal with release. -/
  | signalPacket (queue : Nat)
  /-- SCRIPT_LOAD (R366). A SCRIPT packet with OPN 1 loads and verifies a queue script. -/
  | scriptLoad (queue : Nat)
  /-- SCRIPT_RUN (R366). A SCRIPT packet with OPN 0 runs the loaded script once. -/
  | scriptRun (queue : Nat)
  /-- TLBINV (R230). A translation-invalidate packet removes old entries and drains accesses translated under them. -/
  | tlbinv (queue : Nat)
  /-- PACKET_COMPLETE (R358). A completed packet writes its completion record and updates its completion signal. -/
  | packetComplete (queue : Nat)
  /-- SLI (R367). Loads a sign-extended 16-bit immediate into a script register. -/
  | sli (o : FSI)
  /-- SLUI (R367). Shifts a script register left 16 and ORs in a 16-bit immediate. -/
  | slui (o : FSI)
  /-- SARG (R367). Copies a packet word into a script register. -/
  | sarg (o : FS)
  /-- SADD (R367). Adds two script registers. -/
  | sadd (o : FS)
  /-- SSUB (R367). Subtracts two script registers. -/
  | ssub (o : FS)
  /-- SAND (R367). ANDs two script registers. -/
  | sand (o : FS)
  /-- SOR (R367). ORs two script registers. -/
  | sor (o : FS)
  /-- SXOR (R367). XORs two script registers. -/
  | sxor (o : FS)
  /-- SADDI (R367). Adds a sign-extended 12-bit immediate to a script register. -/
  | saddi (o : FS)
  /-- SSHL (R367). Shifts a script register left by an immediate. -/
  | sshl (o : FS)
  /-- SSHR (R367). Shifts a script register right with zero fill by an immediate. -/
  | sshr (o : FS)
  /-- SLD (R367). Loads 64 bits with acquire from a script window. -/
  | sld (o : FS)
  /-- SST (R367). Stores 64 bits with release into a script window. -/
  | sst (o : FS)
  /-- SSIG (R367). Atomically adds a register to a signal with release. -/
  | ssig (o : FS)
  /-- SBEQ (R367). Branches forward if two script registers are equal. -/
  | sbeq (o : FS)
  /-- SBNE (R367). Branches forward if two script registers differ. -/
  | sbne (o : FS)
  /-- SBLT (R367). Branches forward if one script register is signed-less than another. -/
  | sblt (o : FS)
  /-- SLOOP (R367). Decrements a nonzero counter and branches back. -/
  | sloop (o : FS)
  /-- SENQ (R367). Writes a packet into a queue of the hedge, ending with QUEUE_FULL under .must when full. -/
  | senq (o : FS)
  /-- SABORT (R367). Ends the script packet with SCRIPTABORT. -/
  | sabort (o : FS)
  /-- FABRIC_REQUEST (R371). An exporter receives a fabric request, checks its export table and serves it in the window. -/
  | fabricRequest (r : PeerReq)
  /-- STALL_NOTICE (R371). Every 250 µs an exporter resends a stall notice for a request stalled on a page fault. -/
  | stallNotice (index : Nat)
  /-- PLANE_DEAD (R376). A 1 ms timeout makes a plane dead to a peer and moves its traffic to the remap plane. -/
  | planeDead (peer plane : Nat)
  /-- PLANE_RESTORE (R376). A plane that becomes live again is restored by the same settling steps. -/
  | planeRestore (peer plane : Nat)
  /-- FLIT_CRC_FAIL (R375). A flit failing its CRC discards the packet's remainder and the sender replays it. -/
  | flitCrcFail (port : Nat)
  /-- LINK_RETRAIN (R375). A port retrains to another width at a packet boundary, replaying any partial packet. -/
  | linkRetrain (port lanes : Nat)
  /-- CRITICAL_REQUEST (R378). A critical-class request arrives on one of two planes and is applied once in sequence order. -/
  | criticalRequest (plane sequence : Nat) (r : PeerReq)
  /-- HOST_RDMA_WRITE (R382). A host RDMA WRITE is performed at its home slices in sequence order with release. -/
  | hostRdmaWrite (connection address : Nat) (data : List Byte)
  /-- HOST_RDMA_READ (R382). A host RDMA READ acquires at system scope. -/
  | hostRdmaRead (connection address length : Nat)
  /-- HOST_ATOMIC (R382). A host atomic executes at the host port's atomic unit under a home hold. -/
  | hostAtomic (connection address : Nat) (cas : Bool) (a b : Word64)
  /-- CONNECTION_FAIL (R381). An RC connection exhausts its retries, and the ASID's host accesses take PEER_GONE. -/
  | connectionFail (connection : Nat)
  /-- HEARTBEAT_TIMEOUT (R391). A missed heartbeat ends the session and erases its bound keys. -/
  | heartbeatTimeout (session : Nat)
  /-- ECC_UNCORRECTABLE (R397). An uncorrectable read is retried and classified transient or lasting, poisoning the sector if lasting. -/
  | eccUncorrectable (unit : EccUnit) (second : Bool)
  /-- UNASSIGNED_OPCODE (R40). A word with an unassigned opcode, including 0x00 and 0xFF, issues and traps ILLEGAL with AUX 0x01 and no change of state. -/
  | unassignedOpcode (opcode : BitVec 8)
  /-- SWRITE_READ_ONLY (R22). SWRITE naming an RO register or a number 0x10 to 0x1FF traps ILLEGAL with AUX 0x07 or 0x03. -/
  | swriteReadOnly (o : FX)
  /-- ACCESS_PERFORMED (R242). A store, released entry, remote pass or maintenance write reaches the point its scope names and is accepted there, releasing parts parked on it. -/
  | accessPerformed (part index : Nat)
  /-- INVALIDATION_ACKNOWLEDGED (R133). The last core of the hedge acknowledges an ICINV invalidation and the parked part resumes. -/
  | invalidationAcknowledged (part core : Nat)
  /-- MISS_FILL (R314). A fill from HBM4 arrives at an L2 slice, which serves the line's waiter list in arrival order. -/
  | missFill (slice line : Nat)
  /-- REGISTER_ANSWER (R278). A home answers a sleeper's registration as fresh or stale, waking the part if stale or letting it sleep once all answers are fresh. -/
  | registerAnswer (part index : Nat)
  /-- SPILL_BLOCK_WRITTEN (R329). The spill engine finishes writing a gang record or block of a bale and returns that block or slot to the core. -/
  | spillBlockWritten (workgroup : Nat)
  /-- PREEMPTION_SAVE_DONE (R362). A pre-emption save of a paddock finishes writing its save slot, freeing its cores and releasing a waiting eviction order. -/
  | preemptionSaveDone (index : Nat)
  /-- ZEROING_COMPLETE (R394). Zeroing of a released buffer at 2 KiB per cycle finishes, and accesses held for the new owner proceed. -/
  | zeroingComplete (index : Nat)
  /-- POWER_GATE (R318). An L2 slice gates a way after writing back its lines, a bank is gated outside every grant, or a core gates its quadrants while its hedge is not live. -/
  | powerGate (unit : GateUnit)
  /-- LINK_DOWN (R376). A fabric port's link goes down, starting the 1 ms interval after which its plane is dead. -/
  | linkDown (port : Nat)
  /-- TURN_STEP (R309). At each step boundary the turn controller clips its goal, takes a request and turns up to 8 droves. -/
  | turnStep
  /-- SDONE (R367). Completes the script packet normally. -/
  | sdone
  /-- GET_VERSION (R388). SPDM request for supported versions. -/
  | getVersion
  /-- GET_CAPABILITIES (R388). SPDM request for the responder's capabilities. -/
  | getCapabilities
  /-- NEGOTIATE_ALGORITHMS (R388). SPDM request to negotiate algorithms. -/
  | negotiateAlgorithms
  /-- GET_DIGESTS (R388). SPDM request for certificate chain digests. -/
  | getDigests
  /-- GET_CERTIFICATE (R388). SPDM request for a certificate chain. -/
  | getCertificate
  /-- CHALLENGE (R388). SPDM challenge-response authentication. -/
  | challenge
  /-- GET_MEASUREMENTS (R388). SPDM request for firmware, fuse map and rollback measurements. -/
  | getMeasurements
  /-- KEY_EXCHANGE (R388). SPDM key exchange opening a secured session. -/
  | keyExchange
  /-- FINISH (R388). SPDM request completing the session handshake. -/
  | finish
  /-- HEARTBEAT (R388). SPDM heartbeat keeping a session alive. -/
  | heartbeat
  /-- KEY_UPDATE (R388). SPDM request updating session keys. -/
  | keyUpdate
  /-- END_SESSION (R391). Ends a secured session and erases the key indices bound to it. -/
  | endSession
  /-- CLAIM (R390). Makes the session the driver's session if none stands. -/
  | claim
  /-- BIND (R389). Makes a key index settable by a named session. -/
  | bind
  /-- KEYSET (R389). Loads an AES-256-XTS key pair into a bound key index. -/
  | keyset
  /-- KEYCLR (R391). Erases a key index, ending the contexts that use it. -/
  | keyclr
  /-- DEVRESET (R400). Resets the device as power-on while HBM4 keeps its ciphertext. -/
  | devreset
  /-- HEDGERESET (R400). Ends every context of a hedge with KEYLOST and zeroes its buffers. -/
  | hedgereset
  /-- FWWRITE (R390). Writes image bytes into the firmware slot not running. -/
  | fwwrite
  /-- FWCOMMIT (R390). Verifies the written firmware image and returns its digest. -/
  | fwcommit
  /-- HEALTH (R390). Returns the 64-byte health record. -/
  | health
  /-- POWER_ON (R395). The boot ROM verifies firmware slots, boots one or enters recovery. -/
  | powerOn
  /-- THERMAL_TRIP (R399). At 105 °C junction the device stops clocks, ends contexts and erases keys. -/
  | thermalTrip
  /-- RETIREMENT_REPORT (R398). A retirement report is posted to the health ring when it has room. -/
  | retirementReport
  /-- POWER_LOSS (R400). The supply is lost, and all keys, tables and running state are gone until power-on. -/
  | powerLoss
  deriving DecidableEq, Repr

end Sys2Proof
end

