-- ==== Sys2Proof/WellFormed.lean ====
section
/-! DEFINITION. When a word is an instruction (02_encoding.md, R35, R36, R39, R402, and each instruction's own
conditions on its bits). `Instr.faults` lists the AUX values of every fault in the bits of a word; a word is
well formed when the list is empty, and ILLEGAL records the lowest AUX of the list (R402). -/

namespace Sys2Proof

/-- The operand kinds of R35; `none` is a field that the instruction does not use. -/
inductive Kind
  | none | v | vp | vq | gr | qp | tl | cb | num
  deriving DecidableEq, Repr

/-- R35, R402: a field outside its kind is AUX 0x03, a misaligned pair or quad AUX 0x05. -/
def Kind.faults (k : Kind) (x : Field) : List Nat :=
  match k with
  | .none => if x = 0 then [] else [3]
  | .v | .num => []
  | .vp => if x.toNat % 2 = 0 then [] else [5]
  | .vq => if x.toNat % 4 = 0 then [] else [5]
  | .gr => if x.toNat < 64 then [] else [3]
  | .qp => if x.toNat < 8 then [] else [3]
  | .tl => if x.toNat < 16 then [] else [3]
  | .cb => if x.toNat < 2 then [] else [3]

/-- AUX `aux` unless `ok`. -/
def need (ok : Bool) (aux : Nat) : List Nat := if ok then [] else [aux]

/-- R39, R402: GE where no guard is taken, or GE = 0 with a bit of 6:3 set. -/
def Guard.faults (g : Guard) (allowed : Bool) : List Nat :=
  need (if g.ge then allowed else !g.gn && g.gq == 0) 6

/-- The kind W of R92: a pair for the 64-bit types .s64 and .u64. -/
def kindW (ty : BitVec 4) : Kind := if ty = 2 || ty = 3 then .vp else .v

/-- What a lane instruction accepts (R92, R93, R97 to R113). -/
structure LaneShape where
  d : Kind
  a : Kind
  b : Kind
  c : Kind := .none
  tys : List Nat
  subs : List Nat := [0]
  gb : Bool := true
  sat : Bool := false
  rnd : Bool := false

/-- The faults of a V3 or V4 word against its shape. B names a gang register under GB (R36), and Q2 of a V3
word is a qualifier subfield (`cQual`), checked by the instruction. DESIGN CHOICE (log 49): where GB = 1 is not accepted, B
is judged as a gang register all the same, so that a B above 63 adds AUX 0x03. -/
def FV3.faults (o : FV3) (s : LaneShape) (cQual : Option Bool := Option.none) : List Nat :=
  s.d.faults o.d ++ s.a.faults o.a ++
  (if o.gb then
    need (s.gb && s.b != .none && !(s.b == .vp)) 4 ++ (if s.b == .none then Kind.none.faults o.b else Kind.gr.faults o.b)
   else s.b.faults o.b) ++
  (match cQual with
   | Option.none => s.c.faults o.c
   | some ok => need ok 4) ++
  need (s.tys.contains o.ty.toNat) 4 ++ need (s.subs.contains o.sub.toNat) 4 ++
  need (s.sat || !o.sat) 4 ++ need (if s.rnd then o.rnd.toNat ≤ 4 else o.rnd == 0) 4 ++
  o.guard.faults true

/-- R36: a V3 word whose Q2 is unused. -/
def FV3.faults3 (o : FV3) (s : LaneShape) : List Nat := o.faults s (some (o.c == 0))

/-- R94: the faults of a VI word. -/
def FVI.faults (o : FVI) (d : Kind) (tys : List Nat) (subs : List Nat) : List Nat :=
  d.faults o.d ++ (kindW o.ty).faults o.a ++ need (tys.contains o.ty.toNat) 4 ++
  need (subs.contains o.sub.toNat) 4 ++ o.guard.faults true

/-- R94: an immediate shift count outside 0 to N - 1. -/
def FVI.shiftFaults (o : FVI) : List Nat :=
  need (o.imm.toNat < (if kindW o.ty = .vp then 64 else 32)) 7

/-- R63, R66: the faults of a G word. -/
def FG.faults (o : FG) (c : Kind) (subs : List Nat) : List Nat :=
  Kind.gr.faults o.d ++ Kind.gr.faults o.a ++ Kind.gr.faults o.b ++ c.faults o.c ++
  need (subs.contains o.sub.toNat) 4 ++ o.guard.faults false

/-- R63: the faults of a GI word. -/
def FGI.faults (o : FGI) (subs : List Nat) : List Nat :=
  Kind.gr.faults o.d ++ Kind.gr.faults o.a ++ need (subs.contains o.sub.toNat) 4 ++ o.guard.faults false

/-- R64: an immediate shift count outside 0 to 63. -/
def FGI.shiftFaults (o : FGI) : List Nat := need (o.imm.toNat < 64) 7

/-- R66, R97, R90: the faults of an E word. -/
def FE.faults (o : FE) (d : Kind) (guardOk : Bool) : List Nat :=
  d.faults o.d ++ need (o.q == 0) 2 ++ o.guard.faults guardOk

/-- R69, R90: BR and CALL. -/
def FB.branchFaults (o : FB) : List Nat :=
  Kind.none.faults o.d ++ need (o.q.toNat < 4) 2 ++
  need (if o.guard.ge then o.q.toNat % 4 != 3 else o.q.toNat % 4 == 0) 4 ++
  need (o.guard.ge || (!o.guard.gn && o.guard.gq == 0)) 6

/-- R134: ATTEMPT and OTHERWISE. -/
def FB.levelFaults (o : FB) : List Nat :=
  Kind.none.faults o.d ++ need (o.q == 0) 2 ++ o.guard.faults false

/-- R90, R134, R167: the faults of an X or T word. `used` is the mask of the QUAL bits in use. -/
def FX.faults (o : FX) (d a b c : Kind) (used : BitVec 12) (guardOk : Bool := false) : List Nat :=
  d.faults o.d ++ a.faults o.a ++ b.faults o.b ++ c.faults o.c ++
  need (o.qual &&& ~~~ used == 0) 2 ++ o.guard.faults guardOk

/-- The data register's kind by SIZE (R38). -/
def kindSize (size : BitVec 3) : Kind := if size = 3 then .vp else if size = 4 then .vq else .v

/-- The index register's kind by IDX (R38). -/
def kindIdx (idx : BitVec 2) : Kind := if idx = 0 then .none else if idx = 3 then .vp else .v

/-- The kind of a group of 1, 2 or 4 elements (R114, R115). -/
def kindCount (mq : BitVec 3) : Kind :=
  if mq.toNat % 4 = 1 then .vp else if mq.toNat % 4 = 2 then .vq else .v

/-- R116: the scopes that loads and stores accept in each space. -/
def ldScope (space scope : Nat) : Bool :=
  match space with
  | 0 => scope == 0
  | 1 => scope ≤ 2
  | 2 => scope == 2
  | 3 => scope == 3
  | 4 => scope ≤ 4
  | _ => false

/-- R116: the scopes that ATOM and RED accept in each space. -/
def atScope (space scope : Nat) : Bool :=
  match space with
  | 1 => scope == 1 || scope == 2
  | 2 => scope == 2
  | 3 => scope == 3
  | 4 => scope == 3 || scope == 4
  | _ => false

/-- R116: the scopes that CLEAN and INVAL accept in each space. -/
def mtScope (space scope : Nat) : Bool :=
  match space with
  | 3 => scope == 3
  | 4 => 1 ≤ scope && scope ≤ 4
  | _ => false

/-- What an M instruction accepts (R114 to R116). -/
structure MemShape where
  d : Kind
  idx : List Nat := [0, 1, 2, 3]
  scopeOk : Bool
  sizes : List Nat
  ords : List Nat
  defer : Bool := false
  mopOk : Bool
  mqOk : Bool
  guardOk : Bool := true

/-- The faults of an M word against its shape. -/
def FM.faults (o : FM) (s : MemShape) : List Nat :=
  s.d.faults o.d ++ Kind.gr.faults o.a ++ (kindIdx o.idx).faults o.b ++
  need (s.idx.contains o.idx.toNat) 4 ++ need s.scopeOk 4 ++ need (s.sizes.contains o.size.toNat) 4 ++
  need (s.ords.contains o.ord.toNat) 4 ++ need (s.defer || !o.defer) 4 ++ need s.mopOk 4 ++ need s.mqOk 4 ++
  o.guard.faults s.guardOk

/-- The faults of FENCE, CLEAN, INVAL and ICINV (R114), whose A and B are given as kinds. -/
def FM.orderFaults (o : FM) (ab : Kind) (ords : List Nat) (scopeOk guardOk : Bool) : List Nat :=
  Kind.none.faults o.d ++ ab.faults o.a ++ ab.faults o.b ++ need (o.idx == 0) 4 ++ need scopeOk 4 ++
  need (o.size == 0) 4 ++ need (ords.contains o.ord.toNat) 4 ++ need (!o.defer) 4 ++ need (o.mop == 0) 4 ++
  need (o.mq == 0) 4 ++ o.guard.faults guardOk

/-- R126: the operations and sizes of atomics; RED has no .exch and no .cas. -/
def atomOk (o : FM) (red : Bool) : Bool :=
  let m := o.mop.toNat
  if m ≤ 5 then true else if m ≤ 7 then !red else if m ≤ 12 then o.size == 2 else false

/-- R125: the operand register of an atomic. -/
def kindAtom (o : FM) : Kind :=
  if o.mop = 7 then (if o.size = 3 then .vq else .vp) else (if o.size = 3 then .vp else .v)

/-- R115: MQ of an atomic; .u only with .min and .max. -/
def atomMq (o : FM) : Bool := o.mq == 0 || (o.mq == 1 && (o.mop == 1 || o.mop == 2))

/-- R115: MQ of a load; policy 0b11 is reserved and .sx needs .b8 or .b16. -/
def loadMq (o : FM) : Bool := o.mq.toNat / 2 != 3 && (o.mq.toNat % 2 == 0 || o.size.toNat ≤ 1)

/-- R183: the accumulator tiles of an MMA (two) or MMAS (one) overlap the A tiles (four with .t). -/
def mmaOverlap (o : FX) (accs : Nat) : Bool :=
  let d := o.d.toNat; let a := o.a.toNat; let n := if bits o.qual.toNat 9 9 = 1 then 4 else 1
  decide (d < a + n) && decide (a < d + accs)

/-- R167, R181 to R183: an MMA or MMAS. -/
def FX.mmaFaults (o : FX) (accs : Nat) : List Nat :=
  o.faults .tl .tl .cb .none 0x3FF ++ need (accs == 1 || o.d.toNat % 2 == 0) 7 ++ need (!mmaOverlap o accs) 7 ++
  need (bits o.qual.toNat 9 9 == 0 || o.a.toNat ≤ 12) 7

/-- The accepted integer types of R93. -/
def tyInt : List Nat := [0, 1, 2, 3]

/-- R93: the shape shared by IADD to IMUL, IAND to IXOR, IMIN and IMAX. -/
def shapeW (o : FV3) (sat : Bool) : LaneShape :=
  { d := kindW o.ty, a := kindW o.ty, b := kindW o.ty, tys := tyInt, sat := sat }

/-- R93: the shape of the shifts, whose count is a 32-bit register. GB with a 64-bit type is refused (R92). -/
def shapeShift (o : FV3) : LaneShape :=
  { d := kindW o.ty, a := kindW o.ty, b := .v, tys := tyInt, gb := kindW o.ty == .v }

/-- R107: the shape of the special functions. -/
def shapeSf (sat rnd : Bool) : LaneShape :=
  { d := .v, a := .v, b := .none, tys := [4], gb := false, sat := sat, rnd := rnd }

/-- R100: the shape of the FP32 arithmetic. -/
def shapeF (sat rnd : Bool) : LaneShape := { d := .v, a := .v, b := .v, tys := [4], sat := sat, rnd := rnd }

/-- R108: the segment qualifier in Q2[2:0]. -/
def segOk (o : FV3) : Bool := o.c.toNat ≤ 5

/-- R40: the opcodes that the opcode map assigns. -/
def opcodeAssigned (n : Nat) : Bool :=
  (0x01 ≤ n && n ≤ 0x18) || (0x20 ≤ n && n ≤ 0x2D) || (0x30 ≤ n && n ≤ 0x3D) || (0x40 ≤ n && n ≤ 0x52) ||
  (0x55 ≤ n && n ≤ 0x5C) || (0x60 ≤ n && n ≤ 0x69) || (0x70 ≤ n && n ≤ 0x7C) || (0x80 ≤ n && n ≤ 0x90) ||
  (0xA0 ≤ n && n ≤ 0xAD) || (0xB0 ≤ n && n ≤ 0xBC) || (0xC0 ≤ n && n ≤ 0xC4) || (0xD0 ≤ n && n ≤ 0xDB)

/-- The AUX values of every fault in the bits of the word that the instruction stands for; a step without a
word has none. DESIGN CHOICE (log 45): under a reserved SUB, for which R98 gives no kinds, D and A of QMOV count as
predicates, so that a larger number records 0x03 and not 0x04. DESIGN CHOICE (log 49): under any other reserved code an
operand has the kind that follows: V for D under SUB 6 and 7 of QFOLD and for B under SUB 5 to 7 of LPERM; for D of a
memory word V under a reserved SIZE, and what the low two bits of a reserved MQ give; the kind of SIZE for D of an atomic
under a reserved MOP; and V under a reserved TY. -/
def Instr.faults : Instr → List Nat
  | .nop o | .ret o | .exit o | .brk o | .acquire o | .settle o | .retry o | .fbegin o | .fend o =>
    o.faults .none .none .none .none 0
  | .br o | .call o => o.branchFaults
  | .brg o => Kind.gr.faults o.d ++ need (o.q.toNat < 2) 2 ++ o.guard.faults false
  | .jt o => o.faults .none .gr .gr .gr 0xFFF
  | .jtv o => o.faults .none .v .gr .gr 0xFFF
  | .calli o => o.faults .none .gr .none .none 0xFFF
  | .lpad o => o.faults .none .none .none .none 0xFFF
  | .regang o => o.faults .none .gr .none .none 0
  | .trap o => o.faults .none .none .none .none 0xF
  | .elect o | .maskrd o => o.faults .qp .gr .none .none 0 true
  | .maskwr o => o.faults .gr .qp .none .none 0 true
  | .sread o =>
    o.faults (if o.a = 0 then .vp else .gr) .num .none .none 0 ++ need (o.a.toNat < 16) 3
  | .swriteFflags o => o.faults .num .gr .none .none 0 ++ need (o.d == 9) 3
  | .swriteFmode o => o.faults .num .gr .none .none 0 ++ need (o.d == 10) 3
  | .swritePrivhwm o => o.faults .num .gr .none .none 0 ++ need (o.d == 12) 3
  | .swriteTrapvec o => o.faults .num .gr .none .none 0 ++ need (o.d == 14) 3
  | .swriteReadOnly o =>
    o.faults .num .gr .none .none 0 ++ need (!(o.d == 9 || o.d == 10 || o.d == 12 || o.d == 14)) 3
  | .gmovi o | .gmovh o => o.faults .gr false
  | .movi o => o.faults .v true
  | .glea o => o.faults .gr (List.range 16)
  | .gsel o => o.faults .gr [0]
  | .gset o => o.faults .none (List.range 10)
  | .gadd o | .gsub o | .gmul o | .gand o | .gor o | .gxor o | .gshl o | .gshr o | .gsar o => o.faults .none [0]
  | .gmulh o | .gdiv o | .grem o | .gmin o | .gmax o => o.faults .none [0, 1]
  | .gaddImm o | .gsubImm o | .gmulImm o | .gandImm o | .gorImm o | .gxorImm o => o.faults [0]
  | .gshlImm o | .gshrImm o | .gsarImm o => o.faults [0] ++ o.shiftFaults
  | .gmulhImm o | .gdivImm o | .gremImm o | .gminImm o | .gmaxImm o => o.faults [0, 1]
  | .iadd o | .isub o | .imul o => o.faults3 (shapeW o true)
  | .iand o | .ior o | .ixor o | .imin o | .imax o => o.faults3 (shapeW o false)
  | .imulh o => o.faults3 { d := .v, a := .v, b := .v, tys := [0, 1] }
  | .imad o =>
    let w := if bits o.sub.toNat 0 0 = 1 then Kind.vp else .v
    o.faults { d := w, a := .v, b := .v, c := w, tys := [0, 1], subs := [0, 1], sat := bits o.sub.toNat 0 0 == 0 }
  | .ishl o | .ishr o | .isar o => o.faults3 (shapeShift o)
  | .iabs o => o.faults3 { d := kindW o.ty, a := kindW o.ty, b := .none, tys := [0, 2], gb := false, sat := true }
  | .iclz o | .ipopc o => o.faults3 { d := .v, a := kindW o.ty, b := .none, tys := [1, 3], gb := false }
  | .iaddImm o | .isubImm o | .imulImm o | .iandImm o | .iorImm o | .ixorImm o | .iminImm o | .imaxImm o =>
    o.faults (kindW o.ty) tyInt [0]
  | .ishlImm o | .ishrImm o | .isarImm o => o.faults (kindW o.ty) tyInt [0] ++ o.shiftFaults
  | .isetImm o => o.faults .qp tyInt [0, 1, 2, 3]
  | .ibfx o => o.faults3 { d := .v, a := .v, b := .v, tys := [0, 1] }
  | .ibfi o => o.faults3 { d := .v, a := .v, b := .v, tys := [1] }
  | .iset o =>
    o.faults3 { d := .qp, a := kindW o.ty, b := kindW o.ty, tys := tyInt, subs := [0, 1, 2, 3, 4, 5] }
  | .mov o => o.faults3 { d := kindW o.ty, a := kindW o.ty, b := .none, tys := [1, 3], gb := false }
  | .movg o => o.faults3 { d := kindW o.ty, a := .gr, b := .none, tys := [1, 3], gb := false }
  | .sel o =>
    o.faults { d := kindW o.ty, a := kindW o.ty, b := kindW o.ty, tys := [1, 3] } (some true) ++ Kind.qp.faults o.c
  | .qop o => o.faults3 { d := .qp, a := .qp, b := .qp, tys := [0], subs := List.range 8, gb := false }
  | .qmov o =>
    let s := o.sub.toNat
    o.faults3 { d := if s = 2 then .v else .qp, a := if s = 1 then .v else .qp, b := .none, tys := [0],
                subs := [0, 1, 2], gb := false }
  | .fadd o | .fsub o | .fmul o => o.faults3 (shapeF true true)
  | .ffma o => o.faults { shapeF true true with c := .v }
  | .fmin o | .fmax o => o.faults3 (shapeF false false)
  | .fset o => o.faults3 { shapeF false false with d := .qp, subs := List.range 8 }
  | .fclass o => o.faults3 (shapeSf false false)
  | .frnd o => o.faults3 (shapeSf false true)
  | .hadd2 o | .hmul2 o => o.faults3 { shapeF true true with tys := [5, 6] }
  | .hfma2 o => o.faults { shapeF true true with tys := [5, 6], c := .v }
  | .cvt o =>
    o.faults { d := kindW o.ty, a := kindW (BitVec.ofNat 4 o.c.toNat), b := .none, tys := List.range 15,
               gb := false, sat := true, rnd := true } (some (o.c.toNat < 15))
  | .dp4 o =>
    o.faults { d := .v, a := .v, b := .v, c := .v, tys := [10, 8, 7], sat := true, rnd := true,
               subs := if o.ty = 10 then [0, 1, 2, 3] else [0] }
  | .dp8 o =>
    o.faults { d := .v, a := .v, b := .v, c := .v, tys := [11, 9], sat := true, rnd := true,
               subs := if o.ty = 11 then [0, 1, 2, 3] else [0] }
  | .qpack o | .qunpk o =>
    o.faults3 { d := .v, a := .v, b := .v, tys := [7, 8, 9, 10, 11], sat := true, rnd := true,
                subs := if o.ty = 9 || o.ty = 11 then List.range 8 else List.range 4 }
  | .rcp o | .rsq o | .log2 o | .sin o | .cos o | .tanh o => o.faults3 (shapeSf false false)
  | .sqrt o => o.faults3 (shapeSf false true)
  | .exp2 o => o.faults3 (shapeSf true false)
  | .lperm o =>
    o.faults { d := kindW o.ty, a := kindW o.ty, b := if o.sub = 4 then .none else .v, tys := [1, 3],
               subs := List.range 5, gb := o.ty == 1 } (some (segOk o))
  | .bcast o =>
    o.faults { d := kindW o.ty, a := kindW o.ty, b := .v, tys := [1, 3] } (some (o.c == 0)) ++ need o.gb 4
  | .qfold o =>
    o.faults { d := if o.sub.toNat ≤ 2 then .qp else .v, a := .qp, b := .none, tys := [0],
               subs := List.range 6, gb := false } (some (segOk o))
  | .redx o =>
    o.faults { d := .v, a := .v, b := .none, tys := [0, 1, 4], gb := false,
               subs := if o.ty = 4 then [0, 1, 2] else List.range 6, sat := o.ty != 4 && o.sub == 0,
               rnd := o.ty == 4 && o.sub == 0 } (some (segOk o))
  | .scanx o =>
    let s := o.sub.toNat % 4
    o.faults { d := .v, a := .v, b := .none, tys := [0, 1, 4], gb := false,
               subs := if o.ty = 4 then [0, 1, 2, 4, 5, 6] else List.range 8, sat := o.ty != 4 && s == 0,
               rnd := o.ty == 4 && s == 0 } (some (segOk o))
  | .ld o =>
    o.faults { d := kindSize o.size, scopeOk := ldScope o.space.toNat o.scope.toNat, sizes := List.range 5, ords := [0, 1],
               mopOk := o.mop == 0, mqOk := loadMq o }
  | .st o =>
    o.faults { d := kindSize o.size, scopeOk := ldScope o.space.toNat o.scope.toNat, sizes := List.range 5, ords := [0, 2],
               defer := true, mopOk := o.mop == 0, mqOk := o.mq == 0 || o.mq == 2 || o.mq == 4 }
  | .ldd o =>
    o.faults { d := kindCount o.mq, idx := [0, 3], scopeOk := o.space == 4 && o.scope.toNat ≤ 4, sizes := [0],
               ords := [0, 1], mopOk := o.mop == 0, mqOk := o.mq.toNat < 3 }
  | .stq o =>
    o.faults { d := kindCount o.mq, idx := [0, 3], scopeOk := o.space == 4 && o.scope.toNat ≤ 4, sizes := [0],
               ords := [0, 2], mopOk := o.mop == 0, mqOk := o.mq.toNat % 4 != 3 }
  | .pf o =>
    o.faults { d := .none, scopeOk := (o.space == 3 || o.space == 4) && o.scope.toNat ≤ 4, sizes := List.range 5,
               ords := [0], mopOk := o.mop == 0, mqOk := o.mq.toNat ≤ 1 }
  | .rld o =>
    o.faults { d := kindSize o.size, scopeOk := o.space == 4 && o.scope == 4, sizes := List.range 5, ords := [0, 1],
               mopOk := o.mop == 0, mqOk := o.mq == 0 || (o.mq == 1 && o.size.toNat ≤ 1) }
  | .rst o =>
    o.faults { d := kindSize o.size, scopeOk := o.space == 4 && o.scope == 4, sizes := List.range 5, ords := [0, 2],
               defer := true, mopOk := o.mop == 0, mqOk := o.mq == 0 }
  | .rat o =>
    o.faults { d := kindAtom o, scopeOk := o.space == 4 && o.scope == 4, sizes := [2, 3], ords := [0, 1, 2, 3],
               mopOk := atomOk o false, mqOk := atomMq o }
  | .atom o =>
    o.faults { d := kindAtom o, scopeOk := atScope o.space.toNat o.scope.toNat, sizes := [2, 3], ords := [0, 1, 2, 3],
               mopOk := atomOk o false, mqOk := atomMq o }
  | .red o =>
    o.faults { d := kindAtom o, scopeOk := atScope o.space.toNat o.scope.toNat, sizes := [2, 3], ords := [0, 2],
               defer := true, mopOk := atomOk o true, mqOk := atomMq o }
  | .fence o => o.orderFaults .none [1, 2, 3] (o.space == 0 && o.scope.toNat ≤ 4) false
  | .clean o | .inval o => o.orderFaults .gr [0] (mtScope o.space.toNat o.scope.toNat) true
  | .icinv o => o.orderFaults .gr [0] (o.space == 4 && o.scope == 3) false
  | .attempt o | .otherwise o => o.levelFaults
  | .abandon o => o.faults .none .none .none .none 0x7F
  | .xstat o => o.faults .gr .none .none .none 1
  | .waitw o =>
    o.faults { d := if o.size = 3 then .vp else .v, scopeOk := o.space != 0 && ldScope o.space.toNat o.scope.toNat,
               sizes := [2, 3], ords := [0, 1], mopOk := o.mop.toNat ≤ 9, mqOk := o.mq == 0 }
  | .stinit o | .stexp o | .stwait o => o.faults .none .gr .gr .none 1
  | .starr o => o.faults .gr .gr .gr .none 1
  | .copy o => o.faults .qp .gr .gr .none 3
  | .msgsend o => o.faults .qp .gr .gr .gr 0xFFF ++ need (o.b.toNat ≤ 56) 3
  | .launch o => o.faults .qp .gr .gr .none 1
  | .dturn o => o.faults .qp .none .none .none 0x3F ++ need (8 ≤ bits o.qual.toNat 5 0 && bits o.qual.toNat 5 0 ≤ 56) 7
  | .dstat o => o.faults .gr .none .none .none 0
  | .tld o => o.faults .tl .gr .gr .none 0xFFF ++ need (bits o.qual.toNat 11 6 + bits o.qual.toNat 5 0 + 1 ≤ 64) 7
  | .tst o =>
    o.faults .tl .gr .gr .num 0xFFF ++ need (o.c.toNat ≤ 1) 3 ++
    need (bits o.qual.toNat 11 6 + bits o.qual.toNat 5 0 + 1 ≤ 64) 7
  | .tzero o => o.faults .tl .none .none .none 0
  | .tmov o => o.faults .tl .tl .none .none 0
  | .trd o =>
    let sc := bits o.qual.toNat 10 10 == 1
    o.faults (if sc then .vp else .v) .tl .none .none 0xE3F true ++ need (!(sc && bits o.qual.toNat 11 11 == 1)) 4 ++
    need (!(sc && bits o.qual.toNat 5 0 != 0)) 3
  | .twr o =>
    let sc := bits o.qual.toNat 10 10 == 1
    let c := o.c.toNat
    o.faults (if sc then .vp else .v) .tl .none .num 0xE3F true ++ need (!(sc && bits o.qual.toNat 11 11 == 1)) 4 ++
    need (!(sc && bits o.qual.toNat 5 0 != 0)) 3 ++
    (if bits c 8 8 = 1 then need (bits c 7 6 == 0) 3 ++ need (bits c 3 0 ≤ 7 && bits c 5 4 ≤ 2) 4 else need (c == 0) 3)
  | .cimld o =>
    let t := bits o.qual.toNat 3 3 == 1
    o.faults .cb .tl .none .none 0x3F ++ need (t || bits o.qual.toNat 5 4 == 0) 4 ++ need (!t || o.a.toNat ≤ 12) 7
  | .cimsel o => o.faults (if bits o.qual.toNat 0 0 = 1 then .none else .cb) .none .none .none 1
  | .mma o => o.mmaFaults 2
  | .mmas o => o.mmaFaults 1
  | .sheaf o => o.faults .gr .gr .none .none 0
  | .mwait o => o.faults .none .gr .gr .none 0
  -- the script words (R367): fields that an op does not use are 0
  | .sli _ | .slui _ => []
  | .sarg o => need (o.a == 0 && o.b == 0 && o.imm.toNat ≤ 7) 2
  | .sadd o | .ssub o | .sand o | .sor o | .sxor o => need (o.imm == 0) 2
  | .saddi o => need (o.b == 0) 2
  | .sshl o | .sshr o => need (o.b == 0 && o.imm.toNat ≤ 63) 2
  | .sld o | .sst o => need (o.b == 0 && o.imm.toNat % 8 == 0) 2
  | .ssig o => need (o.d == 0 && o.imm == 0) 2
  | .sbeq o | .sbne o | .sblt o => need (o.d == 0 && o.imm != 0) 2
  | .sloop o => need (o.a == 0 && o.b == 0 && o.imm != 0) 2
  | .senq o => need (o.imm.toNat ≤ 1) 2
  | .sabort o => need (o.d == 0 && o.a == 0 && o.b == 0) 2
  | .unassignedOpcode op => need (!opcodeAssigned op.toNat) 1
  -- the steps that have no word
  | _ => []

/-- The lowest AUX of a list of faults (R402). -/
def lowestAux : List Nat → Option Nat
  | [] => none
  | a :: as => some (as.foldl min a)

/-- No fault in the bits of the word. -/
def Instr.wellFormed (i : Instr) : Bool := i.faults.isEmpty

end Sys2Proof
end

