-- ==== Sys2Proof/Decode.lean ====
section
/-! DEFINITION. Decoding native words (02_encoding.md, R32 to R40, R402) and script words (21_launch.md, R367),
total on any bytes, and the encoder written from the same tables. A native word comes apart into an instruction
and its P and S bits; a word that is no instruction is refused with the AUX that ILLEGAL records. -/

namespace Sys2Proof

/-- The little-endian bytes of a number (R7). -/
def leBytes : Nat → Nat → List Byte
  | 0, _ => []
  | k + 1, x => BitVec.ofNat 8 x :: leBytes k (x / 256)

/-- The number that little-endian bytes hold (R7). -/
def leNat : List Byte → Nat
  | [] => 0
  | b :: bs => b.toNat + 256 * leNat bs

/-- A 9-bit register field at bit `lo` (R32). -/
def fieldAt (w lo : Nat) : Field := BitVec.ofNat 9 (w / 2 ^ lo)

/-- The bit at position `lo`. -/
def bitAt (w lo : Nat) : Bool := w / 2 ^ lo % 2 == 1

/-- GE, GN and GQ (R32). -/
def Guard.ofWord (w : Nat) : Guard := { ge := bitAt w 7, gn := bitAt w 6, gq := BitVec.ofNat 3 (w / 2 ^ 3) }

/-- V3 and V4 (R34). -/
def FV3.ofWord (w : Nat) : FV3 :=
  { d := fieldAt w 47, a := fieldAt w 38, b := fieldAt w 29, c := fieldAt w 20, gb := bitAt w 19, sat := bitAt w 18,
    rnd := BitVec.ofNat 3 (w / 2 ^ 15), ty := BitVec.ofNat 4 (w / 2 ^ 11), sub := BitVec.ofNat 3 (w / 2 ^ 8),
    guard := Guard.ofWord w }

/-- VI (R34): IMM lies in bits 37:14. -/
def FVI.ofWord (w : Nat) : FVI :=
  { d := fieldAt w 47, a := fieldAt w 38, imm := BitVec.ofNat 24 (w / 2 ^ 14), ty := BitVec.ofNat 4 (w / 2 ^ 10),
    sub := BitVec.ofNat 2 (w / 2 ^ 8), guard := Guard.ofWord w }

/-- G (R34). -/
def FG.ofWord (w : Nat) : FG :=
  { d := fieldAt w 47, a := fieldAt w 38, b := fieldAt w 29, c := fieldAt w 20, sub := BitVec.ofNat 4 (w / 2 ^ 8),
    guard := Guard.ofWord w }

/-- GI (R34): IMM lies in bits 37:14. -/
def FGI.ofWord (w : Nat) : FGI :=
  { d := fieldAt w 47, a := fieldAt w 38, imm := BitVec.ofNat 24 (w / 2 ^ 14), sub := BitVec.ofNat 6 (w / 2 ^ 8),
    guard := Guard.ofWord w }

/-- E (R34): IMM lies in bits 46:15. -/
def FE.ofWord (w : Nat) : FE :=
  { d := fieldAt w 47, imm := BitVec.ofNat 32 (w / 2 ^ 15), q := BitVec.ofNat 7 (w / 2 ^ 8), guard := Guard.ofWord w }

/-- B (R34): OFF lies in bits 46:15. -/
def FB.ofWord (w : Nat) : FB :=
  { d := fieldAt w 47, off := BitVec.ofNat 32 (w / 2 ^ 15), q := BitVec.ofNat 7 (w / 2 ^ 8), guard := Guard.ofWord w }

/-- M (R34): C holds ORD 28:27, DEFER 26, IDX 25:24 and MOP 23:20. -/
def FM.ofWord (w : Nat) : FM :=
  { d := fieldAt w 47, a := fieldAt w 38, b := fieldAt w 29, ord := BitVec.ofNat 2 (w / 2 ^ 27), defer := bitAt w 26,
    idx := BitVec.ofNat 2 (w / 2 ^ 24), mop := BitVec.ofNat 4 (w / 2 ^ 20), scope := BitVec.ofNat 3 (w / 2 ^ 17),
    space := BitVec.ofNat 3 (w / 2 ^ 14), size := BitVec.ofNat 3 (w / 2 ^ 11), mq := BitVec.ofNat 3 (w / 2 ^ 8),
    guard := Guard.ofWord w }

/-- X and T (R34). -/
def FX.ofWord (w : Nat) : FX :=
  { d := fieldAt w 47, a := fieldAt w 38, b := fieldAt w 29, c := fieldAt w 20, qual := BitVec.ofNat 12 (w / 2 ^ 8),
    guard := Guard.ofWord w }

/-- R83: SWRITE by the register that it names; every number but the four writable ones is a refused write. -/
def swriteOf (o : FX) : Instr :=
  if o.d = 9 then .swriteFflags o else if o.d = 10 then .swriteFmode o
  else if o.d = 12 then .swritePrivhwm o else if o.d = 14 then .swriteTrapvec o else .swriteReadOnly o

/-- The instruction that the opcode and fields of a word name (R40, R41). -/
def instrOf (w : Nat) : Instr :=
  match w / 2 ^ 56 with
  | 0x01 => .nop (FX.ofWord w)
  | 0x02 => .br (FB.ofWord w)
  | 0x03 => .brg (FB.ofWord w)
  | 0x04 => .jt (FX.ofWord w)
  | 0x05 => .jtv (FX.ofWord w)
  | 0x06 => .call (FB.ofWord w)
  | 0x07 => .calli (FX.ofWord w)
  | 0x08 => .ret (FX.ofWord w)
  | 0x09 => .lpad (FX.ofWord w)
  | 0x0A => .regang (FX.ofWord w)
  | 0x0B => .exit (FX.ofWord w)
  | 0x0C => .trap (FX.ofWord w)
  | 0x0D => .brk (FX.ofWord w)
  | 0x0E => .elect (FX.ofWord w)
  | 0x0F => .acquire (FX.ofWord w)
  | 0x10 => .maskrd (FX.ofWord w)
  | 0x11 => .maskwr (FX.ofWord w)
  | 0x12 => .sread (FX.ofWord w)
  | 0x13 => swriteOf (FX.ofWord w)
  | 0x14 => .gmovi (FE.ofWord w)
  | 0x15 => .gmovh (FE.ofWord w)
  | 0x16 => .glea (FG.ofWord w)
  | 0x17 => .gsel (FG.ofWord w)
  | 0x18 => .gset (FG.ofWord w)
  | 0x20 => .gadd (FG.ofWord w)
  | 0x21 => .gsub (FG.ofWord w)
  | 0x22 => .gmul (FG.ofWord w)
  | 0x23 => .gmulh (FG.ofWord w)
  | 0x24 => .gdiv (FG.ofWord w)
  | 0x25 => .grem (FG.ofWord w)
  | 0x26 => .gand (FG.ofWord w)
  | 0x27 => .gor (FG.ofWord w)
  | 0x28 => .gxor (FG.ofWord w)
  | 0x29 => .gshl (FG.ofWord w)
  | 0x2A => .gshr (FG.ofWord w)
  | 0x2B => .gsar (FG.ofWord w)
  | 0x2C => .gmin (FG.ofWord w)
  | 0x2D => .gmax (FG.ofWord w)
  | 0x30 => .gaddImm (FGI.ofWord w)
  | 0x31 => .gsubImm (FGI.ofWord w)
  | 0x32 => .gmulImm (FGI.ofWord w)
  | 0x33 => .gmulhImm (FGI.ofWord w)
  | 0x34 => .gdivImm (FGI.ofWord w)
  | 0x35 => .gremImm (FGI.ofWord w)
  | 0x36 => .gandImm (FGI.ofWord w)
  | 0x37 => .gorImm (FGI.ofWord w)
  | 0x38 => .gxorImm (FGI.ofWord w)
  | 0x39 => .gshlImm (FGI.ofWord w)
  | 0x3A => .gshrImm (FGI.ofWord w)
  | 0x3B => .gsarImm (FGI.ofWord w)
  | 0x3C => .gminImm (FGI.ofWord w)
  | 0x3D => .gmaxImm (FGI.ofWord w)
  | 0x40 => .iadd (FV3.ofWord w)
  | 0x41 => .isub (FV3.ofWord w)
  | 0x42 => .imul (FV3.ofWord w)
  | 0x43 => .imulh (FV3.ofWord w)
  | 0x44 => .imad (FV3.ofWord w)
  | 0x45 => .iand (FV3.ofWord w)
  | 0x46 => .ior (FV3.ofWord w)
  | 0x47 => .ixor (FV3.ofWord w)
  | 0x48 => .ishl (FV3.ofWord w)
  | 0x49 => .ishr (FV3.ofWord w)
  | 0x4A => .isar (FV3.ofWord w)
  | 0x4B => .imin (FV3.ofWord w)
  | 0x4C => .imax (FV3.ofWord w)
  | 0x4D => .iabs (FV3.ofWord w)
  | 0x4E => .iclz (FV3.ofWord w)
  | 0x4F => .ipopc (FV3.ofWord w)
  | 0x50 => .iaddImm (FVI.ofWord w)
  | 0x51 => .isubImm (FVI.ofWord w)
  | 0x52 => .imulImm (FVI.ofWord w)
  | 0x55 => .iandImm (FVI.ofWord w)
  | 0x56 => .iorImm (FVI.ofWord w)
  | 0x57 => .ixorImm (FVI.ofWord w)
  | 0x58 => .ishlImm (FVI.ofWord w)
  | 0x59 => .ishrImm (FVI.ofWord w)
  | 0x5A => .isarImm (FVI.ofWord w)
  | 0x5B => .iminImm (FVI.ofWord w)
  | 0x5C => .imaxImm (FVI.ofWord w)
  | 0x60 => .ibfx (FV3.ofWord w)
  | 0x61 => .ibfi (FV3.ofWord w)
  | 0x62 => .iset (FV3.ofWord w)
  | 0x63 => .isetImm (FVI.ofWord w)
  | 0x64 => .mov (FV3.ofWord w)
  | 0x65 => .movi (FE.ofWord w)
  | 0x66 => .movg (FV3.ofWord w)
  | 0x67 => .sel (FV3.ofWord w)
  | 0x68 => .qop (FV3.ofWord w)
  | 0x69 => .qmov (FV3.ofWord w)
  | 0x70 => .fadd (FV3.ofWord w)
  | 0x71 => .fsub (FV3.ofWord w)
  | 0x72 => .fmul (FV3.ofWord w)
  | 0x73 => .ffma (FV3.ofWord w)
  | 0x74 => .fmin (FV3.ofWord w)
  | 0x75 => .fmax (FV3.ofWord w)
  | 0x76 => .fset (FV3.ofWord w)
  | 0x77 => .fclass (FV3.ofWord w)
  | 0x78 => .frnd (FV3.ofWord w)
  | 0x79 => .hadd2 (FV3.ofWord w)
  | 0x7A => .hmul2 (FV3.ofWord w)
  | 0x7B => .hfma2 (FV3.ofWord w)
  | 0x7C => .cvt (FV3.ofWord w)
  | 0x80 => .dp4 (FV3.ofWord w)
  | 0x81 => .dp8 (FV3.ofWord w)
  | 0x82 => .qpack (FV3.ofWord w)
  | 0x83 => .qunpk (FV3.ofWord w)
  | 0x84 => .rcp (FV3.ofWord w)
  | 0x85 => .rsq (FV3.ofWord w)
  | 0x86 => .sqrt (FV3.ofWord w)
  | 0x87 => .exp2 (FV3.ofWord w)
  | 0x88 => .log2 (FV3.ofWord w)
  | 0x89 => .sin (FV3.ofWord w)
  | 0x8A => .cos (FV3.ofWord w)
  | 0x8B => .tanh (FV3.ofWord w)
  | 0x8C => .lperm (FV3.ofWord w)
  | 0x8D => .bcast (FV3.ofWord w)
  | 0x8E => .qfold (FV3.ofWord w)
  | 0x8F => .redx (FV3.ofWord w)
  | 0x90 => .scanx (FV3.ofWord w)
  | 0xA0 => .ld (FM.ofWord w)
  | 0xA1 => .st (FM.ofWord w)
  | 0xA2 => .ldd (FM.ofWord w)
  | 0xA3 => .stq (FM.ofWord w)
  | 0xA4 => .pf (FM.ofWord w)
  | 0xA5 => .rld (FM.ofWord w)
  | 0xA6 => .rst (FM.ofWord w)
  | 0xA7 => .rat (FM.ofWord w)
  | 0xA8 => .atom (FM.ofWord w)
  | 0xA9 => .red (FM.ofWord w)
  | 0xAA => .fence (FM.ofWord w)
  | 0xAB => .clean (FM.ofWord w)
  | 0xAC => .inval (FM.ofWord w)
  | 0xAD => .icinv (FM.ofWord w)
  | 0xB0 => .attempt (FB.ofWord w)
  | 0xB1 => .otherwise (FB.ofWord w)
  | 0xB2 => .settle (FX.ofWord w)
  | 0xB3 => .abandon (FX.ofWord w)
  | 0xB4 => .retry (FX.ofWord w)
  | 0xB5 => .xstat (FX.ofWord w)
  | 0xB6 => .waitw (FM.ofWord w)
  | 0xB7 => .stinit (FX.ofWord w)
  | 0xB8 => .starr (FX.ofWord w)
  | 0xB9 => .stexp (FX.ofWord w)
  | 0xBA => .stwait (FX.ofWord w)
  | 0xBB => .fbegin (FX.ofWord w)
  | 0xBC => .fend (FX.ofWord w)
  | 0xC0 => .copy (FX.ofWord w)
  | 0xC1 => .msgsend (FX.ofWord w)
  | 0xC2 => .launch (FX.ofWord w)
  | 0xC3 => .dturn (FX.ofWord w)
  | 0xC4 => .dstat (FX.ofWord w)
  | 0xD0 => .tld (FX.ofWord w)
  | 0xD1 => .tst (FX.ofWord w)
  | 0xD2 => .tzero (FX.ofWord w)
  | 0xD3 => .tmov (FX.ofWord w)
  | 0xD4 => .trd (FX.ofWord w)
  | 0xD5 => .twr (FX.ofWord w)
  | 0xD6 => .cimld (FX.ofWord w)
  | 0xD7 => .cimsel (FX.ofWord w)
  | 0xD8 => .mma (FX.ofWord w)
  | 0xD9 => .mmas (FX.ofWord w)
  | 0xDA => .sheaf (FX.ofWord w)
  | 0xDB => .mwait (FX.ofWord w)
  | n => .unassignedOpcode (BitVec.ofNat 8 n)

/-- A native word taken apart (R32). -/
structure Decoded where
  instr : Instr
  /-- P: this word and the next issue jointly. -/
  pair : Bool
  /-- S: the switch marker. -/
  mark : Bool
  deriving DecidableEq, Repr

/-- R402: the faults that lie in the word outside the instruction's own fields: bit 2, and bits 19:12 of G. -/
def reservedFaults (w : Nat) (i : Instr) : List Nat :=
  (match i with | .unassignedOpcode _ => [] | _ => need (!bitAt w 2) 2) ++
  (match i with
   | .glea _ | .gsel _ | .gset _ | .gadd _ | .gsub _ | .gmul _ | .gmulh _ | .gdiv _ | .grem _ | .gand _ | .gor _
   | .gxor _ | .gshl _ | .gshr _ | .gsar _ | .gmin _ | .gmax _ => need (w / 2 ^ 12 % 256 == 0) 2
   | _ => [])

/-- R50 step 2 and R402: a word's instruction, or the AUX of the ILLEGAL trap. An unassigned opcode, and an SWRITE
that names no writable register, decode to their own instruction, which traps (R40, R22). -/
def decodeWord (w : Word64) : Except Nat Decoded :=
  let i := instrOf w.toNat
  let faults := reservedFaults w.toNat i ++ (match i with
    | .swriteReadOnly o =>
      -- a number that names no register traps with AUX 0x03 of its own (R22), unless a lower AUX applies
      let fs := o.faults .num .gr .none .none 0
      if o.d.toNat < 16 then fs else fs.filter (· < 3)
    | _ => i.faults)
  match lowestAux faults with
  | some aux => .error aux
  | none => .ok { instr := i, pair := bitAt w.toNat 1, mark := bitAt w.toNat 0 }

/-- The bits of a guard (R32). -/
def Guard.toNat (g : Guard) : Nat := g.ge.toNat * 2 ^ 7 + g.gn.toNat * 2 ^ 6 + g.gq.toNat * 2 ^ 3

/-- The bits of a V3 or V4 word but P and S. -/
def FV3.toNat (o : FV3) (op : Nat) : Nat :=
  op * 2 ^ 56 + o.d.toNat * 2 ^ 47 + o.a.toNat * 2 ^ 38 + o.b.toNat * 2 ^ 29 + o.c.toNat * 2 ^ 20 + o.gb.toNat * 2 ^ 19 +
  o.sat.toNat * 2 ^ 18 + o.rnd.toNat * 2 ^ 15 + o.ty.toNat * 2 ^ 11 + o.sub.toNat * 2 ^ 8 + o.guard.toNat

/-- The bits of a VI word but P and S. -/
def FVI.toNat (o : FVI) (op : Nat) : Nat :=
  op * 2 ^ 56 + o.d.toNat * 2 ^ 47 + o.a.toNat * 2 ^ 38 + o.imm.toNat * 2 ^ 14 + o.ty.toNat * 2 ^ 10 +
  o.sub.toNat * 2 ^ 8 + o.guard.toNat

/-- The bits of a G word but P and S. -/
def FG.toNat (o : FG) (op : Nat) : Nat :=
  op * 2 ^ 56 + o.d.toNat * 2 ^ 47 + o.a.toNat * 2 ^ 38 + o.b.toNat * 2 ^ 29 + o.c.toNat * 2 ^ 20 +
  o.sub.toNat * 2 ^ 8 + o.guard.toNat

/-- The bits of a GI word but P and S. -/
def FGI.toNat (o : FGI) (op : Nat) : Nat :=
  op * 2 ^ 56 + o.d.toNat * 2 ^ 47 + o.a.toNat * 2 ^ 38 + o.imm.toNat * 2 ^ 14 + o.sub.toNat * 2 ^ 8 + o.guard.toNat

/-- The bits of an E word but P and S. -/
def FE.toNat (o : FE) (op : Nat) : Nat :=
  op * 2 ^ 56 + o.d.toNat * 2 ^ 47 + o.imm.toNat * 2 ^ 15 + o.q.toNat * 2 ^ 8 + o.guard.toNat

/-- The bits of a B word but P and S. -/
def FB.toNat (o : FB) (op : Nat) : Nat :=
  op * 2 ^ 56 + o.d.toNat * 2 ^ 47 + o.off.toNat * 2 ^ 15 + o.q.toNat * 2 ^ 8 + o.guard.toNat

/-- The bits of an M word but P and S. -/
def FM.toNat (o : FM) (op : Nat) : Nat :=
  op * 2 ^ 56 + o.d.toNat * 2 ^ 47 + o.a.toNat * 2 ^ 38 + o.b.toNat * 2 ^ 29 + o.ord.toNat * 2 ^ 27 +
  o.defer.toNat * 2 ^ 26 + o.idx.toNat * 2 ^ 24 + o.mop.toNat * 2 ^ 20 + o.scope.toNat * 2 ^ 17 +
  o.space.toNat * 2 ^ 14 + o.size.toNat * 2 ^ 11 + o.mq.toNat * 2 ^ 8 + o.guard.toNat

/-- The bits of an X or T word but P and S. -/
def FX.toNat (o : FX) (op : Nat) : Nat :=
  op * 2 ^ 56 + o.d.toNat * 2 ^ 47 + o.a.toNat * 2 ^ 38 + o.b.toNat * 2 ^ 29 + o.c.toNat * 2 ^ 20 +
  o.qual.toNat * 2 ^ 8 + o.guard.toNat

/-- The word of an instruction with P = S = 0, from the opcode map (R40); 0 for a step that has no native word. -/
def encodeInstr : Instr → Nat
  | .nop o => o.toNat 0x01
  | .br o => o.toNat 0x02
  | .brg o => o.toNat 0x03
  | .jt o => o.toNat 0x04
  | .jtv o => o.toNat 0x05
  | .call o => o.toNat 0x06
  | .calli o => o.toNat 0x07
  | .ret o => o.toNat 0x08
  | .lpad o => o.toNat 0x09
  | .regang o => o.toNat 0x0A
  | .exit o => o.toNat 0x0B
  | .trap o => o.toNat 0x0C
  | .brk o => o.toNat 0x0D
  | .elect o => o.toNat 0x0E
  | .acquire o => o.toNat 0x0F
  | .maskrd o => o.toNat 0x10
  | .maskwr o => o.toNat 0x11
  | .sread o => o.toNat 0x12
  | .swriteFflags o => o.toNat 0x13
  | .swriteFmode o => o.toNat 0x13
  | .swritePrivhwm o => o.toNat 0x13
  | .swriteTrapvec o => o.toNat 0x13
  | .swriteReadOnly o => o.toNat 0x13
  | .gmovi o => o.toNat 0x14
  | .gmovh o => o.toNat 0x15
  | .glea o => o.toNat 0x16
  | .gsel o => o.toNat 0x17
  | .gset o => o.toNat 0x18
  | .gadd o => o.toNat 0x20
  | .gsub o => o.toNat 0x21
  | .gmul o => o.toNat 0x22
  | .gmulh o => o.toNat 0x23
  | .gdiv o => o.toNat 0x24
  | .grem o => o.toNat 0x25
  | .gand o => o.toNat 0x26
  | .gor o => o.toNat 0x27
  | .gxor o => o.toNat 0x28
  | .gshl o => o.toNat 0x29
  | .gshr o => o.toNat 0x2A
  | .gsar o => o.toNat 0x2B
  | .gmin o => o.toNat 0x2C
  | .gmax o => o.toNat 0x2D
  | .gaddImm o => o.toNat 0x30
  | .gsubImm o => o.toNat 0x31
  | .gmulImm o => o.toNat 0x32
  | .gmulhImm o => o.toNat 0x33
  | .gdivImm o => o.toNat 0x34
  | .gremImm o => o.toNat 0x35
  | .gandImm o => o.toNat 0x36
  | .gorImm o => o.toNat 0x37
  | .gxorImm o => o.toNat 0x38
  | .gshlImm o => o.toNat 0x39
  | .gshrImm o => o.toNat 0x3A
  | .gsarImm o => o.toNat 0x3B
  | .gminImm o => o.toNat 0x3C
  | .gmaxImm o => o.toNat 0x3D
  | .iadd o => o.toNat 0x40
  | .isub o => o.toNat 0x41
  | .imul o => o.toNat 0x42
  | .imulh o => o.toNat 0x43
  | .imad o => o.toNat 0x44
  | .iand o => o.toNat 0x45
  | .ior o => o.toNat 0x46
  | .ixor o => o.toNat 0x47
  | .ishl o => o.toNat 0x48
  | .ishr o => o.toNat 0x49
  | .isar o => o.toNat 0x4A
  | .imin o => o.toNat 0x4B
  | .imax o => o.toNat 0x4C
  | .iabs o => o.toNat 0x4D
  | .iclz o => o.toNat 0x4E
  | .ipopc o => o.toNat 0x4F
  | .iaddImm o => o.toNat 0x50
  | .isubImm o => o.toNat 0x51
  | .imulImm o => o.toNat 0x52
  | .iandImm o => o.toNat 0x55
  | .iorImm o => o.toNat 0x56
  | .ixorImm o => o.toNat 0x57
  | .ishlImm o => o.toNat 0x58
  | .ishrImm o => o.toNat 0x59
  | .isarImm o => o.toNat 0x5A
  | .iminImm o => o.toNat 0x5B
  | .imaxImm o => o.toNat 0x5C
  | .ibfx o => o.toNat 0x60
  | .ibfi o => o.toNat 0x61
  | .iset o => o.toNat 0x62
  | .isetImm o => o.toNat 0x63
  | .mov o => o.toNat 0x64
  | .movi o => o.toNat 0x65
  | .movg o => o.toNat 0x66
  | .sel o => o.toNat 0x67
  | .qop o => o.toNat 0x68
  | .qmov o => o.toNat 0x69
  | .fadd o => o.toNat 0x70
  | .fsub o => o.toNat 0x71
  | .fmul o => o.toNat 0x72
  | .ffma o => o.toNat 0x73
  | .fmin o => o.toNat 0x74
  | .fmax o => o.toNat 0x75
  | .fset o => o.toNat 0x76
  | .fclass o => o.toNat 0x77
  | .frnd o => o.toNat 0x78
  | .hadd2 o => o.toNat 0x79
  | .hmul2 o => o.toNat 0x7A
  | .hfma2 o => o.toNat 0x7B
  | .cvt o => o.toNat 0x7C
  | .dp4 o => o.toNat 0x80
  | .dp8 o => o.toNat 0x81
  | .qpack o => o.toNat 0x82
  | .qunpk o => o.toNat 0x83
  | .rcp o => o.toNat 0x84
  | .rsq o => o.toNat 0x85
  | .sqrt o => o.toNat 0x86
  | .exp2 o => o.toNat 0x87
  | .log2 o => o.toNat 0x88
  | .sin o => o.toNat 0x89
  | .cos o => o.toNat 0x8A
  | .tanh o => o.toNat 0x8B
  | .lperm o => o.toNat 0x8C
  | .bcast o => o.toNat 0x8D
  | .qfold o => o.toNat 0x8E
  | .redx o => o.toNat 0x8F
  | .scanx o => o.toNat 0x90
  | .ld o => o.toNat 0xA0
  | .st o => o.toNat 0xA1
  | .ldd o => o.toNat 0xA2
  | .stq o => o.toNat 0xA3
  | .pf o => o.toNat 0xA4
  | .rld o => o.toNat 0xA5
  | .rst o => o.toNat 0xA6
  | .rat o => o.toNat 0xA7
  | .atom o => o.toNat 0xA8
  | .red o => o.toNat 0xA9
  | .fence o => o.toNat 0xAA
  | .clean o => o.toNat 0xAB
  | .inval o => o.toNat 0xAC
  | .icinv o => o.toNat 0xAD
  | .attempt o => o.toNat 0xB0
  | .otherwise o => o.toNat 0xB1
  | .settle o => o.toNat 0xB2
  | .abandon o => o.toNat 0xB3
  | .retry o => o.toNat 0xB4
  | .xstat o => o.toNat 0xB5
  | .waitw o => o.toNat 0xB6
  | .stinit o => o.toNat 0xB7
  | .starr o => o.toNat 0xB8
  | .stexp o => o.toNat 0xB9
  | .stwait o => o.toNat 0xBA
  | .fbegin o => o.toNat 0xBB
  | .fend o => o.toNat 0xBC
  | .copy o => o.toNat 0xC0
  | .msgsend o => o.toNat 0xC1
  | .launch o => o.toNat 0xC2
  | .dturn o => o.toNat 0xC3
  | .dstat o => o.toNat 0xC4
  | .tld o => o.toNat 0xD0
  | .tst o => o.toNat 0xD1
  | .tzero o => o.toNat 0xD2
  | .tmov o => o.toNat 0xD3
  | .trd o => o.toNat 0xD4
  | .twr o => o.toNat 0xD5
  | .cimld o => o.toNat 0xD6
  | .cimsel o => o.toNat 0xD7
  | .mma o => o.toNat 0xD8
  | .mmas o => o.toNat 0xD9
  | .sheaf o => o.toNat 0xDA
  | .mwait o => o.toNat 0xDB
  | .unassignedOpcode op => op.toNat * 2 ^ 56
  | _ => 0

/-- The native word of a decoded instruction. -/
def encodeWord (x : Decoded) : Word64 :=
  BitVec.ofNat 64 (encodeInstr x.instr + x.pair.toNat * 2 + x.mark.toNat)

/-- A script word's fields (R367). -/
def FS.ofWord (w : Nat) : FS :=
  { d := BitVec.ofNat 4 (w / 2 ^ 20), a := BitVec.ofNat 4 (w / 2 ^ 16), b := BitVec.ofNat 4 (w / 2 ^ 12),
    imm := BitVec.ofNat 12 w }

/-- SLI and SLUI (R367). -/
def FSI.ofWord (w : Nat) : FSI := { d := BitVec.ofNat 4 (w / 2 ^ 20), imm := BitVec.ofNat 16 w }

/-- The op that a script word names (R367). -/
def scriptOf (w : Nat) : Option Instr :=
  match w / 2 ^ 24 with
  | 0x01 => some (.sli (FSI.ofWord w))
  | 0x02 => some (.slui (FSI.ofWord w))
  | 0x03 => some (.sarg (FS.ofWord w))
  | 0x04 => some (.sadd (FS.ofWord w))
  | 0x05 => some (.ssub (FS.ofWord w))
  | 0x06 => some (.sand (FS.ofWord w))
  | 0x07 => some (.sor (FS.ofWord w))
  | 0x08 => some (.sxor (FS.ofWord w))
  | 0x09 => some (.saddi (FS.ofWord w))
  | 0x0A => some (.sshl (FS.ofWord w))
  | 0x0B => some (.sshr (FS.ofWord w))
  | 0x0C => some (.sld (FS.ofWord w))
  | 0x0D => some (.sst (FS.ofWord w))
  | 0x0E => some (.ssig (FS.ofWord w))
  | 0x0F => some (.sbeq (FS.ofWord w))
  | 0x10 => some (.sbne (FS.ofWord w))
  | 0x11 => some (.sblt (FS.ofWord w))
  | 0x12 => some (.sloop (FS.ofWord w))
  | 0x13 => some (.senq (FS.ofWord w))
  | 0x14 => if w % 2 ^ 24 = 0 then some .sdone else none
  | 0x15 => some (.sabort (FS.ofWord w))
  | _ => none

/-- R368: a script word with a defined OP and zero in its unused fields. -/
def decodeScript (w : BitVec 32) : Option Instr :=
  match scriptOf w.toNat with
  | some i =>
    if i.wellFormed && (match i with | .sli _ | .slui _ => w.toNat / 2 ^ 16 % 16 == 0 | _ => true) then some i else none
  | none => none

/-- The bits of a script word. -/
def FS.toNat (o : FS) (op : Nat) : Nat :=
  op * 2 ^ 24 + o.d.toNat * 2 ^ 20 + o.a.toNat * 2 ^ 16 + o.b.toNat * 2 ^ 12 + o.imm.toNat

/-- The bits of SLI and SLUI. -/
def FSI.toNat (o : FSI) (op : Nat) : Nat := op * 2 ^ 24 + o.d.toNat * 2 ^ 20 + o.imm.toNat

/-- The script word of an op (R367); none for an instruction that is no script op. -/
def encodeScript (i : Instr) : Option (BitVec 32) :=
  (match i with
  | .sli o => o.toNat 0x01
  | .slui o => o.toNat 0x02
  | .sarg o => o.toNat 0x03
  | .sadd o => o.toNat 0x04
  | .ssub o => o.toNat 0x05
  | .sand o => o.toNat 0x06
  | .sor o => o.toNat 0x07
  | .sxor o => o.toNat 0x08
  | .saddi o => o.toNat 0x09
  | .sshl o => o.toNat 0x0A
  | .sshr o => o.toNat 0x0B
  | .sld o => o.toNat 0x0C
  | .sst o => o.toNat 0x0D
  | .ssig o => o.toNat 0x0E
  | .sbeq o => o.toNat 0x0F
  | .sbne o => o.toNat 0x10
  | .sblt o => o.toNat 0x11
  | .sloop o => o.toNat 0x12
  | .senq o => o.toNat 0x13
  | .sdone => 0x14 * 2 ^ 24
  | .sabort o => o.toNat 0x15
  | _ => 0) |> fun n => if n = 0 then none else some (BitVec.ofNat 32 n)

/-- The instruction that the eight bytes at an address hold (R7, R33). -/
def decodeBytes (bs : List Byte) : Except Nat Decoded := decodeWord (BitVec.ofNat 64 (leNat (bs.take 8)))

/-- The op that the four bytes of a script word hold (R367). -/
def decodeScriptBytes (bs : List Byte) : Option Instr := decodeScript (BitVec.ofNat 32 (leNat (bs.take 4)))

/-- The instruction that this decoder reads from an opcode-table word. Rows of 32 bits are the script words of R367;
every other word is a native word of 64 bits (R32), with zeros above `nbits`. -/
def decodeTableWord (nbits w : Nat) : Option Instr :=
  if nbits ≤ 32 then decodeScriptBytes (leBytes 4 w)
  else match decodeBytes (leBytes 8 w) with
    | .ok x => some x.instr
    | .error _ => none

end Sys2Proof
end

