-- ==== Sys2Proof/Machine/State.lean ====
section
/-! DEFINITION. The state of the device as plain data: everything 01_state.md and the later chapters give the
machine, the part in hand with what it belongs to, and the model's own bookkeeping (log entries 5 and 9). -/

namespace Sys2Proof.Machine

/-- A sparse map in one canonical form: keys strictly rising, no entry equal to the default. -/
abbrev SMap (α : Type) := List (Nat × α)

/-! ## Gang parts -/

/-- An entry of a slice return stack: a return address (R75) or a trap frame with its record slot (R206). -/
inductive Frame
  | ret (address : Word64)
  | trap (slot : Word64)
  deriving DecidableEq, Repr, Inhabited

/-- What a fault record says besides the state it is taken from (R210). -/
structure TrapRec where
  code : Nat
  aux : Nat := 0
  lanes : LaneMask := 0
  /-- ACC: access kind, SCOPE and SPACE. -/
  acc : Nat := 0
  /-- SIZE code of FLAGS bits 3:0. -/
  size : Nat := 0
  /-- FLAGS bit 4: the second half of a pair. -/
  second : Bool := false
  /-- FLAGS bit 6: taken during replay. -/
  replay : Bool := false
  /-- FLAGS bit 5: a transaction was aborted. -/
  aborted : Bool := false
  pc : Word64 := 0
  addr : Word64 := 0
  deriving DecidableEq, Repr, Inhabited

/-- A result of the part that has not landed (R47, R48). `waits` counts reads that a home has not yet served. -/
structure LaneResult where
  id : Nat
  /-- Vector writes, keyed 32 × register + lane. -/
  writes : List (Nat × Word32) := []
  /-- Predicate writes, keyed 32 × predicate + lane. -/
  preds : List (Nat × Bool) := []
  flags : BitVec 6 := 0
  waits : Nat := 0
  /-- Poisoned data lands with it (R118). -/
  poison : Option TrapRec := none
  /-- A DTURN's status, which an eviction discards (R166). -/
  turn : Bool := false
  deriving DecidableEq, Repr, Inhabited

/-- A line of a read set with the version its home returned (R267, R272). -/
structure ReadLine where
  line : Nat
  version : Nat
  /-- The line lies on a page with EXT = 1 (R283). -/
  ext : Bool := false
  deriving DecidableEq, Repr, Inhabited

/-- A range of an address space that a leaf translates: ASID, first address and length (R230). -/
abbrev Span := Nat × Nat × Nat

/-- A byte on its way to a home: its address, the key it is written under (R237) and its value. -/
structure BufByte where
  addr : Nat
  key : Nat
  val : Byte
  /-- Its store was of last use (R115). -/
  last : Bool := false
  /-- The translations that its store was made under (R230). -/
  spans : List Span := []
  deriving DecidableEq, Repr, Inhabited

/-- An open transaction level (R135, R270). -/
structure Level where
  alt : Bool
  target : Word64
  start : Word64
  reads : List ReadLine := []
  /-- The write set's bytes, newest first. -/
  writes : List BufByte := []
  kept : List ReadLine := []
  g : Vector Word64 64 := Vector.replicate 64 0
  stack : List Frame := []
  ndef : Nat := 0
  deriving DecidableEq, Repr, Inhabited

/-- What an access does at its home. -/
inductive ReqKind
  /-- A load for the register `dst` of a lane, sign-extended when narrower than 32 bits and `sx`; it completes
  the lane result `res`. -/
  | read (dst : Nat) (sx : Bool) (res : Nat)
  | write
  /-- A prefetch into L1 (R123): it takes the line along, and no result waits for it. -/
  | prefetch
  /-- A read of a word that waits in Issued for all of its bytes: the home answers with them and, to a transaction, with the
  line's version (R267). -/
  | ask (watch ext : Bool)
  /-- An atomic (R126): `data` is operand b or the compare value, `data2` the swap value. The old value goes to the
  register `dst` of its lane, if there is one, and completes the lane result `res`. -/
  | atomic (mop : Nat) (unsigned : Bool) (dst : Option Nat) (res : Nat)
  /-- A FENCE with .rel or .ar: what follows it waits for what precedes it (R131). -/
  | fence
  deriving DecidableEq, Repr, Inhabited

/-- One lane's access on its way to the point that its scope names (R242). -/
structure Req where
  /-- Requests are sent in the order of their numbers (R306, R312). -/
  id : Nat := 0
  part : Nat := 0
  lane : Nat := 0
  kind : ReqKind
  addr : Nat
  size : Nat
  key : Nat := 0
  scope : Nat := 3
  acq : Bool := false
  rel : Bool := false
  harvest : Bool := false
  hedge : Nat := 0
  data : Nat := 0
  data2 : Nat := 0
  /-- The pass of its word that an atomic's lane belongs to (R128). -/
  pass : Nat := 0
  /-- The policy code of MQ[2:1] (R115). -/
  policy : Nat := 0
  /-- It belongs to the critical class (R378). -/
  critical : Bool := false
  /-- The word, its address in the lane, ACC and SIZE for the record of poisoned data (R210). -/
  pc : Word64 := 0
  va : Word64 := 0
  acc : Nat := 0
  sizeCode : Nat := 0
  /-- Its word is the second half of a pair (R45, R210). -/
  second : Bool := false
  /-- The translations that it was made under (R230). -/
  spans : List Span := []
  deriving DecidableEq, Repr, Inhabited

/-- A home's answer to a word that waits in Issued (R267, R314): the line as a read set lists it, and the bytes. -/
structure Answer where
  read : ReadLine
  addr : Nat
  key : Nat
  bytes : List Byte
  deriving DecidableEq, Repr, Inhabited

/-- A lane of a deferred effect: virtual address, data and, for .defer RED, nothing more (R129). -/
structure DeferLane where
  lane : Nat
  va : Word64
  data : Nat
  deriving DecidableEq, Repr, Inhabited

/-- Which instruction recorded a deferred effect. -/
inductive DeferKind
  | st | red | rst
  deriving DecidableEq, Repr, Inhabited

/-- A deferred effect of the open furrow (R129). -/
structure Deferred where
  kind : DeferKind
  lanes : List DeferLane
  scope : Nat
  ord : Nat
  size : Nat
  space : Nat
  mop : Nat
  unsigned : Bool
  deriving DecidableEq, Repr, Inhabited

/-- Lanes fault-parked at one word, with their record (R201, R203, R210). -/
structure ParkedRec where
  /-- Order in which the words issued. -/
  seq : Nat
  pc : Word64
  lanes : LaneMask
  info : TrapRec
  /-- The pages that the lanes wait for, with the AUX of their faults. -/
  pages : List (Nat × Nat)
  /-- The pages that the driver refused (R233). -/
  refused : List Nat := []
  deriving DecidableEq, Repr, Inhabited

/-- A replay in progress (R203): words from the first faulting word up to `stop`. -/
structure Replay where
  stop : Word64
  recs : List ParkedRec
  /-- A trap held until the replay ends (R204). -/
  held : Option TrapRec := none
  deriving DecidableEq, Repr, Inhabited

/-- The form in which a sleeper holds warren entries (R279). -/
inductive WarrenForm
  | lines | regions | hedgeWide
  deriving DecidableEq, Repr, Inhabited

/-- What a sleeping part watches, and the lines whose homes have not answered (R278). -/
structure Sleep where
  lines : List ReadLine
  unanswered : List ReadLine
  form : WarrenForm
  deriving DecidableEq, Repr, Inhabited

/-- Why a part is held in Issued (R197): the word issues again when the hold ends. -/
inductive Stall
  | walk | faultBuffer | missTable | matrixQueue | owned | tile | fence | hold
  deriving DecidableEq, Repr, Inhabited

/-- Why a part is Parked (R197). -/
inductive ParkWhy
  | regang (slices : BitVec 8) | acquire | serial | trap | icinv
  /-- At FEND, CLEAN, INVAL or between remote passes: the word goes on when it can. -/
  | effect
  deriving DecidableEq, Repr, Inhabited

/-- The states of R197; a part whose switch marker waits is Ready with `drain` set. -/
inductive PartState
  | ready
  | issued (why : Stall)
  | parked (why : ParkWhy)
  | asleep
  | polling
  | faultParked
  | evicted
  | exited
  deriving DecidableEq, Repr, Inhabited

/-- One gang part (R197 to R199). Part 0 is no part. -/
structure Part where
  id : Nat := 0
  gang : Nat := 0
  state : PartState := .exited
  pc : Word64 := 0
  g : Vector Word64 64 := Vector.replicate 64 0
  slices : BitVec 8 := 0
  /-- Lanes that may be active in the word in issue: present and not fault-parked (R8, R201). -/
  act : LaneMask := 0
  /-- Results in flight of the pair in issue, which its other half does not see (R43). -/
  hide : Nat := 0
  /-- The part waits for every outstanding lane result (R47, R49). -/
  drain : Bool := false
  /-- XSTAT (R25). -/
  xcode : BitVec 8 := 0
  xlevel : BitVec 3 := 0
  consec : BitVec 3 := 0
  serial : Bool := false
  levels : List Level := []
  doomed : Bool := false
  /-- start(1) of the last aborted transaction (R136). -/
  lastStart : Option Word64 := none
  /-- FSTAT (R25) and the deferred entries of the open furrow, oldest first. -/
  inFurrow : Bool := false
  restarted : Bool := false
  deferred : List Deferred := []
  /-- A deferred effect some of whose lanes have parked: it is recorded once they have been replayed (R44, R129). -/
  recording : Option Deferred := none
  /-- Poisoned gang registers of the part (R397). -/
  badG : List Nat := []
  /-- FEND has issued and its release is not finished (R153, R331). -/
  fending : Bool := false
  /-- The return stack of the part's slices, top first; SDEPTH is its length. -/
  stack : List Frame := []
  /-- TRAPINFO (R26). -/
  tiLanes : LaneMask := 0
  tiAux : BitVec 8 := 0
  tiCode : BitVec 8 := 0
  inflight : List LaneResult := []
  parked : List ParkedRec := []
  replay : Option Replay := none
  /-- Accesses issued and not yet performed, oldest first. -/
  pending : List Req := []
  /-- What homes have answered to the word that waits in Issued (R267, R314). -/
  got : List Answer := []
  trap : Option TrapRec := none
  sleep : Option Sleep := none
  /-- The restart point (R331). -/
  restart : Word64 := 0
  /-- The return stack as it stood at the restart point (R30). -/
  restack : List Frame := []
  /-- The tick of the last issue (R198). -/
  lastIssue : Nat := 0
  /-- When it last issued, whatever it has waited for since: the model's own field, for its default order (log 9). -/
  lastTick : Nat := 0
  /-- ICINV waits for these cores (R133). -/
  acks : List Nat := []
  /-- The word in issue is the second half of a pair, or the memory half of a replayed pair. -/
  second : Bool := false
  /-- Its trap ends the context, once the page of its record slot is there (R209). -/
  ending : Bool := false
  deriving DecidableEq, Repr, Inhabited

/-! ## Gangs -/

/-- A sheaf not yet complete (R186): its number, its word, the operations that it closes, and the identity that every
later operation reaches. -/
structure Sheaf where
  number : Nat
  word : Nat
  upTo : Nat
  upToId : Nat := 0
  deriving DecidableEq, Repr, Inhabited

/-- One gang (R11 to R17, R26, R194). -/
structure Gang where
  id : Nat := 0
  workgroup : Nat := 0
  /-- Gang index j of its workgroup (R192), or the handler number (R208). -/
  index : Nat := 0
  handler : Bool := false
  /-- The quadrant and slot where the gang sits (R194, R317). -/
  quad : Nat := 0
  slot : Nat := 0
  /-- Slices that the gang started with (R79), and those that have exited (R80). -/
  started : BitVec 8 := 0
  gone : BitVec 8 := 0
  /-- Vector registers, keyed 32 × register + lane. -/
  v : SMap Word32 := []
  q : Vector LaneMask 8 := Vector.replicate 8 0
  fflags : BitVec 6 := 0
  fmode : BitVec 3 := 0
  tvAddr : BitVec 54 := 0
  tvEn : Bool := false
  privLimit : Nat := 0
  hwm : Nat := 0
  vblk : Nat := 0
  full : Bool := false
  shOpen : Nat := 0
  shDone : BitVec 16 := 0
  shNext : BitVec 16 := 1
  opsIssued : Nat := 0
  opsRetired : Nat := 0
  sheaves : List Sheaf := []
  /-- Poisoned words of its vector registers, by key (R397). -/
  badV : List Nat := []
  /-- Stores of the gang's TSTs that the matrix unit has still to perform, in no promised order (R174). -/
  stores : List Req := []
  evicts : Nat := 0
  /-- The work identifier of lane 0 (R192). -/
  wid : Nat := 0
  deriving DecidableEq, Repr, Inhabited

/-! ## Workgroups, tiles and banks -/

/-- A tile (R18, R19). Data bytes are keyed 256 × row + byte, sidecar bytes 8 × row + segment. -/
structure Tile where
  data : SMap Byte := []
  side : SMap Byte := []
  fmt : BitVec 4 := 0
  blk : BitVec 2 := 0
  acc : Bool := false
  valid : Bool := false
  /-- Poisoned 4-byte words: of the data, and of the sidecar from 4,096 on (R397). -/
  bad : List Nat := []
  deriving DecidableEq, Repr, Inhabited

/-- A CIM bank (R21, R178): part p holds data bytes 16,384p onward and exponent bytes 512p onward. -/
structure Bank where
  data : SMap Byte := []
  side : SMap Byte := []
  w : Nat := 0
  fmt : BitVec 4 := 0
  loaded : BitVec 8 := 0
  /-- Poisoned parts (R397). -/
  bad : List Nat := []
  deriving DecidableEq, Repr, Inhabited

/-- Where a member of a paddock stands. -/
inductive WgState
  | running | saved | evicted | ended
  /-- Ended, and nothing of it is unfinished: what it held is given back. -/
  | released
  deriving DecidableEq, Repr, Inhabited

/-- One workgroup (R20, R21, R88, R192). -/
structure Workgroup where
  id : Nat := 0
  context : Nat := 0
  core : Nat := 0
  pidx : Nat := 0
  /-- Column and row within the paddock (PADK.X, PADK.Y). -/
  px : Nat := 0
  py : Nat := 0
  state : WgState := .ended
  /-- ALLOT.SCR, and where the allotment lies in the core's scratchpad (log 16). -/
  scr : Nat := 0
  sbase : Nat := 0
  ntiles : Nat := 0
  cim : BitVec 2 := 0
  /-- The floor reserve that the workgroup uses; 0 for none (R365). -/
  floor : Nat := 0
  /-- When the workgroup was admitted or last restarted (R328). -/
  startTick : Nat := 0
  /-- The workgroup's first ACQUIRE has been granted (R88). -/
  granted : Bool := false
  tiles : SMap Tile := []
  banks : SMap Bank := []
  /-- The bank that CIMSEL offers (R180). -/
  offer : Option Nat := none
  /-- An eviction order waits for the workgroup's pre-emption save to finish (R31). -/
  ordered : Bool := false
  deriving DecidableEq, Repr, Inhabited

/-! ## Cores -/

/-- A translation held by a TLB (R229), with what the leaf gave (R224). -/
structure TlbEntry where
  asid : Nat
  page : Nat
  pa : Nat
  r : Bool
  w : Bool
  x : Bool
  mt : Nat
  ext : Bool
  fmt : Nat
  blk : Nat
  sfa : Nat
  /-- log2 of the leaf's size in bytes. -/
  lg : Nat
  /-- The exporting space's key, where the page is a window that this device exports to itself (R124). -/
  key : Option Nat := none
  deriving DecidableEq, Repr, Inhabited

/-- A copy of a 128-byte line in an L1 or a sector (R242, R313); `dirty` marks bytes written at a narrower scope. -/
structure LineCopy where
  line : Nat
  data : SMap Byte
  dirty : List Nat := []
  key : Nat := 0
  /-- The class and the hedge of the work that allocated it (R3, R339). -/
  harvest : Bool := false
  hedge : Nat := 0
  /-- It has had its last use (R115). -/
  last : Bool := false
  deriving DecidableEq, Repr, Inhabited

/-- Sixteen bytes of a row in memory: their place and key, and the scale bytes of their first and second half (R172,
R292). -/
structure Chunk where
  ua : Nat
  key : Nat
  sc0 : Nat
  sc1 : Nat
  /-- The page is of the critical class (R378). -/
  critical : Bool := false
  /-- The translations that it was made under (R230). -/
  spans : List Span := []
  deriving DecidableEq, Repr, Inhabited

/-- What a matrix operation does (R167, R169). The places of TLD and TST were translated at issue (R170); `fmt` and `blk`
are those of the pages, `src` the element format of a stored tile (none for an accumulator). -/
inductive MatKind
  | tld (tile row0 n fmt blk : Nat) (chunks : List Chunk)
  | tst (tile row0 n : Nat) (sat : Bool) (src : Option Nat) (sblk fmt blk : Nat) (chunks : List Chunk)
  | tzero (tile : Nat)
  | tmov (dst src : Nat)
  | cimld (bank tile part : Nat) (transposed : Bool) (col : Nat)
  | cimsel (bank : Option Nat)
  /-- `paired` is the follower's workgroup and the bank that it offered at issue. -/
  | mma (acc a bank : Nat) (transposed : Bool) (aoff prec : Nat) (paired : Option (Nat × Nat))
  deriving DecidableEq, Repr, Inhabited

/-- A queued or running matrix operation (R169). -/
structure MatOp where
  id : Nat := 0
  gang : Nat
  workgroup : Nat
  quadrant : Nat
  harvest : Bool
  kind : MatKind
  pc : Word64 := 0
  /-- Flags that it raises when it retires. -/
  flags : BitVec 6 := 0
  /-- While it runs: the tiles that it writes as they stood, for reads that race with it (R20). -/
  before : List (Nat × Tile) := []
  deriving DecidableEq, Repr, Inhabited

/-- A waiting ACQUIRE (R196). -/
structure AcqReq where
  gang : Nat
  harvest : Bool
  deriving DecidableEq, Repr, Inhabited

/-- An active message (R161): in flight, or in a mailbox. -/
structure Msg where
  context : Nat
  /-- The sender's core and its COREID. -/
  src : Nat
  srcId : Nat := 0
  dst : Nat
  /-- The workgroup of the sender's launch on the target core, once the message is accepted. -/
  workgroup : Nat := 0
  /-- The sending part, the lane result that takes the status, and the predicate. -/
  part : Nat
  res : Nat
  handler : Word64
  payload : List Word64
  harvest : Bool
  deriving DecidableEq, Repr, Inhabited

/-- One core (R2, R12). Core number = 96 × die + 8 × column + row (R275). -/
structure Core where
  id : Nat := 0
  /-- The core's TLB of 4,096 entries and its quadrants' TLBs of 64 with the quadrant, the newest entry first (R229). -/
  tlb : List TlbEntry := []
  qtlb : List (Nat × TlbEntry) := []
  /-- The 16,384 words of the instruction cache, oldest first, keyed by code key and physical address (R2, R133, R394). -/
  icache : List (Nat × Word64) := []
  l1 : List LineCopy := []
  /-- The four matrix queues, oldest first (R169). -/
  matq : List MatOp := []
  running : Option MatOp := none
  /-- The follower serves this leader core (R184). -/
  slaved : Option Nat := none
  rotG : Nat := 0
  rotH : Nat := 0
  acquires : List AcqReq := []
  mailbox : List Msg := []
  gated : BitVec 4 := 0
  deriving DecidableEq, Repr, Inhabited

/-! ## Contexts -/

/-- The first fault report of a context (R209, R358). -/
structure Report where
  status : Nat
  aux : Nat
  pc : Word64
  slot : Word64
  deriving DecidableEq, Repr, Inhabited

/-- One launch (R350 to R352, R387). -/
structure Context where
  id : Nat := 0
  queue : Nat := 0
  seq : Nat := 0
  level : Nat := 0
  /-- The context whose LAUNCH wrote the packet; 0 for a host's (R364). -/
  parent : Nat := 0
  priority : Nat := 0
  asid : Nat := 0
  hedge : Nat := 0
  harvest : Bool := false
  mask : BitVec 9 := 0
  root : Nat := 0
  key : Nat := 0
  codeKey : Nat := 0
  session : Nat := 0
  entry : Word64 := 0
  arg : Word64 := 0
  trapArea : Word64 := 0
  privBase : Nat := 0
  privLimit : Nat := 0
  saveArea : Word64 := 0
  baleArea : Word64 := 0
  shapeReg : Word64 := 0
  npad : Nat := 0
  ngang : Nat := 0
  nslice : Nat := 0
  padW : Nat := 1
  padH : Nat := 1
  widths : List Nat := []
  padsel : Word64 := 0x00FFFFFF
  shapes : List Word64 := []
  vpro : Nat := 1
  vfull : Nat := 1
  tiles : Nat := 0
  cim : Nat := 0
  scr : Nat := 0
  bucket : Option Nat := none
  /-- Paddocks placed so far, in PIDX order (R361). -/
  placed : Nat := 0
  /-- Cores that a G paddock waits for while H work leaves them (R326, R328). -/
  claim : List Nat := []
  /-- The context runs: not ended, and not complete. -/
  live : Bool := false
  report : Option Report := none
  /-- Cores that have run work of the launch (R255, R359). -/
  ran : List Nat := []
  /-- Edge regions to invalidate at the start of each placement (R359). -/
  regions : List (Nat × Nat) := []
  deriving DecidableEq, Repr, Inhabited

/-! ## Copies -/

/-- Who issued a copy (R155, R353). -/
inductive CopyOwner
  | gang (part gang workgroup core : Nat)
  | queue (handle seq : Nat)
  deriving DecidableEq, Repr, Inhabited

/-- A copy that an engine runs (R155 to R160). -/
structure CopyJob where
  id : Nat
  owner : CopyOwner
  context : Nat
  asid : Nat
  root : Nat
  key : Nat
  codeKey : Nat
  hedge : Nat
  die : Nat
  harvest : Bool
  src : Nat
  dst : Nat
  ssp : Nat
  dsp : Nat
  esz : Nat
  exts : List Nat
  sstr : List Int
  dstr : List Int
  gather : Bool
  idxa : Nat
  done : Option (Bool × Nat)
  stile : Option Nat
  /-- The next element, counted in the order of R158. -/
  next : Nat := 0
  /-- Every element has landed; the completion word is still to be updated (R159). -/
  landed : Bool := false
  /-- An element has met a fault of this code: the completion word is still to be told (R160). -/
  failed : Option Nat := none
  /-- Tile copies: the format of the first element's page, and the block code source of each segment. -/
  fmt : Option (Nat × Nat) := none
  segs : List (Nat × Nat) := []
  deriving DecidableEq, Repr, Inhabited

/-! ## Queues and scripts -/

/-- A packet that its queue has started (R353). -/
structure Packet where
  seq : Nat
  words : List Word64
  level : Nat
  /-- End status and AUX, once the packet has come to its end (R357). -/
  ended : Option (Nat × Nat) := none
  context : Option Nat := none
  bucket : Option Nat := none
  abortv : Word64 := 0
  skipped : Bool := false
  /-- Its completion signal failed the check at its start, and is not updated (R405). -/
  mute : Bool := false
  /-- Its completion record has been written (R358). -/
  completed : Bool := false
  /-- Its end has been held against its queue, which has aborted if it was a bad one (R356). -/
  judged : Bool := false
  /-- When it started, for ELAPSED (R358). -/
  started : Option Nat := none
  /-- The region list of a BARRIER (R359). -/
  regions : List (Nat × Nat) := []
  deriving DecidableEq, Repr, Inhabited

/-- A run of a script (R366), when `live`. -/
structure ScriptRun where
  queue : Nat := 0
  seq : Nat := 0
  live : Bool := false
  s : Vector Word64 16 := Vector.replicate 16 0
  pc : Nat := 0
  steps : Nat := 0
  args : List Word64 := []
  words : List (BitVec 32) := []
  deriving DecidableEq, Repr, Inhabited

/-- What an engine keeps of a queue besides the descriptor in memory (R346 to R353, R366). -/
structure Queue where
  handle : Nat
  /-- Slots taken up so far. -/
  taken : Nat := 0
  packets : List Packet := []
  script : List (BitVec 32) := []
  /-- The level of each packet that LAUNCH wrote, by its index (R364). -/
  levels : List (Nat × Nat) := []
  /-- The context that wrote each such packet. -/
  parents : List (Nat × Nat) := []
  /-- Packets that took a floor slot, with their level (R365). -/
  floors : List (Nat × Nat) := []
  /-- Regions of the last satisfied barrier's edge (R359). -/
  regions : List (Nat × Nat) := []
  /-- Cores that ran earlier packets of the queue (R359). -/
  ran : List Nat := []
  deriving DecidableEq, Repr, Inhabited

/-! ## Hedges -/

/-- A bale in a hedge's restart queue (R333), or on its way there. -/
structure Bale where
  workgroup : Nat
  context : Nat
  address : Word64
  deriving DecidableEq, Repr, Inhabited

/-- A spill in progress (R329): the records and blocks still to be written, oldest first. -/
structure Spill where
  workgroup : Nat
  core : Nat
  /-- (gang, none) is a gang record, (gang, some b) block b, and (0, none) the scratchpad. -/
  left : List (Nat × Option Nat)
  deriving DecidableEq, Repr, Inhabited

/-- A live hedge: what its entry gave when it became live (R385, R386), its serial token (R276) and its restart
queue (R333). -/
structure Hedge where
  n : Nat
  cores : Nat
  gfloor : Nat := 0
  sfloor : Nat := 0
  wdog : Nat := 20
  l2w : Nat := 0
  drove0 : Nat := 0
  drove1 : Nat := 0
  flblk : Nat := 1
  fltile : Nat := 0
  flcim : Nat := 0
  flscr : Nat := 0
  faba : Nat := 0
  hosta : Nat := 0
  csp0 : BitVec 48 := 0
  csp1 : BitVec 48 := 0
  hbm0 : Nat := 0
  hbm1 : Nat := 0
  fring : Nat := 0
  frsize : Nat := 16
  pool : Nat := 0
  poolsize : Nat := 16
  fresp : Nat := 0
  frrsize : Nat := 16
  token : Option Nat := none
  waiters : List (Bool × Nat) := []
  restarts : List Bale := []
  deriving DecidableEq, Repr, Inhabited

/-! ## The memory system -/

/-- A walk that a sector's walkers have still to make (R229). -/
structure Walk where
  sector : Nat
  asid : Nat
  root : Nat
  hedge : Nat
  page : Nat
  /-- The quadrants that wait for it, as 4 × core + quadrant. -/
  quads : List Nat
  deriving DecidableEq, Repr, Inhabited

/-- A non-leaf entry in a sector's walk cache (R229): the table that stands `level` levels above the pages, for a range of
an address space. -/
structure WalkEntry where
  sector : Nat
  asid : Nat
  level : Nat
  /-- The addresses of the range without their bits below the table's reach. -/
  range : Nat
  table : Nat
  deriving DecidableEq, Repr, Inhabited

/-- A walk that gave no translation: the code and AUX that the waiting access takes (R225, R232). -/
structure WalkFault where
  core : Nat
  asid : Nat
  page : Nat
  code : Nat
  aux : Nat
  deriving DecidableEq, Repr, Inhabited

/-- Who waits for a page on an engine's behalf (R159, R371, R405). -/
inductive Asker
  | queue (q : Nat)
  | copy (id : Nat)
  | context (c : Nat)
  /-- A peer's request for a line: device, ASID and line of the window. -/
  | peer (device asid line : Nat)
  deriving DecidableEq, Repr, Inhabited

/-- An engine's wait for a page, with the die and the AUX of its notification. -/
structure EngineWait where
  who : Asker
  asid : Nat
  page : Nat
  die : Nat := 0
  aux : Nat := 1
  deriving DecidableEq, Repr, Inhabited

/-- A page-fault notification (R232). -/
structure Notification where
  hedge : Nat
  die : Nat
  asid : Nat
  page : Nat
  aux : Nat
  acc : Nat
  /-- The cores of the die with an attached record. -/
  cores : List Nat
  posted : Bool
  deriving DecidableEq, Repr, Inhabited

/-- An entry of a home's version table (R272, R273). -/
structure VersionEntry where
  home : Nat
  line : Nat
  version : Nat
  watchers : List Nat := []
  /-- Watched-by-many: the hedges that have watched the line. -/
  many : Option (BitVec 48) := none
  deriving DecidableEq, Repr, Inhabited

/-- A hold of the serial token's holder on a line (R276). -/
structure Hold where
  part : Nat
  line : Nat
  exclusive : Bool
  deriving DecidableEq, Repr, Inhabited

/-- A line resident at its home slice, with the class and the hedge of the work that allocated it (R3, R339). -/
structure L2Line where
  line : Nat
  harvest : Bool := false
  hedge : Nat := 0
  /-- It has had its last use (R115). -/
  last : Bool := false
  deriving DecidableEq, Repr, Inhabited

/-- A line in flight at an L2 slice with its waiters in arrival order (R314), for work of a class and a hedge. -/
structure Miss where
  slice : Nat
  line : Nat
  harvest : Bool := false
  hedge : Nat := 0
  waiters : List Req
  deriving DecidableEq, Repr, Inhabited

/-- A merged-fill buffer (R393): a line of text under a key tag, on its way to cores of one sector. -/
structure FillBuf where
  sector : Nat
  tag : Nat
  line : Nat
  cores : List Nat
  deriving DecidableEq, Repr, Inhabited

/-! ## The droveway -/

/-- A queued turn request (R308): the die it came from, its goal as an inbound count for die 0. -/
structure TurnReq where
  die : Nat
  hedge : Nat
  context : Nat
  harvest : Bool
  goal : Nat
  tick : Nat
  deriving DecidableEq, Repr, Inhabited

/-- The droveway and its controller (R305 to R309). -/
structure Droveway where
  in0 : Nat := 32
  in1 : Nat := 32
  /-- Droves in dead time, and whether they turn toward die 0. -/
  turning : Nat := 0
  toward0 : Bool := false
  goal : Nat := 32
  /-- The goal pursued came from a request: its class. -/
  pursued : Option Bool := none
  queue : List TurnReq := []
  deriving DecidableEq, Repr, Inhabited

/-! ## The fabric, the host port and management -/

/-- A request of a peer that this device serves as exporter and has not answered (R371). -/
structure FabricReq where
  req : PeerReq
  /-- It is of the critical class (R378). -/
  critical : Bool := false
  /-- Stall notices sent for it. -/
  notices : Nat := 0
  deriving DecidableEq, Repr, Inhabited

/-- A fabric port (R375, R376). -/
structure Port where
  lanes : Nat := 8
  up : Bool := true
  replays : Nat := 0
  retrains : Nat := 0
  deriving DecidableEq, Repr, Inhabited

/-- A window that a peer exports to an ASID of this device, with the rights of its pages (R371). -/
structure PeerWindow where
  device : Nat
  asid : Nat
  length : Nat
  r : Bool := true
  w : Bool := true
  /-- Pages that the exporter's driver refuses. -/
  refused : List Nat := []
  deriving DecidableEq, Repr, Inhabited

/-- A plane that is dead to a peer, and the plane that carries its traffic (R376). -/
structure DeadPlane where
  peer : Nat
  plane : Nat
  remap : Option Nat
  deriving DecidableEq, Repr, Inhabited

/-- An RC connection (R380 to R383): the ASID and the remote key that it is bound to, and the queue whose class and hedge it
takes, where it is bound to one. -/
structure Connection where
  n : Nat
  asid : Nat
  rkey : Nat := 0
  queue : Option Nat := none
  failed : Bool := false
  deriving DecidableEq, Repr, Inhabited

/-- An RDMA operation of the host (R382): `cas` holds the kind and the operands of an atomic. -/
structure HostOp where
  connection : Nat
  address : Nat
  length : Nat
  write : Bool
  data : List Byte := []
  cas : Option (Bool × Word64 × Word64) := none
  deriving DecidableEq, Repr, Inhabited

/-- The requests of the management endpoint (R388); a vendor-defined one with its OPCODE and LENGTH (R390). -/
inductive Request
  | getVersion | getCapabilities | negotiateAlgorithms | getDigests
  | getCertificate (slot : Nat)
  | challenge (slot : Nat)
  | getMeasurements | keyExchange | finish | heartbeat | keyUpdate | endSession
  | vendor (opcode length : Nat)
  deriving DecidableEq, Repr, Inhabited

/-- A request at the management endpoint (R388, R390). -/
structure MgmtMsg where
  /-- The secured session that carries it; none for a clear message. -/
  session : Option Nat
  request : Request
  /-- Further parameters of an SPDM request, or the BODY of a vendor-defined one. -/
  body : List Byte := []
  deriving DecidableEq, Repr, Inhabited

/-- The algorithms that the responder supports (R388). -/
inductive Algorithm
  | ed25519 | sha512 | ecdheSecp384r1 | aes256gcm
  deriving DecidableEq, Repr, Inhabited

/-- An SPDM response (R388). Bytes that the spec does not give stand in `rest` (log 15). -/
inductive SpdmAnswer
  | version (major minor : Nat)
  | capabilities (rest : List Byte)
  | algorithms (signature hash exchange aead : Algorithm)
  /-- The digest of each certificate slot. -/
  | digests (slots : List (Nat × List Byte))
  | certificate (slot : Nat) (chain : List Byte)
  | challengeAuth (slot : Nat) (rest : List Byte)
  /-- The digests of firmware slots A and B, the fuse map of each boot, and the rollback floor. -/
  | measurements (slotA slotB : List Byte) (fuse floor : Nat) (rest : List Byte)
  | opened (session : Nat) (rest : List Byte)
  | done (rest : List Byte)
  | error
  deriving DecidableEq, Repr, Inhabited

/-- A secured SPDM session (R388). -/
structure Session where
  n : Nat
  heartbeat : Nat := 0
  finished : Bool := false
  keyUpdates : Nat := 0
  deriving DecidableEq, Repr, Inhabited

/-- A key index (R389): the session it is bound to, its key bytes, and the generation of its key. -/
structure KeySlot where
  n : Nat
  bound : Option Nat := none
  key : Option (List Byte) := none
  gen : Nat := 0
  deriving DecidableEq, Repr, Inhabited

/-- What the device sends to a party outside it. -/
inductive Reply
  /-- An SPDM response of the management endpoint (R388). -/
  | spdm (session : Option Nat) (answer : SpdmAnswer)
  /-- A VENDOR_DEFINED_RESPONSE: Malnen's identifier and the vendor payload (R390). -/
  | vendor (session : Nat) (identifier payload : List Byte)
  /-- An RDMA response (R382). -/
  | rdma (connection : Nat) (data : List Byte)
  | rdmaNak (connection : Nat)
  /-- A response to a peer on a plane, the fault that its lane takes, or a stall notice (R371, R372), of the class of the
  request (R374). -/
  | peer (device plane : Nat) (harvest : Bool) (data : List Byte)
  | peerFault (device plane : Nat) (harvest : Bool) (code aux : Nat)
  | stall (device plane : Nat) (harvest : Bool)
  /-- A request of a class to a peer, on the planes that carry it with its count on each (R376), and with its sequence number
  if it is critical (R372, R374, R378). -/
  | request (device : Nat) (planes : List (Nat × Nat)) (harvest : Bool) (offset : Nat) (sequence : Option Nat)
  /-- A close query for a plane, sent on another, and the answer to a peer's: what it had sent there that was applied
  (R376). -/
  | close (device closed plane : Nat)
  | closed (device closed plane applied : Nat)
  deriving DecidableEq, Repr, Inhabited

/-- Boot state (R395, R396, R399, R400). -/
inductive BootState
  | off | running | recovery | tripped
  deriving DecidableEq, Repr, Inhabited

/-- A firmware slot (R395). -/
structure FwSlot where
  image : SMap Byte := []
  size : Nat := 0
  deriving DecidableEq, Repr, Inhabited

/-- The management endpoint, firmware and health counters (R388 to R398). -/
structure Mgmt where
  inbox : List MgmtMsg := []
  sessions : List Session := []
  nextSession : Nat := 1
  /-- Boots so far: key material of one boot is gone in the next (R384, R400). -/
  epoch : Nat := 0
  driver : Option Nat := none
  keys : List KeySlot := []
  /-- Key pairs that sessions have set, by key tag (R237, R389): what stored ciphertext is under. -/
  loaded : List (Nat × List Byte) := []
  slotA : FwSlot := {}
  slotB : FwSlot := {}
  /-- The running slot: 0 A, 1 B. -/
  running : Option Nat := none
  floor : Nat := 0
  fwver : Nat := 0
  tjmax : Nat := 0
  transient : Nat := 0
  lasting : Nat := 0
  soft : Nat := 0
  retired : Nat := 0
  /-- Retirement reports not yet posted (R398): sector, KIND, owner ASID, count. -/
  reports : List (Nat × Nat × Nat × Nat) := []
  /-- Lasting errors of each 4 KiB frame (R398). -/
  frames : SMap Nat := []
  deriving DecidableEq, Repr, Inhabited

/-- The three forms of the part (R1). -/
inductive Form
  | sgp192P | sgp192M | sgp176M
  deriving DecidableEq, Repr, Inhabited

/-- What was chosen at manufacture for a die of an SGP-176-M (R403): a column, a slice, and another of the other 47. -/
structure DieFuse where
  col : Fin 12 := 0
  slice : Fin 48 := 0
  other : Fin 47 := 0
  deriving DecidableEq, Repr, Inhabited

/-- A released buffer whose zeroing has not finished (R394): the core, and bytes of scratchpad it covers. -/
structure Zeroing where
  core : Nat
  base : Nat
  length : Nat
  deriving DecidableEq, Repr, Inhabited

/-- A saved or restoring paddock (R362, R363). -/
structure SavedPaddock where
  context : Nat
  pidx : Nat
  /-- The save has been written, and its cores are free. -/
  done : Bool
  /-- Accepted messages saved with it (R162, R166). -/
  messages : List Msg := []
  deriving DecidableEq, Repr, Inhabited

/-- What moves next: a part issues its next word, a script executes its next op, or a step without a word happens. -/
inductive Input
  | issue (part : Nat)
  | script (queue : Nat)
  | event (i : Instr)
  /-- The oldest operation of the host that waits on a connection is tried again (R382). -/
  | host (connection : Nat)
  deriving DecidableEq, Repr

/-- The device. -/
structure State where
  /-- The part in hand, and the gang, workgroup, context and core that it belongs to. -/
  me : Part := {}
  gang : Gang := {}
  wg : Workgroup := {}
  ctx : Context := {}
  core : Core := {}
  /-- Every part, gang, workgroup, context and core that is not in hand. -/
  parts : List Part := []
  gangs : List Gang := []
  wgs : List Workgroup := []
  ctxs : List Context := []
  cores : List Core := []
  /-- The script run in hand, and the others, oldest first. -/
  scr : ScriptRun := {}
  scripts : List ScriptRun := []
  /-- What the machine does next, in order; when empty, its own scheduler decides (log 9). -/
  agenda : List Input := []
  /-- The count that free values are applied to, and the last identifier given out (logs 5, 9). -/
  tick : Nat := 0
  nextId : Nat := 1
  /-- Every byte that the device can address, by unified address (log 17). -/
  mem : List Host.Cell := []
  /-- Poisoned 32-byte sectors (R397), and the key generation that each written sector of HBM4 is stored under
  (R237, R238). -/
  poisoned : List Nat := []
  /-- Poisoned sectors that a write is replacing piece by piece: the sector, the write's number, and the bytes that it has
  replaced (R118, R397). -/
  replaced : List (Nat × Nat × Nat) := []
  tags : SMap Nat := []
  /-- Lines resident at their home slices, first candidate for replacement first, lines in flight, and requests held in
  the ingress queues in order of arrival (R313, R314). -/
  resident : List L2Line := []
  misses : List Miss := []
  ingress : List Req := []
  /-- Sector copies, keyed by sector 0 to 5 (R313). -/
  sectors : List (Nat × LineCopy) := []
  /-- Lines that hold writes released at a scope that stays in a sector: line and sector (R254). -/
  narrow : List (Nat × Nat) := []
  /-- Merged-fill buffers in use, oldest first (R393). -/
  fills : List FillBuf := []
  gatedWays : List (Nat × Nat × Nat) := []
  gatedBanks : List (Nat × Nat) := []
  walks : List Walk := []
  walkFaults : List WalkFault := []
  walkCache : List WalkEntry := []
  notifications : List Notification := []
  /-- Pages that engines wait for, and pages that the driver refused to them (R159, R405). -/
  engineWaits : List EngineWait := []
  refusals : List EngineWait := []
  versions : List VersionEntry := []
  stamps : SMap Nat := []
  floors : SMap Nat := []
  /-- Notices in flight: core and line (R273). -/
  notices : List (Nat × Nat) := []
  holds : List Hold := []
  messages : List Msg := []
  copies : List CopyJob := []
  /-- Units that engines own: the copy or matrix operation, and the line (R256). Tiles are 16 × workgroup + tile. -/
  owned : List (Nat × Nat) := []
  ownedTiles : List (Nat × Nat) := []
  spills : List Spill := []
  saves : List SavedPaddock := []
  zeroing : List Zeroing := []
  hedges : List Hedge := []
  /-- The entries of hedges that are live no longer, as they were last read (R386). -/
  lastHedges : List Hedge := []
  queues : List Queue := []
  drove : Droveway := {}
  ports : Vector Port 8 := Vector.replicate 8 {}
  fabric : List FabricReq := []
  dead : List DeadPlane := []
  /-- Critical requests applied, by source device: the next sequence number; and those that came before their turn
  (R378). -/
  critical : SMap Nat := []
  criticalHeld : List (Nat × PeerReq) := []
  /-- The host port's link is up (R390). -/
  hostUp : Bool := true
  connections : List Connection := []
  /-- Peer windows that the model knows of (R371, log 7), and the next sequence number of critical requests to each peer
  (R378). -/
  peers : List PeerWindow := []
  criticalSent : SMap Nat := []
  /-- Requests sent to each peer on each plane, and requests of each peer that this device has applied from each plane, modulo
  2^16, at 8 × device + plane; and the planes that a peer has closed (R376). -/
  sentCount : SMap Nat := []
  applied : SMap Nat := []
  closed : List (Nat × Nat) := []
  /-- What the host has sent on its connections and has not been performed, in order of arrival (R382). -/
  hostQueue : List HostOp := []
  mgmt : Mgmt := {}
  outbox : List Reply := []
  boot : BootState := .off
  form : Form := .sgp192M
  /-- The fuse map of each die (R403). -/
  fuse0 : DieFuse := {}
  fuse1 : DieFuse := {}
  deriving DecidableEq, Repr

/-- Why the machine stops. -/
inductive Fault
  /-- Raised by every native instruction when no gang part is in hand: the hardware issues words only from a part
  (R197). Safe: the machine stops where the hardware never is. -/
  | noPart
  /-- Raised by every script op when no script run is in hand: an engine executes ops only of a run (R366). Safe: the
  machine stops where the hardware never is. -/
  | noScript
  deriving DecidableEq, Repr

/-- Why an instruction has no meaning here. -/
inductive Refusal
  /-- The instruction is not modelled yet; raised by the arms of exec alone. Safe. -/
  | notModelled (mnemonic : String)
  /-- Raised by step when its agenda names, as a step without a word, an instruction that has one: a native or script
  word runs only where it is fetched. Safe. -/
  | notAnEvent
  deriving DecidableEq, Repr

/-- The machine right after reset, before the boot ROM has run (R305, R395, R400): no context, queue, hedge or key,
the droveway split 32 and 32, nothing listed in memory. The first step boots (log 10). Log entries 1, 8, 13 and 14
name the values that the spec does not give. -/
def State.reset : State := {}

end Sys2Proof.Machine
end

