-- ==== Sys2Proof/Machine/Map.lean ====
section
/-! DEFINITION. Sparse maps in their one canonical form, and the small list operations of the model. -/

namespace Sys2Proof.Machine

/-- What the map holds at a key; `d` for a key it does not list. -/
def SMap.get {α : Type} (d : α) : SMap α → Nat → α
  | [], _ => d
  | (k, v) :: m, i => if i = k then v else SMap.get d m i

/-- The map with `x` at key `i`; a default value is not listed. -/
def SMap.put {α : Type} [DecidableEq α] (d : α) : SMap α → Nat → α → SMap α
  | [], i, x => if x = d then [] else [(i, x)]
  | (k, v) :: m, i, x =>
    if i < k then (if x = d then (k, v) :: m else (i, x) :: (k, v) :: m)
    else if i = k then (if x = d then m else (i, x) :: m)
    else (k, v) :: SMap.put d m i x

/-- The canonical form: keys strictly rising, no entry equal to the default. -/
def SMap.wf {α : Type} [DecidableEq α] (d : α) : SMap α → Bool
  | [] => true
  | (k, v) :: m => decide (v ≠ d) && (match m with | [] => true | (k', _) :: _ => decide (k < k')) && SMap.wf d m

/-- Write a list of values at consecutive keys. -/
def SMap.putAll {α : Type} [DecidableEq α] (d : α) (m : SMap α) : Nat → List α → SMap α
  | _, [] => m
  | i, x :: xs => SMap.putAll d (SMap.put d m i x) (i + 1) xs

/-- The values at `n` consecutive keys. -/
def SMap.getAll {α : Type} (d : α) (m : SMap α) (i : Nat) : Nat → List α
  | 0 => []
  | n + 1 => SMap.get d m i :: SMap.getAll d m (i + 1) n

/-- The entries with keys in `[lo, hi)` removed. -/
def SMap.clear {α : Type} (m : SMap α) (lo hi : Nat) : SMap α := m.filter fun e => e.1 < lo || hi ≤ e.1

/-- The value of an association list at a key. -/
def lookupKey {α : Type} : List (Nat × α) → Nat → Option α
  | [], _ => none
  | (k, v) :: m, i => if i = k then some v else lookupKey m i

/-- The lanes of a mask in ascending order (R8). -/
def lanesOf (m : LaneMask) : List Nat := (List.range 32).filter fun l => m.getLsbD l

/-- The mask of the lanes for which `p` holds. -/
def maskOf (p : Nat → Bool) : LaneMask := BitVec.ofNat 32 ((List.range 32).foldl (fun a l => if p l then a + 2 ^ l else a) 0)

/-- The mask of a list of lanes. -/
def maskOfList (ls : List Nat) : LaneMask := maskOf fun l => ls.contains l

/-- GMASK.LANES of a slice set (R23). -/
def lanesOfSlices (s : BitVec 8) : LaneMask := maskOf fun l => s.getLsbD (l / 4)

/-- The lowest slice of a slice set; 8 for the empty set. -/
def lowestSlice (s : BitVec 8) : Nat := ((List.range 8).find? fun i => s.getLsbD i).getD 8

/-- Replace the entries for which `p` holds. -/
def updWhere {α : Type} (p : α → Bool) (f : α → α) (xs : List α) : List α := xs.map fun x => if p x then f x else x

/-- Remove the element at a position. -/
def dropAt {α : Type} : List α → Nat → List α
  | [], _ => []
  | _ :: xs, 0 => xs
  | x :: xs, n + 1 => x :: dropAt xs n

/-- The distinct members of a list of numbers, first occurrences in order. -/
def distinct (xs : List Nat) : List Nat := xs.foldl (fun a x => if a.contains x then a else a ++ [x]) []

/-- The number in little-endian bytes as bytes, and back (R7). -/
def bytesOf (n x : Nat) : List Byte := leBytes n x

/-- The sum of a count over a list. -/
def sumOf {α : Type} (f : α → Nat) (xs : List α) : Nat := xs.foldl (fun a x => a + f x) 0

end Sys2Proof.Machine
end

