-- ==== Sys2Proof/Machine/Xts.lean ====
section
/-! DEFINITION. AES-256 (FIPS-197) and its XTS mode (IEEE 1619) over the 32-byte sectors of HBM4 (11_memory.md, R237). A
block is a list of sixteen bytes, column by column. -/

namespace Sys2Proof.Machine

/-! ## The field of AES -/

/-- Multiplication by x in GF(2^8). -/
def gfDouble (a : Byte) : Byte := (a <<< 1) ^^^ if a.msb then 0x1B else 0

/-- Multiplication in GF(2^8). -/
def gfMul (a b : Byte) : Byte := (List.range 8).foldr (fun i p => gfDouble p ^^^ if b.getLsbD i then a else 0) 0

/-- The inverse of a nonzero element, a^254; 0 for 0. -/
def gfInv (a : Byte) : Byte :=
  ((List.range 7).foldl (fun (x : Byte × Byte) _ => let q := gfMul x.2 x.2; (gfMul x.1 q, q)) (1, a)).1

def aesSub (a : Byte) : Byte :=
  let b := gfInv a
  b ^^^ b.rotateLeft 1 ^^^ b.rotateLeft 2 ^^^ b.rotateLeft 3 ^^^ b.rotateLeft 4 ^^^ 0x63

def aesUnsub (a : Byte) : Byte := gfInv (a.rotateLeft 1 ^^^ a.rotateLeft 3 ^^^ a.rotateLeft 6 ^^^ 0x05)

/-! ## Rounds -/

def xorBytes (a b : List Byte) : List Byte := List.zipWith (· ^^^ ·) a b

/-- Row r of the block moves by r columns: left, or right to undo it. -/
def aesShift (undo : Bool) (b : List Byte) : List Byte :=
  (List.range 16).map fun i => b.getD ((i + if undo then 12 * (i % 4) else 4 * (i % 4)) % 16) 0

/-- Each column times a circulant matrix whose first row is given. -/
def aesMix (row b : List Byte) : List Byte :=
  (List.range 16).map fun i =>
    (List.range 4).foldl (fun a k => a ^^^ gfMul (row.getD ((k + 4 - i % 4) % 4) 0) (b.getD (i / 4 * 4 + k) 0)) 0

/-- The 60 words of the key schedule of a 32-byte key. -/
def aesWords (key : List Byte) : List (List Byte) :=
  let first := (List.range 8).map fun i => (key.drop (4 * i)).take 4
  ((List.range 52).foldl (fun (x : List (List Byte) × Byte) j =>
    let i := j + 8
    let t := x.1.getD (i - 1) []
    let u := if i % 8 = 0 then xorBytes ((t.drop 1 ++ t.take 1).map aesSub) [x.2, 0, 0, 0]
      else if i % 8 = 4 then t.map aesSub else t
    (x.1 ++ [xorBytes (x.1.getD (i - 8) []) u], if i % 8 = 0 then gfDouble x.2 else x.2)) (first, 1)).1

/-- The key of a round. -/
def aesRoundKey (ws : List (List Byte)) (r : Nat) : List Byte := (List.range 4).flatMap fun c => ws.getD (4 * r + c) []

def aesEncrypt (key block : List Byte) : List Byte :=
  let ws := aesWords key
  let b := (List.range 13).foldl (fun b r =>
    xorBytes (aesMix [2, 3, 1, 1] (aesShift false (b.map aesSub))) (aesRoundKey ws (r + 1))) (xorBytes block (aesRoundKey ws 0))
  xorBytes (aesShift false (b.map aesSub)) (aesRoundKey ws 14)

def aesDecrypt (key block : List Byte) : List Byte :=
  let ws := aesWords key
  let b := (List.range 13).foldl (fun b r =>
    aesMix [14, 11, 13, 9] (xorBytes ((aesShift true b).map aesUnsub) (aesRoundKey ws (13 - r))))
    (xorBytes block (aesRoundKey ws 14))
  xorBytes ((aesShift true b).map aesUnsub) (aesRoundKey ws 0)

/-! ## XTS -/

/-- The next tweak: multiplication by x in GF(2^128), the first byte the least significant. -/
def xtsNext (t : List Byte) : List Byte :=
  let n := 2 * leNat t
  leBytes 16 (if 2 ^ 128 ≤ n then (n % 2 ^ 128) ^^^ 0x87 else n)

/-- A sector under a key pair, data key first (R390): its physical address is the tweak. -/
def xts (undo : Bool) (key : List Byte) (addr : Nat) (sector : List Byte) : List Byte :=
  let t0 := aesEncrypt (key.drop 32) (leBytes 16 addr)
  let one (t b : List Byte) : List Byte :=
    xorBytes ((if undo then aesDecrypt else aesEncrypt) (key.take 32) (xorBytes b t)) t
  one t0 (sector.take 16) ++ one (xtsNext t0) (sector.drop 16)

end Sys2Proof.Machine
end

