-- ==== Sys2Proof/Machine/Memory.lean ====
section
/-! DEFINITION. Memory below translation: the unified address space (log 17), home slices (R236), key tags (R237,
R238), poison (R397), version tables and notices (R272, R273), copies in L1 and sectors (R242, R254, R313), misses
(R314). -/

namespace Sys2Proof.Machine

/-! ## Places -/

/-- Die, column, row and sector (0 to 5 over the device) of a core (R2, R23, R275). -/
def coreDie (c : Nat) : Nat := c / 96
def coreCol (c : Nat) : Nat := c % 96 / 8
def coreRow (c : Nat) : Nat := c % 8
def coreSector (c : Nat) : Nat := 3 * coreDie c + coreCol c / 4
/-- The core at a place. -/
def coreAt (die col row : Nat) : Nat := 96 * die + 8 * col + row
/-- COREID bits 15:8: DIE, COL, ROW (R23). -/
def coreIdHigh (c : Nat) : Nat := coreDie c * 128 + coreCol c * 8 + coreRow c
/-- The core that bits 15:8 of a number name (R161); none for a column above 11. -/
def coreOfId (x : Nat) : Option Nat :=
  if bits x 6 3 ≤ 11 then some (coreAt (bits x 7 7) (bits x 6 3) (bits x 2 0)) else none

/-- The HBM4 of a die ends here (R226). -/
def hbmDie : Nat := 0x0030_0000_0000
def hbmEnd : Nat := 0x0060_0000_0000
/-- The doorbell apertures of both dies (R226, R348). -/
def isDoorbell (a : Nat) : Bool := hbmEnd ≤ a && a < 0x0060_0400_0000
def isHbm (a : Nat) : Bool := a < hbmEnd

/-- A byte of a chip-scratchpad bank (R219, R275). -/
def cspAddr (die bank byte : Nat) : Nat := (2 ^ 45 + die * 2 ^ 19 + bank * 2 ^ 13) * 128 + byte
/-- A byte of a core's scratchpad (R275). -/
def spadAddr (core byte : Nat) : Nat := (2 ^ 46 + core * 4096) * 128 + byte
def isCsp (a : Nat) : Bool := 2 ^ 52 ≤ a && a < 2 ^ 53
def isSpad (a : Nat) : Bool := 2 ^ 53 ≤ a && a < 2 ^ 54
/-- Host memory behind an ASID's connection (R381), and a peer's window for an ASID (R371). -/
def hostAddr (asid off : Nat) : Nat := 2 ^ 70 + asid * 2 ^ 52 + off
def isHost (a : Nat) : Bool := 2 ^ 70 ≤ a && a < 2 ^ 80
def peerAddr (dev asid off : Nat) : Nat := 2 ^ 80 + (dev * 2 ^ 13 + asid) * 2 ^ 54 + off
def isPeer (a : Nat) : Bool := 2 ^ 80 ≤ a

/-- The disabled columns and slices, by die: one column and two slices of each die of an SGP-176-M, none of the other
forms (R1, R403). -/
def State.fuseCols (s : State) : List (Nat × Nat) :=
  if s.form = .sgp176M then [(0, s.fuse0.col.val), (1, s.fuse1.col.val)] else []
def DieFuse.slices (f : DieFuse) : List Nat :=
  [f.slice.val, if f.other.val < f.slice.val then f.other.val else f.other.val + 1]
def State.fuseSlices (s : State) : List (Nat × Nat) :=
  if s.form = .sgp176M then (s.fuse0.slices.map fun i => (0, i)) ++ s.fuse1.slices.map fun i => (1, i) else []

/-- The enabled L2 slices of a die in ascending physical order (R236, R403). -/
def State.enabledSlices (s : State) (die : Nat) : List Nat :=
  (List.range 48).filter fun i => !s.fuseSlices.contains (die, i)

/-- The home slice of a physical address, as 48 × die + physical slice (R236). -/
def State.homeSlice (s : State) (pa : Nat) : Nat :=
  let die := pa / hbmDie
  let en := s.enabledSlices die
  let n := en.length
  let u := pa % hbmDie / 256
  let full := 192 * 2 ^ 30 / (256 * n) * n
  let e :=
    if u < full then
      let t := u / n
      let h := ((t % 128) ^^^ (t / 2 ^ 7 % 128) ^^^ (t / 2 ^ 14 % 128) ^^^ (t / 2 ^ 21 % 128)) % n
      (u % n + h) % n
    else u - full
  48 * die + en.getD e 0

/-- The home of an address: slices 0 to 95, chip-scratchpad banks 96 to 191, cluster units from 192 (R272). -/
def State.homeOf (s : State) (a : Nat) : Nat :=
  if isHbm a then s.homeSlice a
  else if isCsp a then 96 + (a - 2 ^ 52) / 2 ^ 26 * 48 + (a - 2 ^ 52) % 2 ^ 26 / 2 ^ 20
  else if isSpad a then 192 + (a - 2 ^ 53) / 2 ^ 19
  else 0

/-- The sector 0 to 5 of a home slice (R236). -/
def sliceSector (h : Nat) : Nat := 3 * (h / 48) + h % 48 / 16

/-! ## Keys (R237, R238) -/

/-- The tag of a key index: it changes when the key is loaded again (R238, R391), and at each boot (R384, R400). -/
def State.keyTag (s : State) (k : Nat) : Nat :=
  1 + (s.mgmt.epoch * 2 ^ 16 + k) * 2 ^ 32 + ((s.mgmt.keys.find? fun e => e.n == k).map (·.gen)).getD 0

/-- A key index other than 0 that holds no key (R389). -/
def State.keyAbsent (s : State) (k : Nat) : Bool := k != 0 && !(s.mgmt.keys.any fun e => e.n == k && e.key.isSome)

/-- The key pair behind a tag (R389, R390). -/
def State.keyBytes (s : State) (tag : Nat) : List Byte := (lookupKey s.mgmt.loaded tag).getD (Config.keyMaterial tag)

/-- A byte as an access under a key tag sees it: clear when stored under the same tag or never written, else the stored
ciphertext of its sector decrypted under the accessor's key (R238). -/
def State.readByte (s : State) (key a : Nat) : Byte :=
  let b := SMap.get 0 s.mem a
  if isHbm a then
    let t := SMap.get 0 s.tags (a / 32)
    if t = 0 || t = key then b
    else
      let sec := a / 32 * 32
      (xts true (s.keyBytes key) sec (xts false (s.keyBytes t) sec (SMap.getAll 0 s.mem sec 32))).getD (a % 32) 0
  else b

/-- Raw bytes put into memory. -/
def State.putBytes (s : State) (a : Nat) (bs : List Byte) : State := { s with mem := SMap.putAll 0 s.mem a bs }

/-- Take over the sectors of a write for its key: bytes not written are as the new key reads them (R238). -/
def State.retag (s : State) (key : Nat) : List Nat → State
  | [] => s
  | sec :: secs =>
    let t := SMap.get 0 s.tags sec
    let s1 := if t = key || t = 0 then s
      else s.putBytes (32 * sec) ((List.range 32).map fun i => s.readByte key (32 * sec + i))
    { s1 with tags := SMap.put 0 s1.tags sec key }.retag key secs

/-- The 32-byte sectors that an access of `n` bytes touches. -/
def sectorsOf (a n : Nat) : List Nat := (List.range ((a + n + 31) / 32 - a / 32)).map (· + a / 32)

/-- The sectors wholly inside the access: such a write clears poison (R118, R397). -/
def wholeSectors (a n : Nat) : List Nat := (sectorsOf a n).filter fun x => a ≤ 32 * x && 32 * x + 32 ≤ a + n

/-- Does the access touch a poisoned sector (R118)? -/
def State.isPoisoned (s : State) (a n : Nat) : Bool := (sectorsOf a n).any s.poisoned.contains

/-! ## Versions and notices (R272, R273) -/

/-- Every core of a hedge, in COREID order (R333, R385). -/
def Hedge.coreList (h : Hedge) : List Nat :=
  (List.range 192).filter fun c => h.cores / 2 ^ (12 * coreDie c + coreCol c) % 2 == 1

/-- The cores of the hedges in a mask. -/
def State.hedgeCores (s : State) (m : BitVec 48) : List Nat :=
  s.hedges.flatMap fun h => if m.getLsbD h.n then h.coreList else []

/-- The cores that a notice for this entry goes to (R273). -/
def State.noticeTargets (s : State) (e : VersionEntry) : List Nat :=
  match e.many with
  | none => e.watchers
  | some m => s.hedgeCores m

def State.nextStamp (s : State) (home : Nat) : Nat := SMap.get 0 s.stamps home + 1

/-- A write accepted to a line: its version becomes the next stamp and its watchers are sent notices. -/
def State.bumpVersion (s : State) (home line : Nat) : State :=
  match s.versions.find? fun e => e.line == line with
  | none => s
  | some e =>
    let st := s.nextStamp home
    { s with
      stamps := SMap.put 0 s.stamps home st
      versions := updWhere (fun x => x.line == line) (fun x => { x with version := st }) s.versions
      notices := s.notices ++ (s.noticeTargets e).map fun c => (c, line) }

/-- The version a home answers for a line: its entry's, else the floor that the line would enter with. -/
def State.versionOf (s : State) (line : Nat) : Nat :=
  match s.versions.find? fun e => e.line == line with
  | some e => e.version
  | none => SMap.get 0 s.floors (s.homeOf (128 * line))

/-- Every line of the version tables that meets a byte range takes a new version: an engine has written there. -/
def State.bumpRange (s : State) (a n : Nat) : State :=
  (s.versions.filter fun e => a < 128 * e.line + 128 && 128 * e.line < a + n).foldl (fun s e => s.bumpVersion e.home e.line) s

/-- Bytes of the device that the hardware zeroes (R318, R394): nothing of them stays poisoned. -/
def State.zeroRange (s : State) (a n : Nat) : State :=
  { s.bumpRange a n with
    mem := SMap.clear s.mem a (a + n), poisoned := s.poisoned.filter fun x => !(a ≤ 32 * x && 32 * x < a + n) }

/-- A full L2 slice replaces its least recently used entry: a notice to each watcher, and the floor becomes a stamp that
no read has been answered with, so that no reader of the line passes for fresh (R272). -/
def State.makeRoom (s : State) (home : Nat) : State :=
  let mine := s.versions.filter fun e => e.home == home
  if home < 96 && 16384 ≤ mine.length then
    match mine with
    | [] => s
    | e :: _ =>
      { s with
        versions := s.versions.filter fun x => x.line != e.line
        notices := s.notices ++ (s.noticeTargets e).map fun c => (c, e.line)
        stamps := SMap.put 0 s.stamps home (s.nextStamp home)
        floors := SMap.put 0 s.floors home (s.nextStamp home) }
  else s

/-- A core of a hedge is added to a line's watcher list; the fifth registration makes it watched-by-many. The entry
becomes the most recently used. -/
def VersionEntry.watch (e : VersionEntry) (hedgeOf : Nat → Nat) (core : Nat) : VersionEntry :=
  match e.many with
  | some m => { e with many := some (m ||| (1 <<< hedgeOf core)) }
  | none =>
    if e.watchers.contains core then e
    else if e.watchers.length < 4 then { e with watchers := e.watchers ++ [core] }
    else
      { e with watchers := []
               many := some ((e.watchers ++ [core]).foldl (fun (m : BitVec 48) c => m ||| (1 <<< hedgeOf c)) 0) }

/-- The hedge that a core belongs to; the default when no live hedge names it. -/
def State.hedgeOfCore (s : State) (dflt c : Nat) : Nat :=
  ((s.hedges.find? fun h => h.coreList.contains c).map (·.n)).getD dflt

/-- A transactional read registers its core at the line's home (R267, R273). DESIGN CHOICE (log 46): a registration alone is
a use of the entry; a write does not refresh it. -/
def State.watchLine (s : State) (hedge core line : Nat) : State :=
  let home := s.homeOf (128 * line)
  match s.versions.find? fun e => e.line == line with
  | some e =>
    { s with versions := (s.versions.filter fun x => x.line != line) ++ [e.watch (s.hedgeOfCore hedge) core] }
  | none =>
    let s1 := s.makeRoom home
    let e : VersionEntry := { home := home, line := line, version := SMap.get 0 s1.floors home }
    { s1 with versions := s1.versions ++ [e.watch (s.hedgeOfCore hedge) core] }

/-! ## Home accesses -/

/-- Bytes as the home holds them, for a reader with a key tag. -/
def State.homeRead (s : State) (key a n : Nat) : List Byte := (List.range n).map fun i => s.readByte key (a + i)

/-- Two accesses share a byte. -/
def overlaps (a n b m : Nat) : Bool := a < b + m && b < a + n

/-- The 128-byte lines that an access touches. -/
def linesOf (a n : Nat) : List Nat := (List.range ((a + n + 127) / 128 - a / 128)).map (· + a / 128)

/-- Bytes `a` to `a + n` of the write of a number have been replaced: a poisoned sector whose every byte that write has
replaced is poisoned no more. DEDUCED (log 49): the lanes of one store, the elements of one copy and the stores of one TST
make one write of a sector that they cover (R118, R397). -/
def State.replaceSectors (s : State) (op a n : Nat) : State :=
  ((sectorsOf a n).filter s.poisoned.contains).foldl (fun s x =>
    let old := ((s.replaced.find? fun e => e.1 == x && e.2.1 == op).map (·.2.2)).getD 0
    let new := (List.range 32).foldl (fun m i => if a ≤ 32 * x + i && 32 * x + i < a + n then m ||| 2 ^ i else m) old
    if new + 1 = 2 ^ 32 then
      { s with poisoned := s.poisoned.filter (· != x), replaced := s.replaced.filter fun e => e.1 != x }
    else { s with replaced := (x, op, new) :: s.replaced.filter fun e => !(e.1 == x && e.2.1 == op) }) s

/-- A write performed at its home (R253, R272): bytes, key tags, poison, versions, notices. -/
def State.homeWrite (s : State) (key a : Nat) (bs : List Byte) : State :=
  let n := bs.length
  let s1 := if isHbm a then s.retag key (sectorsOf a n) else s
  let s2 := s1.putBytes a bs
  let clean := wholeSectors a n
  let s3 := { s2 with poisoned := s2.poisoned.filter fun x => !clean.contains x }
  (linesOf a n).foldl (fun s l => s.bumpVersion (s.homeOf (128 * l)) l) s3

/-! ## Copies in L1 and in sectors (R242, R313) -/

/-- A core by number, wherever it is held. -/
def State.getCore (s : State) (c : Nat) : Core :=
  if s.core.id = c + 1 then s.core else (s.cores.find? fun x => x.id == c + 1).getD { id := c + 1 }

/-- Put a core back. Core c is held with id c + 1, so that id 0 is no core. -/
def State.setCore (s : State) (x : Core) : State :=
  if s.core.id = x.id then { s with core := x }
  else if s.cores.any fun y => y.id == x.id then { s with cores := updWhere (fun y => y.id == x.id) (fun _ => x) s.cores }
  else { s with cores := s.cores ++ [x] }

/-- Whose work an access is, with its policy code (R3, R115, R339): 1 last use, 2 no allocation in L1. -/
structure Alloc where
  harvest : Bool := false
  hedge : Nat := 0
  policy : Nat := 0
  /-- A fabric access of the critical class (R378). -/
  critical : Bool := false
  deriving DecidableEq, Repr, Inhabited

/-- A fresh copy of a line as its home holds it. -/
def State.copyOf (s : State) (w : Alloc) (key line : Nat) : LineCopy :=
  { line := line, key := key, data := SMap.putAll 0 [] 0 (s.homeRead key (128 * line) 128), harvest := w.harvest,
    hedge := w.hedge }

def LineCopy.bytes (c : LineCopy) (off n : Nat) : List Byte := SMap.getAll 0 c.data off n

def LineCopy.write (c : LineCopy) (off : Nat) (bs : List Byte) (dirty : Bool) : LineCopy :=
  { c with data := SMap.putAll 0 c.data off bs
           dirty := if dirty then distinct (c.dirty ++ (List.range bs.length).map (· + off)) else c.dirty }

/-- All of a sector of a copy has been written. -/
def LineCopy.wholeSector (c : LineCopy) (i : Nat) : Bool := (List.range 32).all fun o => c.dirty.contains (32 * i + o)

/-- The dirty bytes of a copy accepted at the home: a whole sector as one write (R397). -/
def State.putDirty (s : State) (c : LineCopy) : State :=
  let s1 := ((List.range 4).filter c.wholeSector).foldl (fun s i =>
    s.homeWrite c.key (128 * c.line + 32 * i) (c.bytes (32 * i) 32)) s
  (c.dirty.filter fun o => !c.wholeSector (o / 32)).foldl (fun s o => s.homeWrite c.key (128 * c.line + o) (c.bytes o 1)) s1

/-- The copies of a line in other sectors than `keep` go, their dirty bytes first (R313). -/
def State.recallBut (s : State) (keep : Option Nat) (line : Nat) : State :=
  let gone (e : Nat × LineCopy) : Bool := e.2.line == line && some e.1 != keep
  (s.sectors.filter gone).foldl (fun s e => s.putDirty e.2) { s with sectors := s.sectors.filter fun e => !gone e }

/-- The dirty bytes of a copy in a sector written to the home, once no other sector keeps a copy of the line (R313). -/
def State.writeBack (s : State) (sec : Nat) (c : LineCopy) : State :=
  if c.dirty.isEmpty then s else (s.recallBut (some sec) c.line).putDirty c

/-- A line's sector copy. -/
def State.sectorCopy (s : State) (sec line : Nat) : Option LineCopy :=
  (s.sectors.find? fun e => e.1 == sec && e.2.line == line).map (·.2)

/-- Replace a sector's copy of a line in its place. -/
def State.setSectorCopy (s : State) (sec : Nat) (c : LineCopy) : State :=
  { s with sectors := updWhere (fun e => e.1 == sec && e.2.line == c.line) (fun _ => (sec, c)) s.sectors }

/-- A sector's copy of a line written back and made clean, or dropped. -/
def State.flushSector (s : State) (sec line : Nat) (drop : Bool) : State :=
  match s.sectorCopy sec line with
  | none => s
  | some c =>
    let s1 := s.writeBack sec c
    if drop then { s1 with sectors := s1.sectors.filter fun e => !(e.1 == sec && e.2.line == line) }
    else s1.setSectorCopy sec { c with dirty := [] }

/-- Is the line homed in the sector (R242)? -/
def State.homeInSector (s : State) (sec line : Nat) : Bool := sliceSector (s.homeSlice (128 * line)) == sec

/-- A read by a core finds every poisoned sector among some bytes replaced whole, in its own L1 or in its sector's copy. -/
def State.rewritten (s : State) (c a n : Nat) : Bool :=
  let whole (x : Nat) (y : LineCopy) : Bool := y.line == x / 4 && y.wholeSector (x % 4)
  ((sectorsOf a n).filter s.poisoned.contains).all fun x =>
    (s.getCore c).l1.any (whole x) || s.sectors.any fun e => e.1 == coreSector c && whole x e.2

/-! ### Room in the L2 slices (R2, R313, R318, R339) -/

/-- The physical slice, as 48 × die + slice, that keeps a sector's copy of a line: the next enabled one of the sector
from 16k + (h mod 16) on. -/
def State.copySlice (s : State) (sec line : Nat) : Nat :=
  let h := s.homeSlice (128 * line) % 48
  let en := s.enabledSlices (sec / 3)
  let i := ((List.range 16).map fun i => 16 * (sec % 3) + (h + i) % 16).find? en.contains
  48 * (sec / 3) + i.getD 0

/-- Ways of a slice that are not gated. -/
def State.ways (s : State) (slice : Nat) : Nat :=
  16 - (s.gatedWays.filter fun g => 48 * g.1 + g.2.1 == slice).length

/-- What a slice keeps: lines homed there, and sector copies (sector, line). -/
def State.homesIn (s : State) (slice : Nat) : List L2Line := s.resident.filter fun x => s.homeSlice (128 * x.line) == slice
def State.copiesIn (s : State) (slice : Nat) : List (Nat × LineCopy) := s.sectors.filter fun e => s.copySlice e.1 e.2.line == slice

/-- Does work of `w` replace a line of G work of a hedge that keeps `n` lines in the set? Not below the hedge's own ways,
unless the work is its own (R339). -/
def State.mayReplace (s : State) (w : Alloc) (harvest : Bool) (hedge n : Nat) : Bool :=
  harvest || (!w.harvest && hedge == w.hedge) || ((s.hedges.find? fun h => h.n == hedge).map (·.l2w)).getD 0 < n

/-- The set of its slice, of 1,024, that a line lies in (R313); which one is free (log 46). -/
def l2Set (line : Nat) : Nat := Config.l2Set line % 1024

/-- Make room in a line's set at a slice: the set of a full slice gives up its first candidate, a copy for a copy when
eight ways hold copies (R313). Lines of last use come first (R115). DESIGN CHOICE (log 46): the others in the order of
their allocation, lines homed there before copies. -/
def State.makeWay (s : State) (w : Alloc) (slice line : Nat) (copy : Bool) : State :=
  let homes := s.homesIn slice; let copies := s.copiesIn slice
  let tight := copy && 8 ≤ copies.length
  if homes.length + copies.length < s.ways slice && !tight then s
  else
    let set := l2Set line
    let hs := homes.filter fun x => l2Set x.line == set
    let cs := copies.filter fun e => l2Set e.2.line == set
    let full := copy && 8 ≤ cs.length
    if hs.length + cs.length < s.ways slice && !full then s
    else
      let held (h : Nat) : Nat :=
        (hs.filter fun x => !x.harvest && x.hedge == h).length + (cs.filter fun e => !e.2.harvest && e.2.hedge == h).length
      let home (last : Bool) : Option L2Line :=
        if full then none else hs.find? fun x => x.last == last && s.mayReplace w x.harvest x.hedge (held x.hedge)
      let spare (last : Bool) : Option (Nat × LineCopy) :=
        cs.find? fun e => e.2.last == last && s.mayReplace w e.2.harvest e.2.hedge (held e.2.hedge)
      match if (spare true).isSome then home true else (home true).or (home false) with
      | some x => { s with resident := s.resident.filter fun y => y.line != x.line }
      | none =>
        match ((spare true).or (spare false)).or cs.head? with
        | some e => s.flushSector e.1 e.2.line true
        | none => s

/-- A sector takes a copy of a line, where a way of the slice is awake. -/
def State.addSectorCopy (s : State) (w : Alloc) (sec : Nat) (c : LineCopy) : State :=
  let slice := s.copySlice sec c.line
  if s.ways slice = 0 then s
  else
    let s1 := s.makeWay w slice c.line true
    { s1 with sectors := s1.sectors ++ [(sec, c)] }

/-- A line becomes resident at its home slice. -/
def State.addResident (s : State) (w : Alloc) (line : Nat) : State :=
  if s.resident.any fun x => x.line == line then s
  else
    let s1 := s.makeWay w (s.homeSlice (128 * line)) line false
    { s1 with resident := s1.resident ++ [{ line := line, harvest := w.harvest, hedge := w.hedge }] }

/-! ### The L1 of a core -/

/-- The dirty bytes of a core's L1 copy performed one level out: at the sector copy, or the home if the line is homed
in the sector or no copy is kept there. -/
def State.flushL1 (s : State) (c line : Nat) (drop : Bool) : State :=
  let core := s.getCore c
  match core.l1.find? fun x => x.line == line with
  | none => s
  | some x =>
    let rest := core.l1.filter fun y => y.line != line
    let clean := updWhere (fun y => y.line == line) (fun y => { y with dirty := [] }) core.l1
    let s1 := s.setCore { core with l1 := if drop then rest else clean }
    let sec := coreSector c
    match s1.sectorCopy sec line with
    | some y =>
      if y.key = x.key then s1.setSectorCopy sec (x.dirty.foldl (fun y o => y.write o (x.bytes o 1) true) y)
      else (s1.flushSector sec line true).writeBack sec x
    | none => s1.writeBack sec x

/-- Every dirty line of a core's L1 performed one level out. -/
def State.flushL1All (s : State) (c : Nat) (drop : Bool) : State :=
  (s.getCore c).l1.foldl (fun s x => s.flushL1 c x.line drop) s

/-- A line enters a core's L1 of 1,024 lines, which gives up its first candidate when it is full (R2). -/
def State.addL1 (s : State) (c : Nat) (x : LineCopy) : State :=
  let l1 := (s.getCore c).l1
  let s1 := if 1024 ≤ l1.length then s.flushL1 c (l1.headD x).line true else s
  let core := s1.getCore c
  s1.setCore { core with l1 := core.l1 ++ [x] }

/-- The members for which `p` holds, then the others. -/
def putFirst {α : Type} (p : α → Bool) (xs : List α) : List α := xs.filter p ++ xs.filter fun x => !p x

/-- After an access of last use its line is the first candidate for replacement in L1 and L2 (R115). -/
def State.lastUse (s : State) (c line : Nat) : State :=
  let core := s.getCore c
  let s1 := s.setCore { core with l1 := putFirst (fun x => x.line == line) core.l1 }
  let mine (e : Nat × LineCopy) : Bool := e.1 == coreSector c && e.2.line == line
  { s1 with
    resident := putFirst (fun x => x.line == line) (updWhere (fun x => x.line == line) (fun x => { x with last := true }) s1.resident)
    sectors := putFirst mine (updWhere mine (fun e => (e.1, { e.2 with last := true })) s1.sectors) }

/-! ### Release and acquire -/

/-- Every dirty line of a sector written back: no release at a narrower scope is left there to be promoted. -/
def State.flushSectorAll (s : State) (sec : Nat) (drop : Bool) : State :=
  let s1 := (s.sectors.filter fun e => e.1 == sec).foldl (fun s e => s.flushSector sec e.2.line drop) s
  { s1 with narrow := s1.narrow.filter fun x => x.2 != sec }

/-- The level at which an access of a scope is performed: 0 the L1, 1 the sector copy, 2 the home (R242). A .sk access
is performed at the sector when the paddock lies in one sector. -/
def scopeLevel (scope : Nat) (padInSector : Bool) : Nat :=
  match scope with
  | 0 => 0
  | 1 => 1
  | 2 => if padInSector then 1 else 2
  | _ => 2

/-- A release at a level performs the core's earlier narrower writes there (R249). -/
def State.release (s : State) (c level : Nat) : State :=
  let s1 := if 1 ≤ level then s.flushL1All c false else s
  if 2 ≤ level then s1.flushSectorAll (coreSector c) false else s1

/-- A release write at a line, performed in the sector: the line's home records the sector (R254). -/
def State.releaseTo (s : State) (c level line : Nat) : State :=
  let s1 := s.release c level
  if level = 1 && !s1.narrow.contains (line, coreSector c) then { s1 with narrow := s1.narrow ++ [(line, coreSector c)] }
  else s1

/-- Promotion (R254): an acquire at a wider scope reaches a line, and the sectors that hold writes to it released more
narrowly first perform every write of theirs. -/
def State.promote (s : State) (line : Nat) : State :=
  let secs := distinct (((s.narrow.filter fun x => x.1 == line).map (·.2)) ++
    (s.sectors.filter fun e => e.2.line == line && !e.2.dirty.isEmpty).map (·.1))
  secs.foldl (fun s sec => s.flushSectorAll sec false) s

/-- An acquire at a level: copies inside the level are written back and dropped, so that later reads are fresh; at the
widest level the line that it reads is promoted first. -/
def State.acquire (s : State) (c level : Nat) (line : Option Nat) : State :=
  let s1 := match line with
    | some l => if 2 ≤ level then s.promote l else s
    | none => s
  let s2 := if 1 ≤ level then s1.flushL1All c true else s1
  if 2 ≤ level then s2.flushSectorAll (coreSector c) true else s2

/-! ### Reads and writes at a level -/

/-- The line with every narrower write of the device performed at its home, and no sector copy left. -/
def State.gather (s : State) (line : Nat) : State :=
  let cs := ((s.core :: s.cores).filter fun k => k.id != 0 && k.l1.any fun x => x.line == line).map fun k => k.id - 1
  (cs.foldl (fun s c => s.flushL1 c line true) s).recallBut none line

/-- Bytes of device memory as a core's access at a level sees them. Reads at a narrow level fill the copies they pass;
a wider read first performs the core's own narrower writes to the line (R245). -/
def State.readAt (s : State) (w : Alloc) (c level key a n : Nat) : State × List Byte :=
  let line := a / 128
  let off := a % 128
  let sec := coreSector c
  match level with
  | 0 =>
    match (s.getCore c).l1.find? fun x => x.line == line && x.key == key with
    | some x => (s, x.bytes off n)
    | none =>
      -- a copy under another key goes first
      let s1 := s.flushL1 c line true
      let s2 := match s1.sectorCopy sec line with
        | some y => if y.key = key then s1 else s1.flushSector sec line true
        | none => s1
      let x := match s2.sectorCopy sec line with
        | some y => { y with dirty := [], harvest := w.harvest, hedge := w.hedge }
        | none => s2.copyOf w key line
      (if w.policy = 2 then s2 else s2.addL1 c x, x.bytes off n)
  | 1 =>
    let s1 := s.flushL1 c line true
    if s1.homeInSector sec line then (s1, s1.homeRead key a n)
    else match s1.sectorCopy sec line with
      | some y => if y.key = key then (s1, y.bytes off n) else
          let s2 := s1.flushSector sec line true
          (s2, s2.homeRead key a n)
      | none =>
        let y := s1.copyOf w key line
        (s1.addSectorCopy w sec y, y.bytes off n)
  | _ =>
    let s1 := (s.flushL1 c line true).flushSector sec line true
    (s1, s1.homeRead key a n)

/-- A write performed at the home after every sector copy of its line has been recalled (R313). -/
def State.homeWriteAll (s : State) (key a : Nat) (bs : List Byte) : State :=
  ((linesOf a bs.length).foldl (fun s l => s.recallBut none l) s).homeWrite key a bs

/-- A write performed in the sector of a core: at its copy, or at the home. -/
def State.sectorWrite (s : State) (w : Alloc) (c key a : Nat) (bs : List Byte) : State :=
  let line := a / 128
  let sec := coreSector c
  let s1 := s.flushL1 c line true
  if s1.homeInSector sec line then s1.homeWriteAll key a bs
  else
    let s2 := (s1.readAt w c 1 key a 1).1
    match s2.sectorCopy sec line with
    | some y => s2.setSectorCopy sec (y.write (a % 128) bs true)
    | none => s2.homeWriteAll key a bs

/-- A write by a core at a level; without an allocation in L1 a write to a line that the L1 lacks goes one level out. -/
def State.writeAt (s : State) (w : Alloc) (c level key a : Nat) (bs : List Byte) : State :=
  let line := a / 128
  match level with
  | 0 =>
    let s1 := (s.readAt w c 0 key a 1).1
    let core := s1.getCore c
    if core.l1.any fun x => x.line == line then
      s1.setCore { core with l1 := updWhere (fun x => x.line == line) (fun x => x.write (a % 128) bs true) core.l1 }
    else s1.sectorWrite w c key a bs
  | 1 => s.sectorWrite w c key a bs
  | _ => (s.flushL1 c line true).homeWriteAll key a bs

end Sys2Proof.Machine
end

