-- ==== Sys2Proof/Machine/Walk.lean ====
section
/-! DEFINITION. Page tables, walks and translation (11_memory.md, R223 to R228), and the element formats that a page
carries (16_numbers.md, R288, R292). -/

namespace Sys2Proof.Machine

/-- Element bits of an FMT code (R288). -/
def fmtBits (f : Nat) : Nat :=
  match f with
  | 0 => 32 | 1 => 16 | 2 => 16 | 3 => 8 | 4 => 8 | 5 => 4 | 6 => 8 | 7 => 4
  | _ => 8

/-- Elements of a block (R224); a geometry of 0 has no blocks. -/
def blkElems (b : Nat) : Nat := if b = 1 then 16 else 32

/-- The pairs of format and geometry that R288 accepts on a page. -/
def fmtBlkOk (f b : Nat) : Bool := f < 8 && b < 3 && (f != 0 || b == 0)

/-- log2 of a leaf's size by PS (R224). -/
def leafLg (ps : Nat) : Nat := match ps with | 0 => 12 | 1 => 16 | 2 => 21 | _ => 30

/-- Bytes of the scale frame of a page (R228). -/
def frameBytes (lg f b : Nat) : Nat := 2 ^ lg * 8 / (blkElems b * fmtBits f)

/-- The conditions of R225 and R226 on a valid entry met at a level. -/
def pteMalformed (level e : Nat) : Bool :=
  let ps := bits e 11 10; let pfn := bits e 51 12; let mt := bits e 4 3
  let f := bits e 57 54; let b := bits e 53 52; let sfa := bits e 111 64
  let base := pfn * 4096; let size := 2 ^ leafLg ps
  bits e 127 112 != 0 || bits e 63 58 != 0 || bits e 1 1 != 0 ||
  if bits e 2 2 = 1 then
    !(match level with | 0 => ps ≤ 1 | 1 => ps == 2 | 2 => ps == 3 | _ => false) ||
    base % size != 0 || !fmtBlkOk f b || mt == 3 ||
    (b != 0 && hbmEnd < sfa * 16 + frameBytes (leafLg ps) f b) ||
    (mt == 0 && !(base + size ≤ hbmEnd ||
      (hbmEnd ≤ base && base + size ≤ 0x0060_0400_0000 && bits e 9 9 == 1 && bits e 7 7 == 0 && f == 0 && b == 0)))
  else
    level == 0 || bits e 11 3 != 0 || f != 0 || b != 0 || sfa != 0 || bits e 12 12 == 1 || hbmEnd < base + 8192

/-- A page table entry as a walker reads it: key index 0, device scope (R223). -/
def State.readPte (s : State) (table i : Nat) : Nat := leNat (s.homeRead (s.keyTag 0) (table + 16 * i) 16)

/-- The entry that translates: one of the sixteen of a 64 KiB page (R225). -/
def State.pteAt (s : State) (table i level : Nat) : Nat :=
  let e := s.readPte table i
  if level = 0 && bits e 0 0 == 1 && bits e 2 2 == 1 && bits e 11 10 == 1 then
    s.readPte table (i / 16 * 16 + Config.pageEntry s.tick i % 16)
  else e

/-- What a walk gives: a code with its AUX, or a translation. -/
inductive WalkOut
  | fault (code aux : Nat)
  | leaf (e : TlbEntry)
  deriving DecidableEq, Repr, Inhabited

/-- What a leaf gives for an address (R224). -/
def leafOf (asid va e : Nat) : TlbEntry :=
  let lg := leafLg (bits e 11 10)
  { asid := asid, page := va / 2 ^ lg * 2 ^ (lg - 12), pa := bits e 51 12 * 4096, r := bits e 5 5 = 1, w := bits e 6 6 = 1,
    x := bits e 7 7 = 1, mt := bits e 4 3, ext := bits e 9 9 = 1, fmt := bits e 57 54, blk := bits e 53 52,
    sfa := bits e 111 64, lg := lg }

/-- Walk `n` levels from a table down to L0 (R223, R225, R232). -/
def State.walkFrom (s : State) (asid va : Nat) : Nat → Nat → WalkOut
  | 0, _ => .fault 8 0x0A
  | n + 1, table =>
    let e := s.pteAt table (bits va (20 + 9 * n) (12 + 9 * n)) n
    if bits e 0 0 = 0 then .fault 7 1
    else if pteMalformed n e then .fault 8 0x0A
    else if bits e 2 2 = 0 then s.walkFrom asid va n (bits e 51 12 * 4096)
    else if bits e 8 8 = 1 then .fault 7 2
    else
      .leaf (leafOf asid va e)

/-- A walk from the root of an address space (R223). -/
def State.walk (s : State) (root asid va : Nat) : WalkOut :=
  if 2 ^ 57 ≤ va then .fault 8 3 else s.walkFrom asid va 5 root

/-- The tables that a walk passes below the root: what a walk cache keeps of it (R229). -/
def State.walkTables (s : State) (sector asid va : Nat) : Nat → Nat → List WalkEntry
  | 0, _ => []
  | n + 1, table =>
    let e := s.pteAt table (bits va (20 + 9 * n) (12 + 9 * n)) n
    if bits e 0 0 = 0 || pteMalformed n e || bits e 2 2 = 1 then []
    else
      let next := bits e 51 12 * 4096
      { sector := sector, asid := asid, level := n, range := va / 2 ^ (12 + 9 * n), table := next } ::
        s.walkTables sector asid va n next

/-- Where a walk by a sector's walkers starts: at the lowest table that its walk cache holds, or at the root. -/
def State.walkStart (s : State) (sector root asid va : Nat) : Nat × Nat :=
  let held (n : Nat) : Option WalkEntry :=
    s.walkCache.find? fun e => e.sector == sector && e.asid == asid && e.level == n && e.range == va / 2 ^ (12 + 9 * n)
  match [1, 2, 3, 4].findSome? held with
  | some e => (e.level, e.table)
  | none => (5, root)

/-- What a sector's walkers find, and their walk cache of 512 entries after it. -/
def State.sectorWalk (s : State) (sector root asid va : Nat) : State × WalkOut :=
  let (n, table) := s.walkStart sector root asid va
  let new := s.walkTables sector asid va n table
  let mine := s.walkCache.filter (·.sector == sector) ++ new
  let rest := s.walkCache.filter (·.sector != sector)
  ({ s with walkCache := rest ++ mine.drop (mine.length - 512) },
    if 2 ^ 57 ≤ va then .fault 8 3 else s.walkFrom asid va n table)

/-- The leaves of an address space that meet a range, with their MIG bits, below a table of `n` levels at a base address. -/
def State.leaves (s : State) (asid start len : Nat) : Nat → Nat → Nat → List (TlbEntry × Bool)
  | 0, _, _ => []
  | n + 1, table, base => (List.range 512).flatMap fun i =>
      let va := base + i * 2 ^ (12 + 9 * n)
      if start < va + 2 ^ (12 + 9 * n) && va < start + len then
        let e := s.readPte table i
        if bits e 0 0 = 0 || pteMalformed n e then []
        else if bits e 2 2 = 1 then [(leafOf asid va e, bits e 8 8 = 1)]
        else s.leaves asid start len n (bits e 51 12 * 4096) va
      else []
def State.leavesOf (s : State) (root asid start len : Nat) : List (TlbEntry × Bool) := s.leaves asid start len 5 root 0

/-- The range that an entry translates. -/
def TlbEntry.span (e : TlbEntry) : Span := (e.asid, 4096 * e.page, 2 ^ e.lg)

/-- The entry translates the address. -/
def TlbEntry.covers (e : TlbEntry) (asid va : Nat) : Bool :=
  e.asid == asid && e.page * 4096 ≤ va && va < e.page * 4096 + 2 ^ e.lg

/-- The peer that an address names, in a pass of R124 and in a page of memory type 2, and the offset in its window.
DEDUCED (log 18): R342 names a signal in a window as R124 forms a peer address, and a page table entry has no field for the
peer; the frame of such a page is its place in the window. -/
def peerOf (a : Word64) : Nat := a.toNat / 2 ^ 54
def peerOff (a : Word64) : Nat := a.toNat % 2 ^ 54

/-- The unified address that a translation gives (R226, R371, R381). -/
def TlbEntry.phys (e : TlbEntry) (va : Nat) : Nat :=
  let pa := e.pa + va % 2 ^ e.lg
  match e.mt with
  | 1 => hostAddr e.asid pa
  | 2 => peerAddr (va / 2 ^ 54) e.asid pa
  | _ => pa

/-- The physical address of the scale byte of the element at a virtual address (R292). -/
def TlbEntry.scaleAddr (e : TlbEntry) (va : Nat) : Nat :=
  e.sfa * 16 + va % 2 ^ e.lg * 8 / (blkElems e.blk * fmtBits e.fmt)

/-- A translation of an address that a core's TLB holds, or the TLB of one of its quadrants (R229). -/
def Core.tlbFind (c : Core) (quad asid va : Nat) : Option TlbEntry :=
  ((c.qtlb.find? fun e => e.1 == quad && e.2.covers asid va).map (·.2)).or (c.tlb.find? fun e => e.covers asid va)

/-- The same page under the same ASID. -/
def TlbEntry.same (a b : TlbEntry) : Bool := a.asid == b.asid && a.page == b.page && a.lg == b.lg

/-- A translation enters a core's TLB and the TLB of one of its quadrants. DESIGN CHOICE (log 46): a full TLB gives up its
oldest entry. -/
def Core.fillTlb (c : Core) (quad : Nat) (e : TlbEntry) : Core :=
  let mine := (c.qtlb.filter fun x => x.1 == quad && !x.2.same e).take 63
  { c with tlb := e :: (c.tlb.filter fun x => !x.same e).take 4095
           qtlb := (quad, e) :: mine ++ c.qtlb.filter fun x => x.1 != quad }

/-- Translation by a unit that reads the tables itself. -/
def State.translateNow (s : State) (root asid va : Nat) : WalkOut := s.walk root asid va

/-- The key tag that an access to a page uses: the code key for a text page, else the context's key (R237). DEDUCED (log 49): a
CODEKEY of 0, clear text (R387), is key index 0. -/
def State.pageKey (s : State) (key codeKey : Nat) (e : TlbEntry) : Nat :=
  s.keyTag (e.key.getD (if e.x then codeKey else key))

/-- The bytes at a virtual address as a system agent sees them after its own translation: for queue rings, signals
and descriptors (R405). None when the walk fails or a right is missing. -/
def State.sysLoad (s : State) (root asid key va n : Nat) : Except (Nat × Nat) (List Byte) :=
  match s.translateNow root asid va with
  | .fault c a => .error (c, a)
  | .leaf e =>
    if !e.r then .error (8, 2)
    else
      let a := e.phys va
      if s.isPoisoned a n then .error (11, 0) else .ok (s.homeRead (s.keyTag key) a n)

/-- Bytes written at a virtual address by a system agent, at the home. -/
def State.sysStore (s : State) (root asid key va : Nat) (bs : List Byte) : Except (Nat × Nat) State :=
  match s.translateNow root asid va with
  | .fault c a => .error (c, a)
  | .leaf e => if !e.w then .error (8, 2) else .ok (s.homeWriteAll (s.keyTag key) (e.phys va) bs)

end Sys2Proof.Machine
end

