-- ==== Sys2Proof/Machine/Focus.lean ====
section
/-! DEFINITION. The part in hand and everything that is not in hand: taking up a part, and looking up or changing any
part, gang, workgroup or context wherever it is held (log 9). -/

namespace Sys2Proof.Machine

/-! ## Everything of a kind -/

def State.allParts (s : State) : List Part := if s.me.id = 0 then s.parts else s.me :: s.parts
def State.allGangs (s : State) : List Gang := if s.gang.id = 0 then s.gangs else s.gang :: s.gangs
def State.allWgs (s : State) : List Workgroup := if s.wg.id = 0 then s.wgs else s.wg :: s.wgs
def State.allCtxs (s : State) : List Context := if s.ctx.id = 0 then s.ctxs else s.ctx :: s.ctxs
def State.allCores (s : State) : List Core := if s.core.id = 0 then s.cores else s.core :: s.cores

def State.getPart (s : State) (n : Nat) : Part := (s.allParts.find? fun x => x.id == n).getD {}
def State.getGang (s : State) (n : Nat) : Gang := (s.allGangs.find? fun x => x.id == n).getD {}
def State.getWg (s : State) (n : Nat) : Workgroup := (s.allWgs.find? fun x => x.id == n).getD {}
def State.getCtx (s : State) (n : Nat) : Context := (s.allCtxs.find? fun x => x.id == n).getD {}

/-- Change every part for which `p` holds. -/
def State.updParts (s : State) (p : Part → Bool) (f : Part → Part) : State :=
  { s with me := if s.me.id ≠ 0 && p s.me then f s.me else s.me, parts := updWhere p f s.parts }
def State.updGangs (s : State) (p : Gang → Bool) (f : Gang → Gang) : State :=
  { s with gang := if s.gang.id ≠ 0 && p s.gang then f s.gang else s.gang, gangs := updWhere p f s.gangs }
def State.updWgs (s : State) (p : Workgroup → Bool) (f : Workgroup → Workgroup) : State :=
  { s with wg := if s.wg.id ≠ 0 && p s.wg then f s.wg else s.wg, wgs := updWhere p f s.wgs }
def State.updCtxs (s : State) (p : Context → Bool) (f : Context → Context) : State :=
  { s with ctx := if s.ctx.id ≠ 0 && p s.ctx then f s.ctx else s.ctx, ctxs := updWhere p f s.ctxs }

def State.updPart (s : State) (n : Nat) (f : Part → Part) : State := s.updParts (fun x => x.id == n) f
def State.updGang (s : State) (n : Nat) (f : Gang → Gang) : State := s.updGangs (fun x => x.id == n) f
def State.updWg (s : State) (n : Nat) (f : Workgroup → Workgroup) : State := s.updWgs (fun x => x.id == n) f
def State.updCtx (s : State) (n : Nat) (f : Context → Context) : State := s.updCtxs (fun x => x.id == n) f
def State.updCore (s : State) (c : Nat) (f : Core → Core) : State := s.setCore (f (s.getCore c))

/-- Remove the parts for which `p` holds. -/
def State.dropParts (s : State) (p : Part → Bool) : State :=
  { s with me := if p s.me then {} else s.me, parts := s.parts.filter fun x => !p x }

/-! ## Taking up a part -/

/-- Put an item back among others that stand in the order of their numbers; number 0 is none. -/
def insertBy {α : Type} (id : α → Nat) (x : α) (xs : List α) : List α :=
  if id x = 0 then xs else xs.takeWhile (fun y => id y < id x) ++ x :: xs.dropWhile fun y => id y < id x

/-- Put everything in hand back among the rest. -/
def State.putBack (s : State) : State :=
  { s with me := {}, gang := {}, wg := {}, ctx := {}, core := {},
           parts := insertBy Part.id s.me s.parts, gangs := insertBy Gang.id s.gang s.gangs,
           wgs := insertBy Workgroup.id s.wg s.wgs, ctxs := insertBy Context.id s.ctx s.ctxs,
           cores := insertBy Core.id s.core s.cores }

/-- Take up a part, with its gang, workgroup, context and core. -/
def State.takeUp (s : State) (n : Nat) : State :=
  if s.me.id = n then s
  else
    let s1 := s.putBack
    let p := s1.getPart n
    let g := s1.getGang p.gang
    let w := s1.getWg g.workgroup
    let c := s1.getCtx w.context
    let k := s1.getCore w.core
    { s1 with me := p, gang := g, wg := w, ctx := c, core := k,
              parts := s1.parts.filter fun x => x.id != p.id,
              gangs := s1.gangs.filter fun x => x.id != g.id,
              wgs := s1.wgs.filter fun x => x.id != w.id,
              ctxs := s1.ctxs.filter fun x => x.id != c.id,
              cores := s1.cores.filter fun x => x.id != k.id }

/-! ## Membership -/

def State.ctxOfGang (s : State) (g : Nat) : Nat := (s.getWg (s.getGang g).workgroup).context
def State.ctxOfPart (s : State) (p : Part) : Nat := s.ctxOfGang p.gang
def State.coreOfPart (s : State) (p : Part) : Nat := (s.getWg (s.getGang p.gang).workgroup).core
def State.partsOfCtx (s : State) (c : Nat) : List Nat := (s.allParts.filter fun p => s.ctxOfPart p == c).map (·.id)
def State.gangsOfWg (s : State) (w : Nat) : List Gang := s.allGangs.filter fun g => g.workgroup == w
def State.partsOfWg (s : State) (w : Nat) : List Part :=
  s.allParts.filter fun p => (s.getGang p.gang).workgroup == w
def State.wgsOfCtx (s : State) (c : Nat) : List Workgroup := s.allWgs.filter fun w => w.context == c

/-- The parts of the contexts of an ASID. -/
def State.partsOfAsid (s : State) (asid : Nat) : List Nat :=
  (s.allParts.filter fun p => (s.getCtx (s.ctxOfPart p)).asid == asid).map (·.id)

/-- The number of the core of the workgroup in hand. -/
def State.here (s : State) : Nat := s.wg.core

/-- The hedge of a number, when it is live. -/
def State.hedge? (s : State) (n : Nat) : Option Hedge := s.hedges.find? fun h => h.n == n
def State.updHedge (s : State) (n : Nat) (f : Hedge → Hedge) : State :=
  { s with hedges := updWhere (fun h => h.n == n) f s.hedges }

end Sys2Proof.Machine
end

