-- ==== Sys2Proof/Machine/Windows.lean ====
section
/-! DEFINITION. What an access meets outside the device, and the tables that say so: the driver's root block and ASID table
(R384, R387), planes and peers as this device sends to them (22_fabric_host.md, R372, R376, R378), the export table and the
windows of this device (R371), and the notifications of page faults (R232). -/

namespace Sys2Proof.Machine

/-! ## The driver's tables (R384, R387) -/

/-- A little-endian field of a driver structure. -/
def State.rd (s : State) (a n : Nat) : Nat := leNat (s.homeRead (s.keyTag 0) a n)
/-- Write a field of a driver structure. -/
def State.wr (s : State) (a n x : Nat) : State := s.homeWriteAll (s.keyTag 0) a (leBytes n x)

/-! ## The root block (R384) -/

def State.htable (s : State) : Nat := s.rd 0 8
def State.atable (s : State) : Nat := s.rd 8 8
def State.qtable (s : State) (die : Nat) : Nat := s.rd (16 + 8 * die) 8
def State.fabnum (s : State) : Nat := s.rd 32 2
def State.xtable (s : State) : Nat := s.rd 40 8
def State.hring (s : State) : Nat := s.rd 48 8
def State.hrsize (s : State) : Nat := s.rd 56 4

/-! ## The ASID table (R387) -/

/-- What an ASID's entry gives. -/
structure AsidEntry where
  root : Nat
  key : Nat
  hedge : Nat
  valid : Bool
  harvestOnly : Bool
  mask : Nat
  codeKey : Nat
  session : Nat
  deriving DecidableEq, Repr, Inhabited

def State.readAsid (s : State) (n : Nat) : AsidEntry :=
  let a := s.atable + 32 * n
  let flags := s.rd (a + 11) 1
  { root := s.rd a 8, key := if n = 0 then 0 else s.rd (a + 8) 2, hedge := s.rd (a + 10) 1, valid := flags % 2 == 1,
    harvestOnly := flags / 2 % 2 == 1, mask := s.rd (a + 12) 2, codeKey := s.rd (a + 14) 2, session := s.rd (a + 16) 4 }

/-! ## Page faults (R232) -/

/-- The widest access kind of two (R232). DESIGN CHOICE (log 49): of a read and a write it is both, as of an atomic. -/
def widerAcc (a b : Nat) : Nat := a ||| b

/-- A page fault of a core attaches to the notification of its page on the core's die, or makes one (R232). -/
def State.notify (s : State) (hedge core asid page aux acc : Nat) : State :=
  let here (n : Notification) : Bool := n.die == coreDie core && n.asid == asid && n.page == page && n.aux == aux
  if s.notifications.any here then
    { s with
      notifications := updWhere here
        (fun n => if n.posted then n else { n with acc := widerAcc n.acc acc, cores := distinct (n.cores ++ [core]) })
        s.notifications }
  else
    { s with
      notifications := s.notifications ++ [{ hedge := hedge, die := coreDie core, asid := asid, page := page, aux := aux,
                                             acc := acc, cores := [core], posted := false }] }

/-- A wait of an agent for a page. -/
def EngineWait.is (w : EngineWait) (who : Asker) (asid page : Nat) : Bool := w.who == who && w.asid == asid && w.page == page
/-- The agent has asked for the page, or the driver has refused it. -/
def State.awaited (s : State) (who : Asker) (asid page : Nat) : Bool := s.engineWaits.any fun w => w.is who asid page
def State.refusedTo (s : State) (who : Asker) (asid page : Nat) : Bool := s.refusals.any fun w => w.is who asid page

/-- A page fault of an engine: no core stands behind it, and it is remembered until the driver answers. -/
def State.notifyEngine (s : State) (who : Asker) (hedge die asid page aux acc : Nat) : State :=
  let w : EngineWait := { who := who, asid := asid, page := page, die := die, aux := aux }
  let s1 := if s.awaited who asid page then s else { s with engineWaits := s.engineWaits ++ [w] }
  if s1.notifications.any fun n => n.die == die && n.asid == asid && n.page == page && n.aux == aux then s1
  else
    { s1 with
      notifications := s1.notifications ++
        [{ hedge := hedge, die := die, asid := asid, page := page, aux := aux, acc := acc, cores := [], posted := false }] }

/-! ## Places -/

/-- Where a lane's access goes. -/
structure Spot where
  ua : Nat
  key : Nat := 0
  mt : Nat := 0
  entry : Option TlbEntry := none
  /-- The translations that lead to it (R230). -/
  spans : List Span := []
  deriving DecidableEq, Repr, Inhabited

/-- What resolving an address gives. -/
inductive Place
  | spot (x : Spot)
  | fault (code aux : Nat)
  | walk (va : Nat)
  | hold
  deriving DecidableEq, Repr, Inhabited

/-- An access that belongs to the critical class: to a page of memory type 2 with EXT = 1 (R378). -/
def Spot.critical (x : Spot) : Bool := x.mt == 2 && (x.entry.map (·.ext)).getD false

/-! ## Peers and the host -/

/-- Is a plane live to a peer (R376)? -/
def planeLive (ds : List DeadPlane) (peer plane : Nat) : Bool := !ds.any fun d => d.peer == peer && d.plane == plane

/-- The planes that carry a request for a byte of a peer's window: bits 9:7 of its address, or the remap plane; in the
critical class also plane p XOR 4 (R372, R376, R378). -/
def sendPlanes (ds : List DeadPlane) (peer off : Nat) (critical : Bool) : List Nat :=
  let p := off / 128 % 8
  let moved := ((ds.find? fun d => d.peer == peer && d.plane == p).bind (·.remap)).toList
  let own := if planeLive ds peer p then [p] else []
  let all := if critical && planeLive ds peer (p ^^^ 4) then own ++ [p ^^^ 4] else own
  if all.isEmpty then moved else all

/-- The next value of a 16-bit count for a plane to a device (R376). -/
def countUp (m : SMap Nat) (device plane : Nat) : SMap Nat :=
  SMap.put 0 m (8 * device + plane) ((SMap.get 0 m (8 * device + plane) + 1) % 2 ^ 16)

/-- A request of a class to a peer leaves, with its count on each plane (R374, R376); a critical one takes the next sequence
number of the peer (R378). -/
def State.sendPeer (s : State) (a : Nat) (harvest critical : Bool) : State :=
  if isPeer a then
    let dev := (a - 2 ^ 80) / 2 ^ 67
    let off := a % 2 ^ 54
    let n := SMap.get 0 s.criticalSent dev
    let ps := sendPlanes s.dead dev off critical
    { s with
      outbox := s.outbox ++ [.request dev (ps.map fun p => (p, SMap.get 0 s.sentCount (8 * dev + p))) harvest off
        (if critical then some n else none)]
      sentCount := ps.foldl (fun m p => countUp m dev p) s.sentCount
      criticalSent := if critical then SMap.put 0 s.criticalSent dev ((n + 1) % 2 ^ 32) else s.criticalSent }
  else s

/-- The window that a peer exports to an ASID of this device, as far as the model knows (log 7). -/
def State.peerWindow (s : State) (dev asid : Nat) : PeerWindow :=
  (s.peers.find? fun w => w.device == dev && w.asid == asid).getD
    { device := dev, asid := asid, length := Config.peerLength dev asid }

/-- A peer's window as this device meets it (R119, R371, R376). -/
def State.peerFault (s : State) (dev asid off : Nat) (r w : Bool) : Option (Nat × Nat) :=
  let x := s.peerWindow dev asid
  if (List.range 8).all (fun p => !planeLive s.dead dev p) || x.length = 0 then some (10, 2)
  else if x.length ≤ off then some (8, 3)
  else if (r && !x.r) || (w && !x.w) then some (8, 2)
  else if x.refused.contains (off / 4096) then some (8, 9) else none

/-- Host memory is reached through the connection of the ASID, until that fails and is not bound again (R381). -/
def State.hostFault (s : State) (asid : Nat) : Option (Nat × Nat) :=
  if s.connections.any (fun c => c.asid == asid && c.failed) && !s.connections.any (fun c => c.asid == asid && !c.failed)
  then some (10, 4) else none

/-- What has become of the way to a place outside the device. -/
def State.outsideFault (s : State) (a : Nat) (r w : Bool) : Option (Nat × Nat) :=
  if isPeer a then s.peerFault ((a - 2 ^ 80) / 2 ^ 67) ((a - 2 ^ 80) / 2 ^ 54 % 2 ^ 13) (a % 2 ^ 54) r w
  else if isHost a then s.hostFault ((a - 2 ^ 70) / 2 ^ 52)
  else none

/-! ## The export table (R371) -/

/-- What an entry exports. -/
structure Window where
  asid : Nat
  base : Nat
  length : Nat
  deriving DecidableEq, Repr

/-- Entry i of the export table, when it is valid and well formed and names this importer. -/
def State.exportEntry (s : State) (dev asid i : Nat) : Option Window :=
  let a := s.xtable + 32 * i
  if s.rd a 2 = dev && s.rd (a + 2) 2 = asid && s.rd (a + 6) 1 = 1 && s.rd (a + 7) 1 = 0 && s.rd (a + 24) 8 = 0 then
    let w : Window := { asid := s.rd (a + 4) 2, base := s.rd (a + 8) 8, length := s.rd (a + 16) 8 }
    if w.base % 4096 = 0 && w.length % 4096 = 0 && w.length ≤ 2 ^ 54 && dev < 1024 then some w else none
  else none

/-- The lowest-numbered entry for an importer. -/
def State.window (s : State) (dev asid : Nat) : Option Window :=
  (List.range 4096).findSome? fun i => s.exportEntry dev asid i

/-- A window's byte at this device as exporter: a fault for the importer, or a place. Migration and page faults hold the
access until the driver serves them. -/
def State.exportPlace (s : State) (who : Asker) (dev asid off : Nat) (r w : Bool) : Place :=
  match s.window dev asid with
  | none => .fault 10 2
  | some x =>
    if x.length ≤ off then .fault 8 3
    else
      let e := s.readAsid x.asid
      let va := x.base + off
      if s.awaited who x.asid (va / 4096) then .hold
      else if s.refusedTo who x.asid (va / 4096) then .fault 8 9
      else match s.translateNow e.root x.asid va with
      | .fault 7 _ => .hold
      | .fault c a => .fault c a
      | .leaf l =>
        if (r && !l.r) || (w && !l.w) then .fault 8 2
        else .spot { ua := l.phys va, key := s.pageKey e.key e.codeKey l, mt := l.mt, entry := some l, spans := [l.span] }

/-- The page that an access to a window waits for: hedge, ASID, page and AUX. -/
def State.exportMiss (s : State) (dev asid off : Nat) : Option (Nat × Nat × Nat × Nat) :=
  match s.window dev asid with
  | none => none
  | some x =>
    let e := s.readAsid x.asid
    match s.translateNow e.root x.asid (x.base + off) with
    | .fault 7 aux => some (e.hedge, x.asid, (x.base + off) / 4096, aux)
    | _ => some (e.hedge, x.asid, (x.base + off) / 4096, 1)

/-- Ask the exporter's driver for the page that an access to a window waits for (R371). -/
def State.askWindow (s : State) (who : Asker) (die dev asid off acc : Nat) : State :=
  match s.exportMiss dev asid off with
  | some (h, a, page, aux) =>
    if s.awaited who a page then s else s.notifyEngine who h die a page aux acc
  | none => s

/-- The driver's refusals for windows of this device have been told. -/
def State.toldOwn (s : State) : State :=
  { s with refusals := s.refusals.filter fun w => match w.who with
      | .peer d a _ => !(d == s.fabnum && a == s.ctx.asid)
      | _ => true }

/-- What stands against an access to a page of memory type 2, or its place where the page's device is this one: such a
page is served locally, through the window exported to the space itself (R124, R371). -/
def State.windowPage (s : State) (who : Asker) (asid : Nat) (e : TlbEntry) (va : Nat) (r w : Bool) : Option Place :=
  let off := e.pa + va % 2 ^ e.lg
  let dev := va / 2 ^ 54
  if dev = s.fabnum then
    some (match s.exportPlace who dev asid off r w with
      | .spot x =>
        let l := x.entry.getD e
        let up := va % 2 ^ e.lg - va % 4096
        .spot { x with mt := 2, spans := e.span :: x.spans
                       entry := some { e with asid := l.asid, page := va / 4096, lg := 12, mt := l.mt,
                                              pa := l.pa + ((s.window dev asid).map (·.base + off)).getD 0 % 2 ^ l.lg - va % 4096,
                                              sfa := e.sfa + up * 8 / (blkElems e.blk * fmtBits e.fmt) / 16,
                                              key := ((s.window dev asid).map fun y =>
                                                let z := s.readAsid y.asid; if l.x then z.codeKey else z.key) } }
      | p => p)
  else (s.peerFault dev asid off r w).map fun f => .fault f.1 f.2

/-- What stands against an access of an address space through a page outside device memory, or the place that such a page
leads to within this device (R371, R381). -/
def State.beyond (s : State) (who : Asker) (asid : Nat) (e : TlbEntry) (va : Nat) (r w : Bool) : Option Place :=
  match e.mt with
  | 1 => (s.hostFault asid).map fun f => .fault f.1 f.2
  | 2 => s.windowPage who asid e va r w
  | _ => none

/-- Who asks for a page of this device's own window on a part's behalf: accesses to one line ask together. -/
def State.ownAsker (s : State) (asid off : Nat) : Asker := .peer s.fabnum asid (off / 128)

end Sys2Proof.Machine
end

