-- ==== Sys2Proof/Machine/Ops.lean ====
section
/-! DEFINITION. The named operations over registers, lane results, transaction levels and traps: reading and writing
registers (R11 to R17, R47, R48), the system registers (R22 to R27), unwinding and aborting a transaction (R135, R141,
R270), ending a context (R209), and taking a trap (R205, R206) with its return (R207). -/

namespace Sys2Proof.Machine

/-! ## Gang registers (R15) -/

/-- Read g`i`; g0 reads zero. -/
def State.rg (s : State) (i : Nat) : Word64 := if i = 0 then 0 else s.me.g.getD i 0

/-- Write g`i`; a write to g0 is discarded. -/
def Part.setG (p : Part) (i : Nat) (x : Word64) : Part := if i = 0 then p else { p with g := p.g.setIfInBounds i x }
def State.setG (s : State) (i : Nat) (x : Word64) : State := { s with me := s.me.setG i x }

/-- The next word. -/
def State.advance (s : State) : State := { s with me := { s.me with pc := s.me.pc + 8 } }
def State.jump (s : State) (a : Word64) : State := { s with me := { s.me with pc := a } }

/-! ## Lane registers (R11, R14, R17, R48) -/

/-- The results in flight that the word in issue sees: not those of the other half of its pair (R43). -/
def Part.visible (p : Part) : List LaneResult := p.inflight.take (p.inflight.length - p.hide)

/-- One register of one lane, given what has landed and what is in flight: each write in flight is seen or not (R48). -/
def State.mixV (s : State) (key : Nat) (old : Word32) : List LaneResult → Nat → Word32
  | [], _ => old
  | r :: rs, n =>
    let old' := match lookupKey r.writes key with
      | some x => if Config.hazardNew (2 * s.tick + s.me.second.toNat) key n then x else old
      | none => old
    s.mixV key old' rs (n + 1)

def State.mixQ (s : State) (key : Nat) (old : Bool) : List LaneResult → Nat → Bool
  | [], _ => old
  | r :: rs, n =>
    let old' := match lookupKey r.preds key with
      | some x => if Config.hazardNew (2 * s.tick + s.me.second.toNat) (16384 + key) n then x else old
      | none => old
    s.mixQ key old' rs (n + 1)

/-- Read v`r` in lane `l`. -/
def State.rv (s : State) (r l : Nat) : Word32 := s.mixV (32 * r + l) (SMap.get 0 s.gang.v (32 * r + l)) s.me.visible 0

/-- Read the pair v`r`, v`r`+1 in lane `l`, low half first (R14). -/
def State.rvp (s : State) (r l : Nat) : Word64 := (s.rv (r + 1) l).append (s.rv r l)

/-- Read q`r` in lane `l`. -/
def State.rq (s : State) (r l : Nat) : Bool :=
  s.mixQ (32 * r + l) ((s.gang.q.getD r 0).getLsbD l) s.me.visible 0

/-- The lanes that are active in the word in issue (R8, R39). -/
def State.active (s : State) (g : Guard) : LaneMask :=
  if g.ge then s.me.act &&& maskOf fun l => s.rq g.gq.toNat l != g.gn else s.me.act

/-- The lanes present in the part (GMASK.LANES). -/
def State.present (s : State) : LaneMask := lanesOfSlices s.me.slices

/-- The present lanes of the word in issue for which a branch condition is formed (R69). -/
def State.cond (s : State) (g : Guard) (l : Nat) : Bool := s.rq g.gq.toNat l != g.gn

/-- A new lane result in flight (R47). -/
def State.emit (s : State) (writes : List (Nat × Word32)) (preds : List (Nat × Bool)) (flags : BitVec 6)
    (waits : Nat := 0) : State :=
  { s with
    me := { s.me with inflight := s.me.inflight ++ [{ id := s.nextId, writes := writes, preds := preds, flags := flags,
                                                      waits := waits }] }
    nextId := s.nextId + 1 }

/-- The mask of one lane. -/
def bitLane (l : Nat) : LaneMask := BitVec.ofNat 32 (2 ^ l)

/-- Apply a result that lands to the gang's registers and flags (R27, R47). DESIGN CHOICE (log 44): a result lands whole, so
that of two writes to one register in flight the one that lands last stands in every lane that both write; R48 lets each
lane keep either. -/
def Gang.land (g : Gang) (r : LaneResult) : Gang :=
  { g with
    v := r.writes.foldl (fun m (k, x) => SMap.put 0 m k x) g.v
    q := r.preds.foldl (fun q (k, b) =>
      q.setIfInBounds (k / 32) (q.getD (k / 32) 0 |> fun m => if b then m ||| bitLane (k % 32) else m &&& ~~~bitLane (k % 32)))
      g.q
    fflags := g.fflags ||| r.flags }

/-- One vector register per lane. -/
def writesV (d : Nat) (ls : List Nat) (f : Nat → Word32) : List (Nat × Word32) := ls.map fun l => (32 * d + l, f l)
/-- A register pair per lane. -/
def writesVP (d : Nat) (ls : List Nat) (f : Nat → Word64) : List (Nat × Word32) :=
  ls.flatMap fun l => [(32 * d + l, (f l).truncate 32), (32 * (d + 1) + l, (f l >>> 32).truncate 32)]
/-- One predicate per lane. -/
def writesQ (d : Nat) (ls : List Nat) (f : Nat → Bool) : List (Nat × Bool) := ls.map fun l => (32 * d + l, f l)

/-- A lane result of one vector register, and the next word. -/
def State.putV (s : State) (d : Nat) (ls : List Nat) (f : Nat → Word32 × BitVec 6) : State :=
  (s.emit (ls.map fun l => (32 * d + l, (f l).1)) [] (ls.foldl (fun a l => a ||| (f l).2) 0)).advance

/-- A lane result of a register pair, and the next word. -/
def State.putVP (s : State) (d : Nat) (ls : List Nat) (f : Nat → Word64 × BitVec 6) : State :=
  (s.emit (writesVP d ls fun l => (f l).1) [] (ls.foldl (fun a l => a ||| (f l).2) 0)).advance

/-- A lane result of a predicate, and the next word. -/
def State.putQ (s : State) (d : Nat) (ls : List Nat) (f : Nat → Bool × BitVec 6) : State :=
  (s.emit [] (ls.map fun l => (32 * d + l, (f l).1)) (ls.foldl (fun a l => a ||| (f l).2) 0)).advance

/-! ## System registers (R22 to R26) -/

/-- `x` placed at bit `n`. -/
def at' (n x : Nat) : Nat := x * 2 ^ n

/-- COREID of a gang on a core (R23). -/
def coreIdOf (g : Gang) (core : Nat) : Nat :=
  at' 8 (coreIdHigh core) + at' 6 (coreCol core / 4) + at' 4 g.quad + at' 1 g.slot

/-- PADK (R23). -/
def padkOf (c : Context) (w : Workgroup) : Nat :=
  at' 32 (c.padW * c.padH) + at' 28 c.padW + at' 24 c.padH + at' 20 w.px + at' 16 w.py + w.pidx

/-- CLASS (R23). -/
def classOf (c : Context) : Nat := at' 16 c.asid + at' 8 c.hedge + c.harvest.toNat

/-- XSTAT (R25). -/
def Part.xstat (p : Part) : Word64 :=
  BitVec.ofNat 64 (at' 23 p.serial.toNat + at' 20 p.consec.toNat + at' 8 p.xlevel.toNat + p.xcode.toNat)

/-- XDEPTH.ALT: bit k for level k + 1. -/
def altBits : List Level → Nat
  | [] => 0
  | l :: ls => at' ls.length l.alt.toNat + altBits ls

/-- Open levels; the innermost stands first in the list. -/
def Part.depth (p : Part) : Nat := p.levels.length
def Part.xdepth (p : Part) : Word64 := BitVec.ofNat 64 (at' 4 (altBits p.levels) + p.depth)

/-- FSTAT (R25). -/
def Part.fstat (p : Part) : Word64 :=
  BitVec.ofNat 64 (at' 8 p.deferred.length + at' 1 p.restarted.toNat + p.inFurrow.toNat)

/-- ALLOT (R26). -/
def allotOf (g : Gang) (w : Workgroup) : Nat :=
  at' 47 g.full.toNat + at' 45 w.cim.toNat + at' 40 w.ntiles + at' 10 w.scr + g.vblk

/-- GMASK (R23). -/
def Part.gmask (p : Part) : Word64 := BitVec.ofNat 64 (at' 32 p.slices.toNat + (lanesOfSlices p.slices).toNat)

/-- SHEAFN (R25). -/
def Gang.sheafn (g : Gang) : Word64 := BitVec.ofNat 64 (at' 32 g.shOpen + at' 16 g.shDone.toNat + g.shNext.toNat)

/-- TRAPINFO (R26). -/
def Part.trapinfo (p : Part) : Word64 := BitVec.ofNat 64 (at' 32 p.tiLanes.toNat + at' 8 p.tiAux.toNat + p.tiCode.toNat)

/-- The results in flight of the gang, those of the part in hand first. -/
def State.gangResults (s : State) : List LaneResult :=
  s.me.inflight ++ (s.parts.filter fun p => p.gang == s.me.gang).flatMap (·.inflight)

/-- FFLAGS with those flags in flight of any part of the gang that the read sees (R27, R84). -/
def State.fflagsSeen (s : State) : BitVec 6 :=
  (s.gangResults.zipIdx).foldl (fun a (r, i) => if Config.flagSeen s.tick i then a ||| r.flags else a) s.gang.fflags

/-- The value of a system register other than WID (R22 to R26). -/
def State.sysreg (s : State) (n : Nat) : Word64 :=
  match n with
  | 1 => s.me.gmask
  | 2 => BitVec.ofNat 64 (classOf s.ctx)
  | 3 => BitVec.ofNat 64 (coreIdOf s.gang s.here)
  | 4 => BitVec.ofNat 64 (padkOf s.ctx s.wg)
  | 5 => s.me.xstat
  | 6 => s.me.xdepth
  | 7 => s.me.fstat
  | 8 => s.gang.sheafn
  | 9 => s.fflagsSeen.zeroExtend 64
  | 10 => s.gang.fmode.zeroExtend 64
  | 11 => BitVec.ofNat 64 (allotOf s.gang s.wg)
  | 12 => BitVec.ofNat 64 (at' 32 s.gang.privLimit + s.gang.hwm)
  | 13 => BitVec.ofNat 64 s.me.stack.length
  | 14 => BitVec.ofNat 64 (at' 3 s.gang.tvAddr.toNat + s.gang.tvEn.toNat)
  | 15 => s.me.trapinfo
  | _ => 0

/-! ## Transaction levels (R135, R141, R270) -/

/-- Level k, counted from 1 at the outermost. -/
def Part.level (p : Part) (k : Nat) : Level := p.levels.getD (p.depth - k) default

/-- unwind(k): levels k and above go, with their deferred entries; g1 to g63, the return stacks and NDEF return to the
checkpoint of level k. -/
def Part.unwind (p : Part) (k : Nat) : Part :=
  let l := p.level k
  { p with levels := p.levels.drop (p.depth + 1 - k), g := l.g, stack := l.stack, deferred := p.deferred.take l.ndef,
           recording := none }

/-- hw_abort(code) without the release of the serial token (R141). -/
def Part.hwAbort (p : Part) (code : Nat) : Part :=
  if p.levels.isEmpty then { p with doomed := false }
  else
    let l := p.level 1
    { p.unwind 1 with
      xlevel := BitVec.ofNat 3 p.depth
      xcode := BitVec.ofNat 8 code
      consec := if code = 1 then (if p.consec.toNat < 6 then p.consec + 1 else 6) else if code = 7 then p.consec else 0
      pc := l.target
      lastStart := some l.start
      doomed := false
      got := []
      parked := []
      replay := none
      trap := none }

/-- Release the serial token and every hold of a part (R277). -/
def State.releaseToken (s : State) (p : Nat) : State :=
  { s.updPart p (fun x => { x with serial := false }) with
    hedges := s.hedges.map fun h => if h.token = some p then { h with token := none } else h
    holds := s.holds.filter fun x => x.part != p }

/-- The hardware aborts the whole transaction of the part in hand (R141). -/
def State.hwAbort (s : State) (code : Nat) : State :=
  let s1 := s.releaseToken s.me.id
  { s1 with me := { s1.me.hwAbort code with state := .ready, drain := false } }

/-- Every line of the read sets and kept read sets (R278, R280). -/
def Part.readLines (p : Part) : List ReadLine := p.levels.flatMap fun l => l.reads ++ l.kept

/-- A line that was read has been written since, or may have been (R272). -/
def State.stale (s : State) (ls : List ReadLine) : Bool := ls.any fun r => s.versionOf r.line != r.version

/-! ## Fault records and page faults (R208, R210, R232) -/

/-- The record slot of a part (R208). -/
def recordSlot (c : Context) (w : Workgroup) (g : Gang) (p : Part) : Word64 :=
  let members := c.padW * c.padH
  let place := w.pidx * members + w.py * c.padW + w.px
  let n := if g.handler then 8 * c.npad * members * c.ngang + 32 * place + g.index
    else 8 * (place * c.ngang + g.index) + lowestSlice p.slices
  c.trapArea + BitVec.ofNat 64 (64 * n)

/-- FLAGS of a record (R210). -/
def TrapRec.flags (t : TrapRec) : Nat := at' 6 t.replay.toNat + at' 5 t.aborted.toNat + at' 4 t.second.toNat + t.size

/-- The 64 bytes of a fault record (R210). -/
def recordBytes (c : Context) (w : Workgroup) (g : Gang) (p : Part) (t : TrapRec) (resume s62 s63 : Word64) : List Byte :=
  leBytes 1 t.code ++ leBytes 1 t.aux ++ leBytes 1 t.acc ++ leBytes 1 t.flags ++ leBytes 4 t.lanes.toNat ++
  leBytes 8 t.pc.toNat ++ leBytes 8 t.addr.toNat ++ leBytes 2 (coreIdOf g w.core) ++ leBytes 1 (w.px * 16 + w.py) ++
  leBytes 1 p.slices.toNat ++ leBytes 2 c.asid ++ leBytes 1 c.hedge ++ leBytes 1 c.harvest.toNat ++
  leBytes 8 p.xstat.toNat ++ leBytes 8 resume.toNat ++ leBytes 8 s62.toNat ++ leBytes 8 s63.toNat

/-! ## The end of a context (R209) -/

/-- Everything that the gangs of a context had started and that has not been accepted is discarded, its parts exit and
its workgroups give back what they hold. Writes and atomics that their homes have accepted complete there. A part that still
owes its record keeps its trap for it. -/
def State.discardCtx (s : State) (c : Nat) : State :=
  let ps := s.partsOfCtx c
  let ws := (s.wgsOfCtx c).map (·.id)
  let mine (g : Nat) : Bool := s.ctxOfGang g == c
  let dropped (j : CopyJob) : Bool := j.context == c && (match j.owner with | .gang .. => true | .queue .. => false)
  let dead (o : MatOp) : Bool := mine o.gang
  let gone := (s.copies.filter dropped).map (·.id) ++
    (s.allCores.flatMap fun k => ((k.matq ++ k.running.toList).filter dead).map (·.id)) ++
    ((s.allGangs.filter fun g => mine g.id).flatMap fun g => g.stores.map (·.id))
  let kept (r : Req) : Bool := !ps.contains r.part || (match r.kind with | .write | .atomic .. => true | _ => false)
  let wide (r : Req) : Req := if ps.contains r.part then { r with scope := max r.scope 3 } else r
  let leaders := (s.allCores.filter fun k => k.running.any dead).map fun k => k.id - 1
  let s1 : State := { s with
    hedges := s.hedges.map fun h =>
      { h with token := if (h.token.map ps.contains).getD false then none else h.token
               waiters := h.waiters.filter fun x => !ps.contains x.2
               restarts := h.restarts.filter fun b => b.context != c }
    holds := s.holds.filter fun x => !ps.contains x.part
    messages := s.messages.filter fun m => m.context != c
    copies := s.copies.filter fun j => !dropped j
    owned := s.owned.filter fun o => !gone.contains o.1
    ownedTiles := s.ownedTiles.filter fun o => !gone.contains o.1
    engineWaits := s.engineWaits.filter fun w => match w.who with
      | .copy n => !gone.contains n
      | .context n => n != c
      | _ => true
    ingress := (s.ingress.filter kept).map wide
    spills := s.spills.filter fun x => !ws.contains x.workgroup
    saves := s.saves.filter fun x => x.context != c
    drove := { s.drove with queue := s.drove.queue.filter fun t => t.context != c }
    misses := s.misses.map fun m => { m with waiters := (m.waiters.filter kept).map wide } }
  let s2 := (s1.allCores.map (·.id)).foldl (fun s k => s.updCore (k - 1) fun x =>
    { x with matq := x.matq.filter fun o => !dead o
             running := x.running.filter fun o => !dead o
             slaved := x.slaved.filter fun l => !leaders.contains l
             acquires := x.acquires.filter fun a => !mine a.gang
             mailbox := x.mailbox.filter fun m => m.context != c }) s1
  let s3 := s2.updParts (fun p => ps.contains p.id) fun p =>
    { p with state := .exited, levels := [], pending := [], inflight := [], parked := [], deferred := [], recording := none, sleep := none,
             replay := none, got := [], trap := if p.ending then p.trap else none, serial := false, doomed := false, drain := false, fending := false, acks := [] }
  -- a buffer whose bale or save has been written is no longer the workgroup's
  let held (w : Workgroup) : Bool := match w.state with
    | .evicted => s.spills.any fun x => x.workgroup == w.id && x.left.contains (0, none)
    | .saved => s.saves.any fun v => v.context == c && v.pidx == w.pidx && !v.done
    | _ => true
  let zs := (s.wgsOfCtx c).filterMap fun w =>
    if w.scr ≠ 0 && held w then some { core := w.core, base := w.sbase, length := w.scr : Zeroing }
    else none
  let s4 := s3.updGangs (fun g => mine g.id) fun g => { g with stores := [], sheaves := [] }
  { s4.updWgs (fun w => ws.contains w.id) fun w =>
      { w with state := .released, offer := none, tiles := [], banks := [], scr := 0, ntiles := 0, cim := 0 } with
    zeroing := s4.zeroing ++ zs }

/-- The instruction words under a key tag leave the caches and the merged-fill buffers. -/
def State.dropWords (s : State) (tag : Nat) : State :=
  (s.allCores.map (·.id)).foldl (fun s k => s.updCore (k - 1) fun x =>
    { x with icache := x.icache.filter fun e => e.1 / 2 ^ 64 != tag }) { s with fills := s.fills.filter (·.tag != tag) }

/-- The banks granted to a hedge on a die (R219). -/
def grantedBanks (h : Hedge) (die : Nat) : List Nat :=
  (List.range 48).filter fun b => (if die = 0 then h.csp0 else h.csp1).getLsbD b

/-- The banks granted to a hedge read zero (R394). -/
def State.zeroBanks (s : State) (h : Hedge) : State :=
  let addrs := (grantedBanks h 0).map (cspAddr 0 · 0) ++ (grantedBanks h 1).map (cspAddr 1 · 0)
  addrs.foldl (fun s a => s.zeroRange a (2 ^ 20)) s

/-- The lines of a hedge's G work are written back and leave the ways that it held, whose next fill is another's (R339,
R394). -/
def State.dropWays (s : State) (h : Nat) : State :=
  let s1 := (s.sectors.filter fun e => e.2.hedge == h && !e.2.harvest).foldl (fun s e => s.flushSector e.1 e.2.line true) s
  { s1 with resident := s1.resident.filter fun l => l.hedge != h || l.harvest }

/-- A hedge without a live context is live no longer: its banks and ways pass on (R386, R394), and its entry stands as it
was read. -/
def State.dropHedges (s : State) : State :=
  let gone := s.hedges.filter fun h => !(s.allCtxs.any fun c => c.live && c.hedge == h.n)
  let off (s : State) (h : Hedge) : State :=
    { s with hedges := s.hedges.filter (·.n != h.n)
             lastHedges := s.lastHedges.filter (·.n != h.n) ++ [{ h with token := none, waiters := [], restarts := [] }] }
  gone.foldl (fun s h => ((off s h).zeroBanks h).dropWays h.n) s

/-- What passes on when a context has ended: the text words of its code key, and what its hedge held if it was the last
(R394). -/
def State.passOn (s : State) (c : Nat) : State := (s.dropWords (s.keyTag (s.getCtx c).codeKey)).dropHedges

/-- What a launch wrote is performed at the widest scope before it completes (R249, R255). -/
def State.releaseRan (s : State) (c : Nat) : State := (s.getCtx c).ran.foldl (fun s k => s.release k 2) s

/-- The end of a context, reported to its queue engine; the first report stands (R209). -/
def State.endContext (s : State) (c status aux : Nat) (pc slot : Word64) : State :=
  let s1 := s.updCtx c fun x =>
    { x with live := false
             report := match x.report with
               | some r => some r
               | none => some { status := status, aux := aux, pc := pc, slot := slot } }
  ((s1.discardCtx c).releaseRan c).passOn c

/-! ## What keeps an access at its home waiting (R256, R276) -/

/-- A line that another party holds: by the serial token's holder (R276). -/
def State.heldByOther (s : State) (p : Nat) (a n : Nat) (write : Bool) : Option Nat :=
  (s.holds.find? fun h => h.part != p && (linesOf a n).contains h.line && (write || h.exclusive)).map (·.part)

/-- An H holder yields to a G write that meets its hold (R276). -/
def State.yieldHolder (s : State) (harvest : Bool) (holder : Nat) : State :=
  if !harvest && (s.getCtx (s.ctxOfPart (s.getPart holder))).harvest then
    (s.releaseToken holder).updPart holder fun p =>
      { p.hwAbort 1 with state := .ready, consec := 6, drain := !p.inflight.isEmpty }
  else s

/-- A G write that an engine or an outside party makes meets the hold of an H holder (R276). -/
def State.yieldAt (s : State) (harvest : Bool) (a n : Nat) : State :=
  match s.heldByOther 0 a n true with
  | some p => s.yieldHolder harvest p
  | none => s

/-- An engine owns a unit that the access touches (R256). -/
def State.ownedUnit (s : State) (me : Nat) (a n : Nat) : Bool :=
  s.owned.any fun o => o.1 != me && (linesOf a n).contains o.2

/-! ## Taking a trap (R204 to R206) -/

/-- Is the part in its handler (R206)? -/
def Part.inHandler (p : Part) : Bool := p.stack.any fun f => match f with | .trap _ => true | .ret _ => false

/-- What the write of a record meets at the part's slot (R206, R209). -/
def State.slotPlace (s : State) (slot : Nat) : Place :=
  match s.translateNow s.ctx.root s.ctx.asid slot with
  | .fault c aux => .fault c aux
  | .leaf e =>
    if !e.w then .fault 8 2
    else (s.beyond (s.ownAsker s.ctx.asid (e.pa + slot % 2 ^ e.lg)) s.ctx.asid e slot false true).getD
      (.spot { ua := e.phys slot, key := s.pageKey s.ctx.key s.ctx.codeKey e, mt := e.mt, entry := some e, spans := [e.span] })

/-- Ask the exporter's driver for the page of a slot that lies in this device's own window. -/
def State.askSlot (s : State) (slot : Nat) : State :=
  match s.translateNow s.ctx.root s.ctx.asid slot with
  | .leaf e =>
    let off := e.pa + slot % 2 ^ e.lg
    s.askWindow (s.ownAsker s.ctx.asid off) (coreDie s.here) s.fabnum s.ctx.asid off 2
  | _ => s

/-- A trap's record goes to its slot with `k`, ends without a record in `bad`, or waits for the slot's page (R206, R209). One
that ends its context is written at once, and waits as any write for a hold or an engine (R256, R275). -/
def State.withSlot (s : State) (t : TrapRec) (ending : Bool) (bad : State → State) (k : State → Word64 → Spot → State) :
    State :=
  let slot := recordSlot s.ctx s.wg s.gang s.me
  let wait (s : State) : State := { s with me := { s.me with trap := some t, state := .parked .trap, ending := ending } }
  match s.slotPlace slot.toNat with
  | .spot x =>
    let s1 := if ending then s.yieldAt s.ctx.harvest x.ua 64 else s
    if ending && ((s1.heldByOther s.me.id x.ua 64 true).isSome || s1.ownedUnit 0 x.ua 64) then wait s1 else k s1 slot x
  | .fault 7 aux => wait (s.notify s.ctx.hedge s.here s.ctx.asid (slot.toNat / 4096) aux 2)
  | .hold => wait (s.askSlot slot.toNat)
  | _ => bad s.toldOwn

/-- The context of the part in hand ends without a record (R209). -/
def State.endBare (s : State) (t : TrapRec) : State :=
  ({ s with me := { s.me with ending := false } } : State).endContext s.ctx.id t.code t.aux t.pc 0

/-- The context of the part in hand ends (R209): its record is written if its slot can be reached; a page fault on the
slot waits for the driver. -/
def State.endHere (s : State) (t : TrapRec) (resume : Word64) : State :=
  s.withSlot t true (·.endBare t) fun s slot x =>
    let bytes := recordBytes s.ctx s.wg s.gang s.me t resume (s.rg 62) (s.rg 63)
    let s1 : State := { s with me := { s.me with ending := false } }
    ((if isDoorbell x.ua then s1 else if x.mt = 0 then s1.homeWriteAll x.key x.ua bytes else (s1.sendPeer x.ua s.ctx.harvest x.critical).homeWrite x.key x.ua bytes)
      ).endContext s.ctx.id t.code t.aux t.pc slot

/-- Handler entry (R206). The record is a store of the part with release order at device scope. -/
def State.enterHandler (s : State) (t : TrapRec) (resume : Word64) : State :=
  s.withSlot t false (·.endBare t) fun s slot x =>
    let bytes := recordBytes s.ctx s.wg s.gang s.me t resume (s.rg 62) (s.rg 63)
    let req : Req :=
      { id := s.nextId, part := s.me.id, kind := .write, addr := x.ua, size := 64, key := x.key,
        scope := if x.mt = 0 then 3 else 4, rel := true, harvest := s.ctx.harvest, hedge := s.ctx.hedge,
        critical := x.critical, data := leNat bytes, spans := x.spans }
    { s with
      nextId := s.nextId + 1
      me :=
        { ((s.me.setG 62 (BitVec.ofNat 64 t.code)).setG 63 slot) with
          state := .ready, drain := false, trap := none
          tiCode := BitVec.ofNat 8 t.code, tiAux := BitVec.ofNat 8 t.aux, tiLanes := t.lanes
          stack := .trap slot :: s.me.stack
          pending := s.me.pending ++ [req]
          pc := BitVec.ofNat 64 (8 * s.gang.tvAddr.toNat) } }

/-- Delivery of a trap whose part has no lane result outstanding (R205): the one operation that takes an exception. A
doomed or stale transaction takes the conflict abort in its place (R260, R274). -/
def State.deliver (s : State) (t : TrapRec) : State :=
  if !s.me.levels.isEmpty && (s.me.doomed || (!s.me.serial && s.stale s.me.readLines)) then
    s.hwAbort 1
  else
    let aborted := !s.me.levels.isEmpty
    let s1 := if aborted then s.hwAbort (0x40 + t.code) else s
    let resume := if aborted || t.aborted then s1.me.pc else if 0x20 ≤ t.code then t.pc + 8 else t.pc
    let t1 := { t with aborted := t.aborted || aborted }
    if s1.me.ending || t.code = 0x0B || t.code = 0x0E || !s.gang.tvEn || s1.me.inHandler || s1.me.stack.length = 255 then
      s1.endHere t1 resume
    else s1.enterHandler t1 resume

/-- A trap is raised: it is held while lanes that parked at earlier words wait for their replay (R204), it waits for the
part's lane results, and then it is delivered. -/
def State.raise (s : State) (t : TrapRec) : State :=
  let t1 := { t with pc := s.me.pc, second := t.second || s.me.second, replay := t.replay || s.me.replay.isSome }
  let s1 := { s with me := { s.me with replay := none, recording := if s.me.replay.isSome then none else s.me.recording } }
  if !s.me.parked.isEmpty then { s1 with me := { s1.me with trap := some t1, state := .faultParked } }
  else if !s.me.inflight.isEmpty then { s1 with me := { s1.me with trap := some t1, state := .parked .trap } }
  else s1.deliver t1

/-- ILLEGAL and the other traps without an access; LANES is GMASK.LANES (log 19). AUX bit 7 names the second half of a
pair (R51). -/
def State.trapAux (s : State) (code aux : Nat) : State :=
  s.raise { code := code, lanes := s.present
            aux := if s.me.second && (code == 1 || code == 2 || code == 3) then aux + 128 else aux }

/-- ILLEGAL with AUX 0x07: a condition that an instruction's description names. -/
def State.illegal (s : State) : State := s.trapAux 1 7

/-! ## Waiting for lane results (R49) -/

/-- Run `k` once every lane result of the part has landed; until then the part is parked at the word. -/
def State.afterResults (s : State) (k : State → State) : State :=
  if s.me.inflight.isEmpty then k s else { s with me := { s.me with drain := true } }

/-- Hold the part at issue; the word issues again later (R197). -/
def State.stall (s : State) (why : Stall) : State := { s with me := { s.me with state := .issued why } }

/-- A word that is held waits at its instruction: the part is Parked, not held at issue (R197). -/
def State.parkHeld (s : State) : State :=
  match s.me.state with
  | .issued _ => { s with me := { s.me with state := .parked .effect } }
  | _ => s

/-- The word of the part goes on when it can. -/
def PartState.held : PartState → Bool
  | .issued _ | .parked .effect => true
  | _ => false

/-! ## Sleep and wake (R278) -/

/-- Wake a sleeper: unwind(1), XSTAT and the restart at start(1). -/
def Part.wake (p : Part) : Part :=
  { p.unwind 1 with state := .ready, sleep := none, xcode := 7, xlevel := 1, pc := (p.level 1).start, doomed := false }

end Sys2Proof.Machine
end

