-- ==== Sys2Proof/Machine/Operands.lean ====
section
/-! DEFINITION. What each native word names: its registers, tiles and banks, its issue class (R41) and its maskable
feature (R52). On these rest the checks of R50 that need no other state: MASKED, ALLOT and UNCOVERED, and the pair
checks of R42. -/

namespace Sys2Proof

/-- The issue classes (R41). -/
inductive IssueClass
  | control | gang | integer | floating | crossLane | memory | ordering | waiting | engine | matrix
  deriving DecidableEq, Repr

/-- What a word names. Registers are given with the length of their group. -/
structure Names where
  vd : List (Nat × Nat) := []
  vs : List (Nat × Nat) := []
  gd : List Nat := []
  gs : List Nat := []
  qd : List Nat := []
  tl : List (Nat × Nat) := []
  cb : List Nat := []
  deriving DecidableEq, Repr

/-- Registers of a kind (R14, R35). -/
def Kind.width (k : Kind) : Nat := match k with | .vp => 2 | .vq => 4 | _ => 1

def namesV (k : Kind) (x : Field) : List (Nat × Nat) :=
  match k with
  | .v | .vp | .vq => [(x.toNat, k.width)]
  | _ => []

/-- A, B and C of a V3 or V4 word: B is a gang register under GB (R36). -/
def FV3.names (o : FV3) (d a b c : Kind) : Names :=
  { vd := namesV d o.d
    vs := namesV a o.a ++ (if o.gb then [] else namesV b o.b) ++ namesV c o.c
    gs := (if a = .gr then [o.a.toNat] else []) ++ (if o.gb then [o.b.toNat] else [])
    qd := if d = .qp then [o.d.toNat] else [] }

/-- A lane word of the width of its type. -/
def FV3.namesW (o : FV3) : Names := o.names (kindW o.ty) (kindW o.ty) (kindW o.ty) .none

def FVI.names (o : FVI) (d : Kind) : Names :=
  { vd := namesV d o.d, vs := namesV (kindW o.ty) o.a, qd := if d = .qp then [o.d.toNat] else [] }

def FG.names (o : FG) (c : Bool) : Names :=
  { gd := [o.d.toNat], gs := [o.a.toNat, o.b.toNat] ++ if c then [o.c.toNat] else [] }

def FGI.names (o : FGI) : Names := { gd := [o.d.toNat], gs := [o.a.toNat] }

/-- An M word: the address register, the index by IDX, and D as destination or as data. -/
def FM.names (o : FM) (dst src : Kind) : Names :=
  { vd := namesV dst o.d, vs := namesV src o.d ++ namesV (kindIdx o.idx) o.b, gs := [o.a.toNat] }

/-- The register that takes an atomic's old value (R125). -/
def kindOld (o : FM) : Kind := if o.size = 3 then .vp else .v

/-- What a native word names. -/
def Instr.names : Instr → Names
  | .jt o => { gs := [o.a.toNat, o.b.toNat, o.c.toNat] }
  | .jtv o => { vs := [(o.a.toNat, 1)], gs := [o.b.toNat, o.c.toNat] }
  | .calli o | .regang o => { gs := [o.a.toNat] }
  | .brg o => { gs := [o.d.toNat] }
  | .elect o => { qd := [o.d.toNat], gd := [o.a.toNat] }
  | .maskrd o => { qd := [o.d.toNat], gs := [o.a.toNat] }
  | .maskwr o => { gd := [o.d.toNat] }
  | .sread o => if o.a = 0 then { vd := [(o.d.toNat, 2)] } else { gd := [o.d.toNat] }
  | .swriteFflags o | .swriteFmode o | .swritePrivhwm o | .swriteTrapvec o | .swriteReadOnly o => { gs := [o.a.toNat] }
  | .gmovi o => { gd := [o.d.toNat] }
  | .gmovh o => { gd := [o.d.toNat], gs := [o.d.toNat] }
  | .glea o | .gsel o => o.names true
  | .gset o | .gadd o | .gsub o | .gmul o | .gmulh o | .gdiv o | .grem o | .gand o | .gor o | .gxor o | .gshl o
  | .gshr o | .gsar o | .gmin o | .gmax o => o.names false
  | .gaddImm o | .gsubImm o | .gmulImm o | .gmulhImm o | .gdivImm o | .gremImm o | .gandImm o | .gorImm o | .gxorImm o
  | .gshlImm o | .gshrImm o | .gsarImm o | .gminImm o | .gmaxImm o => o.names
  | .iadd o | .isub o | .imul o | .iand o | .ior o | .ixor o | .imin o | .imax o => o.namesW
  | .imulh o | .ibfx o | .fadd o | .fsub o | .fmul o | .fmin o | .fmax o | .hadd2 o | .hmul2 o | .qunpk o =>
    o.names .v .v .v .none
  | .ibfi o | .qpack o => { o.names .v .v .v .none with vs := (o.names .v .v .v .none).vs ++ [(o.d.toNat, 1)] }
  | .imad o => let w := if bits o.sub.toNat 0 0 = 1 then Kind.vp else .v; o.names w .v .v w
  | .ishl o | .ishr o | .isar o => o.names (kindW o.ty) (kindW o.ty) .v .none
  | .iabs o | .mov o => o.names (kindW o.ty) (kindW o.ty) .none .none
  | .iclz o | .ipopc o => o.names .v (kindW o.ty) .none .none
  | .iaddImm o | .isubImm o | .imulImm o | .iandImm o | .iorImm o | .ixorImm o | .ishlImm o | .ishrImm o | .isarImm o
  | .iminImm o | .imaxImm o => o.names (kindW o.ty)
  | .isetImm o => o.names .qp
  | .iset o => o.names .qp (kindW o.ty) (kindW o.ty) .none
  | .movi o => { vd := [(o.d.toNat, 1)] }
  | .movg o => o.names (kindW o.ty) .gr .none .none
  | .sel o => o.namesW
  | .qop o => o.names .qp .none .none .none
  | .qmov o =>
    o.names (if o.sub = 2 then .v else .qp) (if o.sub = 1 then .v else .none) .none .none
  | .ffma o | .hfma2 o | .dp4 o | .dp8 o => o.names .v .v .v .v
  | .fset o => o.names .qp .v .v .none
  | .fclass o | .frnd o | .rcp o | .rsq o | .sqrt o | .exp2 o | .log2 o | .sin o | .cos o | .tanh o =>
    o.names .v .v .none .none
  | .cvt o => o.names (kindW o.ty) (kindW (BitVec.ofNat 4 o.c.toNat)) .none .none
  | .lperm o => o.names (kindW o.ty) (kindW o.ty) (if o.sub = 4 then .none else .v) .none
  | .bcast o => o.names (kindW o.ty) (kindW o.ty) .v .none
  | .qfold o => o.names (if o.sub.toNat ≤ 2 then .qp else .v) .none .none .none
  | .redx o | .scanx o => o.names .v .v .none .none
  | .ld o | .rld o => o.names (kindSize o.size) .none
  | .st o | .rst o => o.names .none (kindSize o.size)
  | .ldd o => o.names (kindCount o.mq) .none
  | .stq o => o.names .none (kindCount o.mq)
  | .pf o => o.names .none .none
  | .rat o | .atom o => o.names (kindOld o) (kindAtom o)
  | .red o => o.names .none (kindAtom o)
  | .clean o | .inval o | .icinv o => { gs := [o.a.toNat, o.b.toNat] }
  | .xstat o => { gd := [o.d.toNat] }
  | .waitw o => o.names .none (if o.size = 3 then .vp else .v)
  | .stinit o | .stexp o | .stwait o => { gs := [o.a.toNat, o.b.toNat] }
  | .starr o => { gd := [o.d.toNat], gs := [o.a.toNat, o.b.toNat] }
  | .copy o => { qd := [o.d.toNat], gs := [o.a.toNat, o.b.toNat] }
  | .msgsend o =>
    { qd := [o.d.toNat], gs := [o.a.toNat, o.c.toNat] ++ (List.range 8).map (· + o.b.toNat) }
  | .launch o => { qd := [o.d.toNat], gs := [o.a.toNat, o.b.toNat] }
  | .dturn o => { qd := [o.d.toNat] }
  | .dstat o => { gd := [o.d.toNat] }
  | .tld o | .tst o => { gs := [o.a.toNat, o.b.toNat], tl := [(o.d.toNat, 1)] }
  | .tzero o => { tl := [(o.d.toNat, 1)] }
  | .tmov o => { tl := [(o.d.toNat, 1), (o.a.toNat, 1)] }
  | .trd o => { vd := [(o.d.toNat, if bits o.qual.toNat 10 10 = 1 then 2 else 1)], tl := [(o.a.toNat, 1)] }
  | .twr o => { vs := [(o.d.toNat, if bits o.qual.toNat 10 10 = 1 then 2 else 1)], tl := [(o.a.toNat, 1)] }
  | .cimld o => { tl := [(o.a.toNat, if bits o.qual.toNat 3 3 = 1 then 4 else 1)], cb := [o.d.toNat] }
  | .cimsel o => { cb := if bits o.qual.toNat 0 0 = 1 then [] else [o.d.toNat] }
  | .mma o =>
    { tl := [(o.d.toNat, 2), (o.a.toNat, if bits o.qual.toNat 9 9 = 1 then 4 else 1)], cb := [o.b.toNat] }
  | .mmas o =>
    { tl := [(o.d.toNat, 1), (o.a.toNat, if bits o.qual.toNat 9 9 = 1 then 4 else 1)], cb := [o.b.toNat] }
  | .sheaf o => { gd := [o.d.toNat], gs := [o.a.toNat] }
  | .mwait o => { gs := [o.a.toNat, o.b.toNat] }
  | _ => {}

/-- The opcode of a native word (R40), which its encoding holds in bits 63:56. -/
def Instr.opcode (i : Instr) : Nat := encodeInstr i / 2 ^ 56

/-- The issue class of a native word, by its opcode (R41). -/
def classOfOp (op : Nat) : IssueClass :=
  if op < 0x14 then .control else if op < 0x40 then .gang else if op < 0x70 then .integer
  else if op < 0x8C then .floating else if op < 0xA0 then .crossLane else if op < 0xAA then .memory
  else if op < 0xB0 then .ordering else if op < 0xC0 then .waiting else if op < 0xD0 then .engine else .matrix

def Instr.issueClass (i : Instr) : IssueClass := classOfOp i.opcode

/-- DEFER of an M word (R38). -/
def Instr.defers : Instr → Bool
  | .st o | .red o | .rst o => o.defer
  | _ => false

/-- NOP and LPAD, which are no convergence points (R68). -/
def Instr.transparent : Instr → Bool
  | .nop _ | .lpad _ => true
  | _ => false

/-- A stop point by its class or DEFER (R202). -/
def Instr.stops (i : Instr) : Bool :=
  !(i.issueClass == .integer || i.issueClass == .floating || i.issueClass == .memory || i.transparent) || i.defers

/-- The maskable feature of a word (R52). DEDUCED (log 49): WAITW with space .c is masked with the other words of the chip
scratchpad, which the table names whole, though a wait is never masked in itself. -/
def Instr.feature : Instr → Option Nat
  | .rld o | .rst o | .rat o => let _ := o; some 1
  | .atom o | .red o => if o.scope = 4 then some 2 else if o.space = 3 then some 3 else none
  | .ld o | .st o | .pf o | .clean o | .inval o | .waitw o => if o.space = 3 then some 3 else none
  | .launch _ => some 4
  | .msgsend _ => some 5
  | .dturn _ | .dstat _ => some 6
  | .icinv _ => some 7
  | .copy _ => some 8
  | .tld _ | .tst _ | .tzero _ | .tmov _ | .trd _ | .twr _ | .cimld _ | .cimsel _ | .mma _ | .mmas _ | .sheaf _
  | .mwait _ => some 0
  | _ => none

/-- The words that an H part may issue outside a furrow (R335). -/
def Instr.bare : Instr → Bool
  | .fbegin _ | .exit _ | .br _ | .brg _ | .jt _ | .jtv _ | .nop _ | .lpad _ => true
  | _ => false

end Sys2Proof

namespace Sys2Proof.Machine

/-! ## The checks of R50 that depend on the context -/

/-- MASKED (step 4). -/
def State.masked (s : State) (i : Instr) : Option Nat :=
  match i.feature with
  | some f => if s.ctx.mask.getLsbD f then some f else none
  | none => none

/-- ALLOT (step 5, R11, R20, R167, R337): the AUX of the first name beyond the allotment. -/
def State.unallotted (s : State) (i : Instr) : Option Nat :=
  let n := i.names
  if (n.vd ++ n.vs).any fun r => 32 * s.gang.vblk < r.1 + r.2 then some 1
  else if n.tl.any fun t => s.wg.ntiles < t.1 + t.2 then some 2
  else if n.cb.any fun c => !s.wg.cim.getLsbD c then some 3
  else if s.ctx.harvest && (n.gd ++ n.gs).any fun g => 48 ≤ g then some 4
  else none

/-- UNCOVERED (step 6, R335). -/
def State.uncovered (s : State) (i : Instr) : Bool := s.ctx.harvest && !s.me.inFurrow && !i.bare

/-- The first of the checks that fails, as a code with its AUX. -/
def State.contextTrap (s : State) (i : Instr) : Option (Nat × Nat) :=
  match s.masked i with
  | some f => some (3, f)
  | none =>
    match s.unallotted i with
    | some a => some (4, a)
    | none => if s.uncovered i then some (0x0E, i.opcode) else none

/-- What every native word does first: the machine issues words only from a part, and the checks of R50 come before
the effect. -/
def checked (i : Instr) (s : State) (k : State → State) : Host.Outcome State Fault Refusal :=
  if s.me.id = 0 then .fault .noPart
  else match s.contextTrap i with
    | some (code, aux) => .next (s.trapAux code aux)
    | none => .next (k s)

/-! ## Pairs (R42) -/

/-- The combinations of classes that pair. -/
def pairable (a b : IssueClass) : Bool :=
  match a, b with
  | .integer, .floating | .floating, .integer | .integer, .memory | .memory, .integer | .floating, .memory
  | .memory, .floating | .gang, .integer | .integer, .gang | .gang, .floating | .floating, .gang => true
  | _, _ => false

/-- Control, Cross-lane, Ordering, Waiting, Engine and Matrix words never pair. -/
def neverPairs (c : IssueClass) : Bool :=
  match c with
  | .gang | .integer | .floating | .memory => false
  | _ => true

/-- The registers of a list of groups. -/
def expandRegs (rs : List (Nat × Nat)) : List Nat := rs.flatMap fun r => (List.range r.2).map (· + r.1)

/-- The vector registers that a word reads; an operand named twice is read twice. -/
def readRegs (i : Instr) : List Nat := expandRegs i.names.vs

/-- More than two reads in a bank (R42 condition 4). -/
def bankOverflow (a b : Instr) : Bool :=
  (List.range 4).any fun k => 2 < ((readRegs a ++ readRegs b).filter fun r => r % 4 == k).length

/-- A shared destination (R42 condition 5). -/
def sharedDest (a b : Instr) : Bool :=
  (expandRegs a.names.vd).any (expandRegs b.names.vd).contains ||
  (a.names.gd.filter (· != 0)).any b.names.gd.contains || a.names.qd.any b.names.qd.contains

/-- The pair check (R42, R51): the lowest AUX among the conditions that the pair breaks, with bit 7 for the second
half (log 20). -/
def pairTrap (a b : Decoded) : Option Nat :=
  let ca := a.instr.issueClass; let cb := b.instr.issueClass
  if !pairable ca cb then some (if neverPairs ca then 0x11 else 0x91)
  else if b.pair then some 0x92
  else if bankOverflow a.instr b.instr then some 0x93
  else if sharedDest a.instr b.instr then some 0x94
  else if a.mark then some 0x15
  else none

/-- The AUX of a word that decodes to an instruction whose own meaning is a fault in its bits (R22, R40, R50): in a pair it
is taken before the checks of R42. -/
def bitFault : Instr → Option Nat
  | .unassignedOpcode _ => some 1
  | .swriteReadOnly o => if o.d.toNat < 16 then none else some 3
  | _ => none

end Sys2Proof.Machine

namespace Sys2Proof

/-- Has the instruction a native word (R32)? -/
def Instr.isNative (i : Instr) : Bool := encodeInstr i != 0 || match i with | .unassignedOpcode _ => true | _ => false

/-- A step that has no word: neither a native word nor a script word stands for it (95_what_each_step_holds.md). -/
def Instr.isEvent (i : Instr) : Bool := !i.isNative && (encodeScript i).isNone

end Sys2Proof
end

