-- ==== Sys2Proof/Machine/Fetch.lean ====
section
/-! DEFINITION. Translation for a part through its core's TLB (R229), page-fault parking (R118, R201, R231), and the
fetch of words under the text-page rules (R227). -/

namespace Sys2Proof.Machine

/-- A translation as a part meets it: held by the TLB, still to be walked, or known to fault. -/
inductive Xlate
  | hit (e : TlbEntry)
  | miss
  | fault (code aux : Nat)
  deriving DecidableEq, Repr, Inhabited

/-- Translate a virtual address for the part in hand (R216, R229). -/
def State.xlate (s : State) (va : Nat) : Xlate :=
  if 2 ^ 57 ≤ va then .fault 8 3
  else match s.core.tlbFind s.gang.quad s.ctx.asid va with
    | some e => .hit e
    | none =>
      match s.walkFaults.find? fun f => f.core == s.here && f.asid == s.ctx.asid && f.page == va / 4096 with
      | some f => .fault f.code f.aux
      | none => .miss

/-- Queue a walk, merged with one for the same page of the same sector; a full queue leaves the miss at the core
(R229). -/
def State.startWalk (s : State) (va : Nat) : State :=
  let sec := coreSector s.here
  let page := va / 4096
  if s.walks.any fun w => w.sector == sec && w.asid == s.ctx.asid && w.page == page then
    { s with
      walks := updWhere (fun w => w.sector == sec && w.asid == s.ctx.asid && w.page == page)
        (fun w => { w with quads := distinct (w.quads ++ [4 * s.here + s.gang.quad]) }) s.walks }
  else if 256 ≤ (s.walks.filter fun w => w.sector == sec).length then s
  else
    { s with
      walks := s.walks ++ [{ sector := sec, asid := s.ctx.asid, root := s.ctx.root, hedge := s.ctx.hedge, page := page,
                             quads := [4 * s.here + s.gang.quad] }] }

/-- A fault that a walk left has been taken: the next access walks again. -/
def State.clearWalkFault (s : State) (va : Nat) : State :=
  { s with walkFaults := s.walkFaults.filter fun f =>
      !(f.core == s.here && f.asid == s.ctx.asid && f.page == va / 4096) }

/-- Fault records that a core holds (R231): in a replay, those of the words that have still to be replayed. -/
def State.faultRecords (s : State) (c : Nat) : Nat :=
  let left (p : Part) (r : ParkedRec) : Bool := p.pc.toNat < r.pc.toNat || (p.id != s.me.id && p.pc == r.pc)
  s.allParts.foldl (fun n p => if s.coreOfPart p = c then
    n + p.parked.length + ((p.replay.map fun x => (x.recs.filter (left p)).length).getD 0) else n) 0

/-- No record is free: the instruction waits in issue and translates again (R231). -/
def State.recordsFull (s : State) : Bool := 256 ≤ s.faultRecords s.here

/-- The 64 bytes of a record in the fault buffer (R210). -/
def ParkedRec.bytes (r : ParkedRec) (c : Context) (w : Workgroup) (g : Gang) (p : Part) : List Byte :=
  recordBytes c w g p r.info 0 0 0

/-- Park lanes of the word in issue with a PAGE record (R118, R201, R210). -/
def State.park (s : State) (t : TrapRec) (pages : List (Nat × Nat)) : State :=
  let rec' : ParkedRec :=
    { seq := s.tick, pc := s.me.pc, lanes := t.lanes, info := { t with pc := s.me.pc, code := 7, replay := s.me.replay.isSome,
                                                                       second := t.second || s.me.second },
      pages := pages }
  let s1 := { s with me := { s.me with parked := s.me.parked ++ [rec'] } }
  pages.foldl (fun s p => s.notify s.ctx.hedge s.here s.ctx.asid p.1 p.2 (t.acc / 64)) s1

/-- What a fetch gives. -/
inductive FetchOut
  | word (w : Word64)
  | wait
  | page (aux : Nat)
  | prot (aux : Nat)
  | poison
  deriving DecidableEq, Repr, Inhabited

/-- How an instruction cache finds a word: by its physical address and the key that it was fetched under (R133, R237). -/
def icacheKey (tag pa : Nat) : Nat := tag * 2 ^ 64 + pa

/-- The words of a line under a key tag, but for poisoned ones, as a fill brings them (R393, R397). -/
def State.lineWords (s : State) (tag line : Nat) : List (Nat × Word64) :=
  ((List.range 16).map fun i => 128 * line + 8 * i).filterMap fun pa =>
    if s.isPoisoned pa 8 then none else some (icacheKey tag pa, BitVec.ofNat 64 (leNat (s.homeRead tag pa 8)))

/-- A buffer's line goes to every merged core in one broadcast, and the buffer is free (R393). -/
def State.broadcast (s : State) (f : FillBuf) : State :=
  let ws := s.lineWords f.tag f.line
  let fill (k : Core) : Core := { k with icache := k.icache.drop (k.icache.length - 16368) ++ ws }
  f.cores.foldl (fun s c => s.updCore c fill) { s with fills := s.fills.filter (· != f) }

/-- An instruction miss of the core in hand (R393): it merges with one for the same line and key in its sector, or takes a
buffer. A core whose buffer stands already has the line broadcast, and then misses no more. Where all 32 buffers of the
sector are in use, the oldest is broadcast first. -/
def State.fillMiss (s : State) (tag line : Nat) : State :=
  let sec := coreSector s.here
  let mine (f : FillBuf) : Bool := f.sector == sec && f.tag == tag && f.line == line
  match s.fills.find? mine with
  | some f =>
    if f.cores.contains s.here then s.broadcast f
    else { s with fills := updWhere mine (fun f => { f with cores := f.cores ++ [s.here] }) s.fills }
  | none =>
    let held := s.fills.filter fun f => f.sector == sec
    let s1 := match held.head? with
      | some f => if held.length < 32 then s else s.broadcast f
      | none => s
    { s1 with fills := s1.fills ++ [{ sector := sec, tag := tag, line := line, cores := [s.here] }] }

/-- The word at an address, from the instruction cache; a miss waits for the fill of its line (R133, R227, R392, R393). -/
def State.fetch (s : State) (a : Word64) : State × FetchOut :=
  match s.xlate a.toNat with
  | .miss => (s.startWalk a.toNat, .wait)
  | .fault 7 aux => (s.clearWalkFault a.toNat, .page aux)
  | .fault _ aux => (s.clearWalkFault a.toNat, .prot aux)
  | .hit e =>
    if !e.x || e.mt ≠ 0 then (s, .prot 2)
    else if s.keyAbsent s.ctx.codeKey then (s, .prot 0x0B)
    else
      let pa := e.phys a.toNat
      let tag := s.keyTag s.ctx.codeKey
      match lookupKey s.core.icache (icacheKey tag pa) with
      | some w => (s, .word w)
      | none =>
        let s1 := s.fillMiss tag (pa / 128)
        match lookupKey s1.core.icache (icacheKey tag pa) with
        | some w => (s1, .word w)
        | none => (s1, if s1.fills.any fun f => f.tag == tag && f.line == pa / 128 && f.cores.contains s.here then .wait else .poison)

/-- A fetch that gives no word: the part waits for the walk, is fault-parked whole, or traps (R46, R227). -/
def State.fetchFail (s : State) (o : FetchOut) (a : Word64) (second : Bool) : State :=
  let t : TrapRec := { code := 8, lanes := s.present, addr := a, second := second }
  match o with
  | .page aux =>
    if s.recordsFull then s.stall .faultBuffer
    else
      let s1 := s.park { t with aux := aux } [(a.toNat / 4096, aux)]
      { s1 with me := { s1.me with state := .faultParked } }
  | .prot aux => s.raise { t with aux := aux }
  | .poison => s.raise { t with code := 0x0B }
  | _ => s.stall .walk

/-- The whole part parks at the word in issue with a PAGE record, and issues it again after service (R74, R227). -/
def State.parkWhole (s : State) (t : TrapRec) (page aux : Nat) : State :=
  if s.recordsFull then s.stall .faultBuffer
  else
    let s1 := s.park { t with lanes := s.present, aux := aux } [(page, aux)]
    { s1 with me := { s1.me with state := .faultParked } }

end Sys2Proof.Machine
end

