-- ==== Sys2Proof/Machine/Tables.lean ====
section
/-! DEFINITION. The driver's tables in device memory, which the device reads and writes by physical address under key
index 0: root block, hedge table, ASID table (R384 to R387), queue descriptors and doorbells (R346 to R348). -/

namespace Sys2Proof.Machine

/-! ## The hedge table (R385, R386) -/

/-- A hedge's entry as the device reads it when the hedge becomes live. -/
def State.readHedge (s : State) (n : Nat) : Hedge :=
  let a := s.htable + 128 * n
  { n := n, cores := s.rd a 4, gfloor := s.rd (a + 4) 1, sfloor := s.rd (a + 5) 1, wdog := s.rd (a + 6) 1,
    l2w := s.rd (a + 7) 1, drove0 := s.rd (a + 8) 1, drove1 := s.rd (a + 9) 1, flblk := s.rd (a + 10) 1,
    fltile := s.rd (a + 11) 1, flcim := s.rd (a + 12) 1, flscr := s.rd (a + 20) 4, faba := s.rd (a + 14) 2,
    hosta := s.rd (a + 16) 2, csp0 := BitVec.ofNat 48 (s.rd (a + 24) 6), csp1 := BitVec.ofNat 48 (s.rd (a + 32) 6),
    hbm0 := s.rd (a + 40) 4, hbm1 := s.rd (a + 44) 4, fring := s.rd (a + 48) 8, frsize := s.rd (a + 56) 4,
    pool := s.rd (a + 64) 8, poolsize := s.rd (a + 72) 4, fresp := s.rd (a + 80) 8, frrsize := s.rd (a + 88) 4 }

/-- The reserved fields of a hedge's entry are 0. -/
def State.hedgeReserved (s : State) (n : Nat) : Bool :=
  let a := s.htable + 128 * n
  s.rd (a + 13) 1 == 0 && s.rd (a + 18) 2 == 0 && s.rd (a + 30) 2 == 0 && s.rd (a + 38) 2 == 0 && s.rd (a + 60) 4 == 0 &&
  s.rd (a + 76) 4 == 0 && s.rd (a + 92) 36 == 0

/-- A ring size. -/
def ringSize (n : Nat) : Bool := (List.range 13).any fun k => n == 2 ^ (k + 4)

/-- A ring of the hedge's entry: nonzero, 64-byte aligned, outside firmware's memory, wholly in one die's HBM4. -/
def ringOk (a bytes : Nat) : Bool :=
  a != 0 && a % 64 == 0 && 0x10000 ≤ a && a + bytes ≤ hbmEnd && a / hbmDie == (a + bytes - 1) / hbmDie

/-- The number of members of a mask. -/
def countBits {w : Nat} (m : BitVec w) : Nat := ((List.range w).filter fun i => m.getLsbD i).length

/-- The activation check of R386 for an entry that has been read, against the hedges that are live. -/
def State.hedgeOk (s : State) (h : Hedge) : Bool :=
  let hs := s.hedges.filter fun x => x.n != h.n
  let sum (f : Hedge → Nat) : Nat := hs.foldl (fun a x => a + f x) (f h)
  let both := h.cores % 4096 != 0 && h.cores / 4096 != 0
  let ncores := 8 * countBits (BitVec.ofNat 24 h.cores)
  h.cores < 2 ^ 24 && s.hedgeReserved h.n && h.gfloor ≤ 32 && h.sfloor ≤ 8 && 20 ≤ h.wdog && h.wdog ≤ 32 && h.l2w ≤ 8 &&
  1 ≤ h.flblk && h.flblk ≤ 16 && h.fltile ≤ 16 && h.flcim ≤ 2 && h.flscr % 256 == 0 &&
  ringSize h.frsize && ringSize h.poolsize && ringSize h.frrsize &&
  hs.all (fun x => x.cores &&& h.cores == 0) &&
  s.fuseCols.all (fun c => h.cores / 2 ^ (12 * c.1 + c.2) % 2 == 0) &&
  ringOk h.fring (64 + 16 * h.frsize) && ringOk h.fresp (64 + 16 * h.frrsize) && ringOk h.pool (64 + 8 * h.poolsize) &&
  (!both || countBits h.csp0 == countBits h.csp1) &&
  hs.all (fun x => x.csp0 &&& h.csp0 == 0 && x.csp1 &&& h.csp1 == 0) &&
  (ncores == 0 || (4 * h.flblk ≤ 128 * ncores && h.fltile ≤ 16 && h.flcim ≤ 2 && h.flscr ≤ 524288)) &&
  sum (·.l2w) ≤ 8 && max 8 (sum (·.drove0)) + max 8 (sum (·.drove1)) ≤ 64 && sum (·.hbm0) ≤ 8190 &&
  sum (·.hbm1) ≤ 8190 && sum (·.faba) ≤ 200 && sum (·.hosta) ≤ 90

/-- The entry of a hedge as the device last read it (R386): one that was never live has no rings that the device knows. -/
def State.lastRead (s : State) (n : Nat) : Hedge :=
  (s.hedge? n).getD ((s.lastHedges.find? fun h => h.n == n).getD { n := n, cores := 0 })

/-! ## Queue descriptors (R346, R347) and doorbells (R348) -/

/-- The die and the index 128e + q of a queue handle. -/
def queueAddr (s : State) (h : Nat) : Nat := s.qtable (bits h 13 13) + 256 * bits h 12 0

def State.qRing (s : State) (h : Nat) : Nat := s.rd (queueAddr s h) 8
def State.qSize (s : State) (h : Nat) : Nat := s.rd (queueAddr s h + 8) 4
/-- CTL. DESIGN CHOICE (log 47): reserved bits and bytes of a descriptor are ignored, whatever they hold. -/
def State.qCtl (s : State) (h : Nat) : Nat := s.rd (queueAddr s h + 12) 1
def State.qHedge (s : State) (h : Nat) : Nat := s.rd (queueAddr s h + 13) 1
def State.qAsid (s : State) (h : Nat) : Nat := s.rd (queueAddr s h + 14) 2
def State.qRidx (s : State) (h : Nat) : Nat := s.rd (queueAddr s h + 16) 8
def State.qWidx (s : State) (h : Nat) : Nat := s.rd (queueAddr s h + 24) 8
def State.qCring (s : State) (h : Nat) : Nat := s.rd (queueAddr s h + 32) 8
def State.qCrsize (s : State) (h : Nat) : Nat := s.rd (queueAddr s h + 40) 4
def State.qAborted (s : State) (h : Nat) : Bool := s.rd (queueAddr s h + 44) 4 == 1
def State.qCridx (s : State) (h : Nat) : Nat := s.rd (queueAddr s h + 48) 8
def State.qCwidx (s : State) (h : Nat) : Nat := s.rd (queueAddr s h + 56) 8
def State.qAbortv (s : State) (h : Nat) : Nat := s.rd (queueAddr s h + 104) 8
def State.qHarvest (s : State) (h : Nat) : Bool := s.qCtl h % 2 == 1
def State.qPriv (s : State) (h : Nat) : Bool := s.qCtl h / 4 % 2 == 1
def State.qDev (s : State) (h : Nat) : Bool := s.qCtl h / 2 % 2 == 1
def State.qPriority (s : State) (h : Nat) : Nat := bits (s.qCtl h) 7 5

/-- The AUX with which a queue's ASID entry refuses its packets (R387). -/
def State.asidFault (s : State) (q : Nat) : Option Nat :=
  let n := s.qAsid q
  let e := s.readAsid n
  let a := s.atable + 32 * n
  if !e.valid || (e.harvestOnly && !s.qHarvest q) then some 2
  else if 4 ≤ s.rd (a + 11) 1 || 512 ≤ e.mask || s.rd (a + 20) 12 ≠ 0 || e.root % 8192 ≠ 0 || 4096 ≤ e.key ||
    4096 ≤ e.codeKey || (n ≠ 0 && 48 ≤ e.hedge) then some 1
  else none

/-- What the engine keeps of a queue. -/
def State.getQueue (s : State) (h : Nat) : Queue := (s.queues.find? fun q => q.handle == h).getD { handle := h }
def State.setQueue (s : State) (q : Queue) : State :=
  { s with
    queues := if s.queues.any fun x => x.handle == q.handle
      then updWhere (fun x => x.handle == q.handle) (fun _ => q) s.queues else s.queues ++ [q] }

/-- A queue is stopped while its descriptor stands as an earlier boot left it (R400). -/
def State.qStopped (s : State) (h : Nat) : Bool :=
  (List.range 8).any fun i =>
    let t := SMap.get 0 s.tags (queueAddr s h / 32 + i)
    t != 0 && t != s.keyTag 0

/-- The next packet that a queue has not taken up. -/
def State.nextSeq (s : State) (q : Nat) : Nat := max (s.getQueue q).taken (s.qRidx q)

/-- Queues whose WIDX is not 0. -/
def State.rungQueues (s : State) : List Nat :=
  (s.mem.filterMap fun c => [0, 1].findSome? fun d =>
    let o := c.1 - s.qtable d
    if s.qtable d ≤ c.1 && o < 2 ^ 21 && o % 256 / 8 = 3 then some (8192 * d + o / 256) else none).eraseDups

/-- The engine takes a value as a queue's new WIDX, if it is in range; its doorbell word then reads it. -/
def State.takeWidx (s : State) (h w : Nat) : State :=
  if !s.qStopped h && s.qWidx h < w && w ≤ s.qRidx h + s.qSize h then
    ((s.wr (queueAddr s h + 24) 8 w).putBytes (hbmEnd + bits h 13 13 * 0x0200_0000 + 4096 * bits h 12 0) (leBytes 8 w))
  else s

/-- A write that reaches a doorbell aperture (R348): of each page it acts on the doorbell word alone, and on that only with
all of its bytes. -/
def State.doorbell (s : State) (a : Nat) (bs : List Byte) : State :=
  (List.range ((a + bs.length + 4095) / 4096 - a / 4096)).foldl (fun s i =>
    let page := 4096 * (a / 4096 + i)
    let o := page - hbmEnd
    if a ≤ page && page + 8 ≤ a + bs.length && isDoorbell page then
      s.takeWidx (o / 0x0200_0000 * 8192 + o % 0x0200_0000 / 4096) (leNat ((bs.drop (page - a)).take 8))
    else s) s

end Sys2Proof.Machine
end

