-- ==== Sys2Proof/Machine/Access.lean ====
section
/-! DEFINITION. Accesses of lanes to memory: effective addresses (R38), spaces (R216 to R221), the checks of R118 with
page-fault parking, performing at the point that a scope names (R242, R245), transactional accesses (R267 to R269),
atomics (R126) and peer windows (R124, R371). -/

namespace Sys2Proof.Machine

/-! ## Effective addresses -/

/-- Bytes of a SIZE code (R38). -/
def sizeBytes (sz : Nat) : Nat := 2 ^ sz

/-- The effective address of a lane (R38); `size` scales the index. -/
def State.ea (s : State) (o : FM) (size : Nat) (l : Nat) : Word64 :=
  let base := s.rg o.a.toNat
  match o.idx.toNat with
  | 0 => base
  | 1 => base + (s.rv o.b.toNat l).zeroExtend 64 * BitVec.ofNat 64 size
  | 2 => base + (s.rv o.b.toNat l).signExtend 64 * BitVec.ofNat 64 size
  | _ => base + s.rvp o.b.toNat l

/-- The low `size` bytes of vD and its followers in a lane, as a number (R117). -/
def State.laneData (s : State) (d size l : Nat) : Nat :=
  match size with
  | 8 => (s.rvp d l).toNat
  | 16 => (s.rvp d l).toNat + 2 ^ 64 * (s.rvp (d + 2) l).toNat
  | n => (s.rv d l).toNat % 2 ^ (8 * n)

/-- The register writes of a load that returns `x` (R117). -/
def loadWrites (d size l x : Nat) (sx : Bool) : List (Nat × Word32) :=
  if size < 4 then
    [(32 * d + l, if sx then (BitVec.ofNat (8 * size) x).signExtend 32 else BitVec.ofNat 32 x)]
  else (List.range (size / 4)).map fun i => (32 * (d + i) + l, BitVec.ofNat 32 (x / 2 ^ (32 * i)))

/-! ## Spaces (R216 to R220) -/

/-- What an access needs (R227), and what its record says (R210). -/
structure Need where
  space : Nat
  size : Nat
  r : Bool
  w : Bool
  scope : Nat := 3
  sizeCode : Nat := 0
  /-- An atomic: its MOP and scope (R127). -/
  atomic : Option Nat := none
  deriving DecidableEq, Repr

def Need.acc (n : Need) : Nat := (n.r.toNat + 2 * n.w.toNat) * 64 + n.scope * 8 + n.space

/-- The virtual address of a private offset (R220). -/
def State.privVa (s : State) (l : Nat) (o : Nat) : Nat :=
  (s.ctx.privBase + s.gang.wid / 32 * 32 * s.gang.privLimit + o / 16 * 512 + 16 * l + o % 16) % 2 ^ 64

/-- An atomic is not served at its location (R127, R379). -/
def notServed (n : Need) (mt : Nat) : Bool :=
  match n.atomic with
  | none => false
  | some mop => (mt == 1 && !(n.scope == 4 && n.size == 8 && (mop == 0 || mop == 7))) || (mt == 2 && n.scope == 3)

/-- The place of a translated access, with its rights (R227). -/
def State.pagePlace (s : State) (n : Need) (va : Nat) (e : TlbEntry) : Place :=
  if (n.r && !e.r) || (n.w && !e.w) then .fault 8 2
  else if notServed n e.mt then .fault 8 6
  else
    match s.beyond (s.ownAsker s.ctx.asid (e.pa + va % 2 ^ e.lg)) s.ctx.asid e va n.r n.w with
    | some p => p
    | none => .spot { ua := e.phys va, key := s.pageKey s.ctx.key s.ctx.codeKey e, mt := e.mt, entry := some e,
                       spans := [e.span] }

/-- The driver has refused the page to the word that is replayed (R233). -/
def State.refusedHere (s : State) (va : Nat) : Bool :=
  s.me.replay.any fun r => r.recs.any fun x => x.pc == s.me.pc && x.refused.contains (va / 4096)

/-- A page fault; a page that the driver refused gives PROT with AUX 0x09 at the replay (R233). -/
def State.pageFault (s : State) (va aux : Nat) : Place := if s.refusedHere va then .fault 8 9 else .fault 7 aux

/-- Resolve a virtual address. A page that was refused is not asked for again, whatever has become of it. -/
def State.vaPlace (s : State) (n : Need) (va : Nat) : Place :=
  if s.refusedHere va then .fault 8 9
  else match s.xlate va with
  | .miss => .walk va
  | .fault 7 aux => s.pageFault va aux
  | .fault c a => .fault c a
  | .hit e => s.pagePlace n va e

/-- A .c offset in a hedge's grant on a die (R219). -/
def cspPlace (h : Hedge) (die o : Nat) : Option Nat :=
  let bs := grantedBanks h die
  let n := bs.length
  if o < n * 2 ^ 20 then some (cspAddr die (bs.getD (o / 256 % n) 0) (o / (256 * n) * 256 + o % 256)) else none

/-- The member of the paddock in hand at an index (R218). -/
def State.member (s : State) (m : Nat) : Option Workgroup :=
  s.allWgs.find? fun w => w.context == s.ctx.id && w.pidx == s.wg.pidx && w.py * s.ctx.padW + w.px == m

/-- The gangs of a workgroup that its launch started, in index order. -/
def State.launchGangs (s : State) (w : Nat) : List Gang :=
  (List.range 32).filterMap fun j => s.allGangs.find? fun g => g.workgroup == w && !g.handler && g.index == j

/-- Where the bale of a workgroup lies, and the scratchpad in it (R334). -/
def baleBase (c : Context) (w : Workgroup) : Nat := c.baleArea.toNat + 524288 * w.pidx
def State.spadAt (s : State) (c : Context) (w : Workgroup) : Nat :=
  baleBase c w + 512 * c.ngang + 4096 * sumOf (·.vblk) (s.launchGangs w.id)

/-- The scratchpad of an evicted workgroup is in its bale (R329). -/
def State.spilled (s : State) (w : Workgroup) : Bool :=
  w.state == .evicted && !s.spills.any fun x => x.workgroup == w.id && x.left.contains (0, none)

/-- Resolve an offset in the scratchpad of the workgroup in hand (R217): what an evicted workgroup still releases goes into
its bale once the scratchpad is there (R330, R331). -/
def State.ownPlace (s : State) (n : Need) (o : Nat) : Place :=
  if s.wg.scr < o + n.size then .fault 8 3
  else if s.spilled s.wg then s.vaPlace n (s.spadAt s.ctx s.wg + o)
  else .spot { ua := spadAddr s.here (s.wg.sbase + o) }

/-- Resolve a .k address (R216, R218). -/
def State.padPlace (s : State) (n : Need) (va : Nat) : Place :=
  let m := va / 2 ^ 19
  let o := va % 2 ^ 19
  if s.ctx.padW * s.ctx.padH ≤ m then .fault 8 3
  else match s.member m with
    | none => .fault 10 1
    | some w =>
      match w.state with
      | .ended | .released => .fault 10 1
      | .saved => .hold
      | .evicted => if w.id = s.wg.id then s.ownPlace n o else .hold
      | .running => if w.scr < o + n.size then .fault 8 3 else .spot { ua := spadAddr w.core (w.sbase + o) }

/-- Resolve the address of a lane's access in its space. `grown` is where the private pages mapped so far end, with the
AUX of the page fault beyond it (R221). -/
def State.place (s : State) (n : Need) (grown : Option (Nat × Nat)) (l : Nat) (a : Word64) : Place :=
  let va := a.toNat
  match n.space with
  | 0 =>
    if s.gang.privLimit ≤ va then .fault 9 0
    else
      let p := s.privVa l va
      match grown with
      | some (lim, aux) => if lim ≤ p then s.pageFault p aux else s.vaPlace n p
      | none => s.vaPlace n p
  | 1 => s.ownPlace n va
  | 2 => s.padPlace n va
  | 3 =>
    match s.hedge? s.ctx.hedge with
    | none => .fault 8 3
    | some h => match cspPlace h (coreDie s.here) va with
      | some u => .spot { ua := u }
      | none => .fault 8 3
  | _ => s.vaPlace n va

/-! ## Private growth (R221) -/

/-- Where a 4 KiB leaf of an address space lies, if every table above it stands (R223). -/
def State.leafSlot (s : State) (va : Nat) : Nat → Nat → Option Nat
  | 0, _ => none
  | 1, table => some (table + 16 * bits va 20 12)
  | n + 2, table =>
    let e := s.readPte table (bits va (20 + 9 * (n + 1)) (12 + 9 * (n + 1)))
    if bits e 0 0 = 0 || pteMalformed (n + 1) e || bits e 2 2 = 1 then none else s.leafSlot va (n + 1) (bits e 51 12 * 4096)

/-- Map private pages from the hedge's pool; the first page that cannot be mapped stops the growth with an AUX. -/
def State.growPages (s : State) : List Nat → State × Option (Nat × Nat)
  | [] => (s, none)
  | va :: rest =>
    match s.leafSlot va 5 s.ctx.root with
    | none => (s, some (va, 1))
    | some slot =>
      if s.rd slot 1 % 2 = 1 then s.growPages rest
      else match s.hedge? s.ctx.hedge with
        | none => (s, some (va, 3))
        | some h =>
          let i := s.rd h.pool 8
          if s.rd (h.pool + 8) 8 ≤ i then (s, some (va, 3))
          else
            let frame := s.rd (h.pool + 64 + 8 * (i % h.poolsize)) 8
            let s1 := (s.wr h.pool 8 (i + 1)).wr slot 16 (frame / 4096 * 4096 + 0x65)
            { s1 with walkFaults := s1.walkFaults.filter fun f => !(f.asid == s.ctx.asid && f.page == va / 4096) }.growPages
              rest

/-- Grow the gang's private memory to `new` bytes per lane (R221). -/
def State.grow (s : State) (new : Nat) : State × Option (Nat × Nat) :=
  let base := s.privVa 0 0
  let (s1, r) := s.growPages ((List.range ((new - s.gang.hwm) / 128)).map fun i => base + s.gang.hwm * 32 + 4096 * i)
  match r with
  | none => ({ s1 with gang := { s1.gang with hwm := max s1.gang.hwm new } }, none)
  | some x => (s1, some x)

/-- The growth that an access needs before it performs. -/
def State.growFor (s : State) (n : Need) (offs : List Nat) : State × Option (Nat × Nat) :=
  let top := offs.foldl (fun m o => max m (o + n.size)) 0
  if n.space = 0 && s.gang.hwm < top && offs.all (· < s.gang.privLimit) then s.grow ((top + 127) / 128 * 128) else (s, none)

/-! ## The checks of R118 -/

/-- Ask for the page that a lane's access to this device's own window waits for; what else holds a lane is not asked for. -/
def State.askOwn (s : State) (n : Need) (l : Nat) (a : Word64) : State :=
  if n.space = 1 || n.space = 2 || n.space = 3 then s
  else
    let va := if n.space = 0 then s.privVa l a.toNat else a.toNat
    match s.xlate va with
    | .hit e =>
      let off := e.pa + va % 2 ^ e.lg
      if e.mt = 2 && va / 2 ^ 54 = s.fabnum
      then s.askWindow (s.ownAsker s.ctx.asid off) (coreDie s.here) s.fabnum s.ctx.asid off (n.acc / 64) else s
    | _ => s

/-- Steps 1 to 4 of R118 for the active lanes `ls`, whose addresses are `ea`; `k` goes on with the lanes that perform.
`extra` gives a lane's further non-replayable cause once it has been translated (R121). -/
def State.withPlaces (s : State) (n : Need) (ls : List Nat) (ea : Nat → Word64) (aligned : Bool)
    (extra : Word64 → Spot → Option (Nat × Nat)) (k : State → List (Nat × Spot) → State) : State :=
  let rec0 : TrapRec := { code := 8, acc := n.acc, size := n.sizeCode }
  let bad := ls.filter fun l => (ea l).toNat % n.size != 0
  if aligned && !bad.isEmpty then
    s.raise { rec0 with aux := 1, lanes := maskOfList bad, addr := ea (bad.getD 0 0) }
  else
    let (s1, grown) := s.growFor n (ls.map fun l => (ea l).toNat)
    let ps := ls.map fun l => (l, match s1.place n grown l (ea l) with
      | .spot x => match extra (ea l) x with | some (c, a) => Place.fault c a | none => .spot x
      | p => p)
    let walks := ps.filterMap fun (_, p) => match p with | .walk va => some va | _ => none
    if !walks.isEmpty then (walks.foldl State.startWalk s1).stall .walk
    else if ps.any fun (_, p) => p == .hold then
      ((ps.filter fun p => p.2 == .hold).foldl (fun s p => s.askOwn n p.1 (ea p.1)) s1).stall .hold
    else
      let faults := ps.filterMap fun (l, p) => match p with | .fault c a => if c = 7 then none else some (l, c, a) | _ => none
      if !faults.isEmpty then
        let code := [8, 9, 10].find? fun c => faults.any fun f => f.2.1 == c
        let mine := faults.filter fun f => some f.2.1 == code
        let first := mine.getD 0 (0, 8, 0)
        (mine.foldl (fun s f => s.clearWalkFault (ea f.1).toNat) s1.toldOwn).raise
          { rec0 with code := first.2.1, aux := first.2.2, lanes := maskOfList (mine.map (·.1)), addr := ea first.1 }
      else
        let pages := ps.filterMap fun (l, p) => match p with | .fault _ a => some (l, a) | _ => none
        let good := ps.filterMap fun (l, p) => match p with | .spot x => some (l, x) | _ => none
        if pages.isEmpty then k s1 good
        else if s1.recordsFull then s1.stall .faultBuffer
        else if 4 ≤ s1.me.parked.length && s1.me.replay.isNone then { s1 with me := { s1.me with state := .faultParked } }
        else
          let va (l : Nat) : Nat := if n.space = 0 then s1.privVa l (ea l).toNat else (ea l).toNat
          let l0 := (pages.getD 0 (0, 0)).1
          let vps := pages.foldl (fun acc p => let v := va p.1 / 4096
            if acc.any (fun q => q.1 == v) then acc else acc ++ [(v, p.2)]) []
          let s2 := s1.park { rec0 with code := 7, aux := (pages.getD 0 (0, 0)).2, lanes := maskOfList (pages.map (·.1)),
                                        addr := ea l0 } vps
          k (vps.foldl (fun s p => s.clearWalkFault (4096 * p.1)) s2) good

/-! ## Performing at a point (R242, R245, R253) -/

/-- The paddock of the workgroup lies in one sector (R242). -/
def State.padInSector (s : State) (w : Workgroup) : Bool :=
  s.allWgs.all fun x => !(x.context == w.context && x.pidx == w.pidx) || coreSector x.core == coreSector w.core

/-- The level at which an access of a part is performed. -/
def State.levelOf (s : State) (p : Part) (scope : Nat) : Nat :=
  scopeLevel scope (s.padInSector (s.getWg (s.getGang p.gang).workgroup))

/-- Only memory of type 0 is cached: an access to other memory is performed at the home (R226, R373). -/
def Spot.level (x : Spot) (level : Nat) : Nat := if x.mt = 0 then level else 2

/-- Bytes at a place for a core's access at a level. Only device memory is cached. -/
def State.pointRead (s : State) (w : Alloc) (c level key a n : Nat) : State × List Byte :=
  if isHbm a then
    let (s1, bs) := s.readAt w c level key a n
    (if w.policy = 1 then s1.lastUse c (a / 128) else s1, bs)
  else (s.sendPeer a w.harvest w.critical, s.homeRead key a n)

/-- Bytes written at a place by a core's access at a level. -/
def State.pointWrite (s : State) (w : Alloc) (c level key a : Nat) (bs : List Byte) : State :=
  if isHbm a then
    let s1 := s.writeAt w c level key a bs
    if w.policy = 1 then s1.lastUse c (a / 128) else s1
  else if isDoorbell a then s.doorbell a bs
  else (s.sendPeer a w.harvest w.critical).homeWrite key a bs

/-- What was released to some bytes of the device more narrowly comes first (R254). -/
def State.promoteAt (s : State) (a n : Nat) : State :=
  if isHbm a || isSpad a || isCsp a then (linesOf a n).foldl State.promote s else s

/-- Bytes that an engine reads with acquire at the home (R254). -/
def State.engineAcquire (s : State) (key a n : Nat) (critical harvest : Bool := false) : State × List Byte :=
  let t := s.promoteAt a n
  (t.sendPeer a harvest critical, t.homeRead key a n)

/-- Bytes that an engine writes, at their home (R155, R313). -/
def State.engineWrite (s : State) (key a : Nat) (bs : List Byte) (critical harvest : Bool := false) : State :=
  if isHbm a then s.homeWriteAll key a bs else if isDoorbell a then s.doorbell a bs
  else (s.sendPeer a harvest critical).homeWrite key a bs

/-- The newest byte that stores of the part hold for an address (R245). -/
def pendingByte : List Req → Nat → Option Byte → Option Byte
  | [], _, b => b
  | r :: rs, a, b =>
    pendingByte rs a (if r.kind == .write && r.addr ≤ a && a < r.addr + r.size
      then some (BitVec.ofNat 8 (r.data / 2 ^ (8 * (a - r.addr)))) else b)

/-- The bytes of a read, with those stores of the part that stand before it and have not been performed. -/
def overlay (ps : List Req) (a : Nat) (bs : List Byte) : List Byte :=
  bs.zipIdx.map fun (b, i) => (pendingByte ps (a + i) none).getD b

def Req.isAtomic (r : Req) : Bool := match r.kind with | .atomic .. => true | _ => false
def Req.isRead (r : Req) : Bool := match r.kind with | .read .. | .ask .. | .prefetch => true | _ => false
def Req.alloc (r : Req) : Alloc := { harvest := r.harvest, hedge := r.hedge, policy := r.policy, critical := r.critical }

/-- A fence of the part, or an acquiring access that has not been performed, holds its later accesses (R131, R249). -/
def Part.fenced (p : Part) : Bool := p.pending.any fun r => r.kind == .fence || r.acq

/-- Reads of the part, in flight at a slice or held in its ingress, that touch the bytes. -/
def State.readWaits (s : State) (p a n : Nat) : Bool :=
  (s.misses.flatMap (·.waiters) ++ s.ingress).any fun r => r.part == p && r.isRead && overlaps r.addr r.size a n

/-! ## Misses at a slice (R314, R318) -/

/-- A chip-scratchpad bank that is power-gated wakes before it serves (R318). -/
def State.gatedAt (s : State) (a : Nat) : Bool := isCsp a && s.gatedBanks.any fun b => 96 + 48 * b.1 + b.2 == s.homeOf a

/-- A line that is in flight at its slice, or that a request held in ingress names. -/
def State.inFlight (s : State) (line : Nat) : Bool :=
  s.misses.any (fun m => m.line == line) || s.ingress.any fun r => r.addr / 128 == line

/-- Must a request wait at its home: its line is not resident, its bank sleeps, or earlier requests for the line wait there? -/
def State.needsFill (s : State) (c level a : Nat) : Bool :=
  if isHbm a then
    !(level == 0 && (s.getCore c).l1.any fun x => x.line == a / 128) &&
    !(level ≤ 1 && (s.sectorCopy (coreSector c) (a / 128)).isSome) &&
    (!(s.resident.any fun x => x.line == a / 128) || s.inFlight (a / 128))
  else isCsp a && (s.gatedAt a || s.inFlight (a / 128))

/-- A miss-table entry, a waiter place and an ingress place that work of a class may use. -/
def State.missFree (s : State) (slice : Nat) (harvest : Bool) : Bool :=
  let ms := s.misses.filter fun m => m.slice == slice
  ms.length < 128 && (!harvest || (ms.filter (·.harvest)).length < 96)
def State.waiterFree (s : State) (slice : Nat) (harvest : Bool) : Bool :=
  let rs := (s.misses.filter fun m => m.slice == slice).flatMap (·.waiters)
  rs.length < 512 && (!harvest || (rs.filter (·.harvest)).length < 384)
def State.ingressFree (s : State) (slice : Nat) (harvest : Bool) : Bool :=
  (s.ingress.filter fun r => r.harvest == harvest && s.homeOf r.addr == slice).length < 64

/-- The requests held in ingress that are the first there for their lines. -/
def firstOfLine : List Req → List Nat → List Req
  | [], _ => []
  | r :: rs, seen => (if seen.contains (r.addr / 128) then [] else [r]) ++ firstOfLine rs (r.addr / 128 :: seen)

/-- A G request held in a slice's ingress stands before every H request there (R319). -/
def State.gHeld (s : State) (slice : Nat) : Bool :=
  (firstOfLine s.ingress []).any fun r => !r.harvest && s.homeOf r.addr == slice

/-- A request joins its line's waiters, or starts the fetch of the line; none where the tables have no room for it, or where
G requests come first. -/
def State.seat (s : State) (r : Req) : Option State :=
  let sl := s.homeSlice r.addr
  let line := r.addr / 128
  if !isHbm r.addr || !s.waiterFree sl r.harvest || (r.harvest && s.gHeld sl) then none
  else if s.misses.any fun m => m.line == line then
    some { s with misses := updWhere (fun m => m.line == line) (fun m => { m with waiters := m.waiters ++ [r] }) s.misses }
  else if s.missFree sl r.harvest then
    some { s with misses := s.misses ++ [{ slice := sl, line := line, harvest := r.harvest, hedge := r.hedge, waiters := [r] }] }
  else none

/-- A request that misses: it is seated, or it is held in ingress, behind earlier requests for its line; none when the
ingress is full, and then its requester is held (R197). -/
def State.joinMiss (s : State) (r : Req) : Option State :=
  let held : Option State :=
    if s.ingressFree (s.homeOf r.addr) r.harvest then some { s with ingress := s.ingress ++ [r] } else none
  if s.ingress.any fun x => x.addr / 128 == r.addr / 128 then held
  else match s.seat r with
    | some t => some t
    | none => held

/-- Several requests in turn. -/
def State.joinAll (s : State) : List Req → Option State
  | [] => some s
  | r :: rs => (s.joinMiss r).bind fun t => t.joinAll rs

/-- Bytes of a scratchpad that are still being zeroed for their new owner (R394). -/
def State.zeroingAt (s : State) (a n : Nat) : Bool := s.zeroing.any fun z => overlaps a n (spadAddr z.core z.base) z.length

/-- May a request that waits at the slice be served now? It reached its unit before any engine that owns the unit, so it
precedes that engine (R256). -/
def State.reqFree (s : State) (r : Req) : Bool :=
  (s.heldByOther r.part r.addr r.size (!r.isRead)).isNone && !s.zeroingAt r.addr r.size && !s.gatedAt r.addr

/-- May a request that has not reached its unit be performed there now? -/
def State.clear (s : State) (r : Req) : Bool := !s.ownedUnit 0 r.addr r.size && s.reqFree r

/-- Requests that came first still wait at the slice for a line that the bytes touch, and nothing else keeps them waiting
(R314). -/
def State.queued (s : State) (a n : Nat) : Bool :=
  (isHbm a || isCsp a) && (linesOf a n).any fun l =>
    s.misses.any (fun m => m.line == l && m.waiters.head?.any s.reqFree) ||
    (!(s.misses.any fun m => m.line == l) && s.ingress.any fun r => r.addr / 128 == l && s.reqFree r)

/-- What holds back an access that an engine or an outside party would make at its home: an engine's ownership other than
`me` (R256), a hold of the serial token's holder (R276), zeroing (R394), a gated bank (R318), or earlier requests. -/
def State.homeHeld (s : State) (me a n : Nat) (w : Bool) : Bool :=
  s.ownedUnit me a n || (s.heldByOther 0 a n w).isSome || s.zeroingAt a n || s.gatedAt a || s.queued a n

/-- Ask for a line for nobody yet, where the miss table has room. -/
def State.askLine (s : State) (w : Alloc) (a : Nat) : State :=
  let sl := s.homeSlice a
  if s.inFlight (a / 128) || !s.missFree sl w.harvest then s
  else { s with misses := s.misses ++ [{ slice := sl, line := a / 128, harvest := w.harvest, hedge := w.hedge, waiters := [] }] }

/-- The class and hedge of the part in hand, for what its accesses allocate. -/
def State.mine (s : State) (policy : Nat := 0) : Alloc := { harvest := s.ctx.harvest, hedge := s.ctx.hedge, policy := policy }

/-- Complete a read's share of its lane result. -/
def LaneResult.fill (x : LaneResult) (ws : List (Nat × Word32)) : LaneResult :=
  { x with writes := x.writes ++ ws, waits := x.waits - 1 }

/-- Poison that several lanes of a word read: one record names them all, with the address of the lowest (R118, R210). -/
def mergePoison (a b : Option TrapRec) : Option TrapRec :=
  match a, b with
  | some x, some y =>
    some { (if x.lanes.toNat &&& (0 - x.lanes).toNat < y.lanes.toNat &&& (0 - y.lanes).toNat then x else y) with
           lanes := x.lanes ||| y.lanes }
  | some x, none => some x
  | none, y => y

/-- The record of a lane whose data is poisoned (R118, R210). -/
def Req.poison (r : Req) (code aux : Nat) : TrapRec :=
  { code := code, aux := aux, lanes := bitLane r.lane, acc := r.acc, size := r.sizeCode, second := r.second, addr := r.va,
    pc := r.pc }

/-- The lane result of an access takes the access's share of it: register writes, and a trap. An access that returns
nothing has a result only for its trap. -/
def Part.answer (p : Part) (r : Req) (ws : List (Nat × Word32)) (t : Option TrapRec) : Part :=
  match r.kind with
  | .read _ _ res | .atomic _ _ (some _) res =>
    { p with inflight := updWhere (fun y => y.id == res) (fun y => { y.fill ws with poison := mergePoison y.poison t }) p.inflight }
  | _ =>
    if t.isNone then p
    else if p.inflight.any fun y => y.id == r.id && y.poison.isSome then
      { p with inflight := updWhere (fun y => y.id == r.id) (fun y => { y with poison := mergePoison y.poison t }) p.inflight }
    else { p with inflight := p.inflight ++ [{ id := r.id, poison := t }] }

/-- What a lane takes from poisoned data at the bytes of an access (R118). -/
def State.poisonAt (s : State) (r : Req) : Option TrapRec :=
  if s.isPoisoned r.addr r.size && !s.rewritten (s.coreOfPart (s.getPart r.part)) r.addr r.size then some (r.poison 0x0B 0)
  else none

/-- The part's accesses that stand before a request of it. -/
def Part.before (p : Part) (r : Req) : List Req := p.pending.filter fun x => x.id < r.id

/-- An acquire by a core at a level, at each of some lines: what others released there more narrowly is promoted (R249,
R254). -/
def State.acquireLines (s : State) (core level : Nat) (lines : List Nat) : State :=
  lines.foldl (fun s l => s.acquire core level (some l)) s

/-- Serve a read for a part that need not be in hand: its bytes land in the lane result. -/
def State.serveRead (s : State) (r : Req) : State :=
  match r.kind with
  | .read dst sx _ =>
    let p := s.getPart r.part
    let core := s.coreOfPart p
    let level := s.levelOf p r.scope
    let s0 := if r.acq then s.acquireLines core level [r.addr / 128] else s
    let (s1, bs) := s0.pointRead r.alloc core level r.key r.addr r.size
    let x := leNat (overlay (p.before r) r.addr bs)
    s1.updPart r.part fun p => p.answer r (loadWrites dst r.size r.lane x sx) (s.poisonAt r)
  | _ => s

/-- An access of a part that cannot reach its place outside the device: its lane takes the fault when the answer comes
(R376, R381). -/
def State.loseAccess (s : State) (r : Req) (code aux : Nat) : State :=
  s.updPart r.part fun p => p.answer r [] (some (r.poison code aux))

/-! ## Atomics (R126) -/

/-- FP32 addition and comparison come from the floating chapter; the operation of a MOP on old value, operand and
swap value, modulo 2^N (R126). -/
def atomicNew (fadd fmin fmax : Nat → Nat → Nat) (mop n : Nat) (unsigned : Bool) (old b c : Nat) : Nat :=
  let sg (x : Nat) : Int := if 2 ^ (n - 1) ≤ x then (x : Int) - 2 ^ n else x
  let lt (x y : Nat) : Bool := if unsigned then x < y else sg x < sg y
  match mop with
  | 0 => (old + b) % 2 ^ n
  | 1 => if lt b old then b else old
  | 2 => if lt old b then b else old
  | 3 => old &&& b
  | 4 => old ||| b
  | 5 => old ^^^ b
  | 6 => b
  | 7 => if old = b then c else old
  | 8 => if b ≤ old then 0 else old + 1
  | 9 => if old = 0 || b < old then b else old - 1
  | 10 => fadd old b
  | 11 => fmin old b
  | _ => fmax old b

/-! ## Transactional accesses (R267 to R269) -/

/-- Distinct read lines and written lines of the part. -/
def Part.readCount (p : Part) : List Nat := distinct (p.readLines.map (·.line))
def Part.writeLines (p : Part) : List Nat := distinct (p.levels.flatMap fun l => l.writes.map fun b => b.addr / 128)

/-- Change the innermost level. -/
def Part.inner (p : Part) (f : Level → Level) : Part :=
  match p.levels with
  | [] => p
  | l :: ls => { p with levels := f l :: ls }

/-- A line of a read set is listed once, as first read. -/
def Level.addRead (r : ReadLine) (l : Level) : Level :=
  if l.reads.any fun x => x.line == r.line then l else { l with reads := l.reads ++ [r] }

/-- A line is read at its home for a transaction of a part of a core and a hedge: the core is registered there. The serial
holder takes a shared hold instead of a check (R276), once every write made to the line so far has been accepted at its
home. -/
def State.watchFor (s : State) (part core hedge line : Nat) (serial : Bool) : State :=
  let take := serial && !(s.holds.any fun h => h.part == part && h.line == line)
  let s1 := (if take then s.gather line else s).watchLine hedge core line
  if take then { s1 with holds := s1.holds ++ [{ part := part, line := line, exclusive := false }] } else s1

/-- A line as its home answers it to a transactional read now. -/
def State.readNow (s : State) (line : Nat) (ext : Bool) : ReadLine := { line := line, version := s.versionOf line, ext := ext }

/-- A line that is at hand enters the innermost read set, with the version that its home answers. -/
def State.txRead (s : State) (line : Nat) (ext : Bool) : State :=
  let s1 := s.watchFor s.me.id s.here s.ctx.hedge line s.me.serial
  { s1 with me := s1.me.inner (Level.addRead (s1.readNow line ext)) }

/-- The home of bytes that a word waited for answers. A part that waits no more takes no answer. -/
def State.serveAsk (s : State) (r : Req) (watch ext : Bool) : State :=
  let p := s.getPart r.part
  match p.state with
  | .issued _ =>
    let core := s.coreOfPart p
    let line := r.addr / 128
    let (s1, bs) :=
      if watch then
        let t := (if r.acq then s.promote line else s).watchFor r.part core r.hedge line p.serial
        (if r.policy = 1 then t.lastUse core line else t, t.homeRead r.key r.addr r.size)
      else
        let level := s.levelOf p r.scope
        let (t, bs) := (if r.acq then s.acquireLines core level [line] else s).pointRead r.alloc core level r.key r.addr r.size
        (t, overlay (p.before r) r.addr bs)
    s1.updPart r.part fun p => { p with got := p.got ++ [{ read := s1.readNow line ext, addr := r.addr, key := r.key, bytes := bs }] }
  | _ => s

/-- Bytes enter the innermost write set; the serial holder takes an exclusive hold. -/
def State.txWrite (s : State) (bs : List BufByte) : State :=
  let s1 := { s with me := s.me.inner fun l => { l with writes := bs.reverse ++ l.writes } }
  if s.me.serial then
    let lines := distinct (bs.map fun b => b.addr / 128)
    let s2 := lines.foldl State.gather s1
    { s2 with holds := (s2.holds.filter fun h => !(h.part == s.me.id && lines.contains h.line)) ++
        lines.map fun x => { part := s.me.id, line := x, exclusive := true } }
  else s1

/-- A byte as the part's open transaction sees it: buffered, else memory's. -/
def Part.txByte (p : Part) (a : Nat) (b : Byte) : Byte :=
  match (p.levels.flatMap (·.writes)).find? fun x => x.addr == a with
  | some x => x.val
  | none => b

/-- What a home has answered for bytes of the word in issue. -/
def Part.answered (p : Part) (a n key : Nat) : Option Answer :=
  p.got.find? fun x => x.key == key && x.addr ≤ a && a + n ≤ x.addr + x.bytes.length

/-- The bytes of an answer from an address on. -/
def Answer.part (x : Answer) (a n : Nat) : List Byte := (x.bytes.drop (a - x.addr)).take n

/-- The word in issue has its answers, and waits for none. -/
def State.taken (s : State) : State := { s with me := { s.me with got := [] } }

/-- Bytes of a transactional read: as the home has answered them, or as it holds them. -/
def State.txBytes (s : State) (x : Spot) (n : Nat) : List Byte :=
  let bs := match s.me.answered x.ua n x.key with
    | some y => y.part x.ua n
    | none => s.homeRead x.key x.ua n
  bs.zipIdx.map fun (b, i) => s.me.txByte (x.ua + i) b

/-- Another party's hold stands in the way of the serial holder or of a transactional read (R267, R276). -/
def State.txBlocked (s : State) (spots : List Spot) (n : Nat) (write : Bool) : Bool :=
  spots.any fun x => (s.heldByOther s.me.id x.ua n (write && s.me.serial)).isSome

/-- Before transactional reads: capacity and domain (R268, R269). DESIGN CHOICE (log 49): an access that meets both gives the
code of the domain. -/
def State.txReadAbort (s : State) (spots : List Spot) : Option Nat :=
  if spots.any fun x => x.mt != 0 then some 8
  else if 64 < (distinct (s.me.readCount ++ spots.map fun x => x.ua / 128)).length then some 2 else none

/-- Before transactional writes, in the same order. -/
def State.txWriteAbort (s : State) (spots : List Spot) : Option Nat :=
  if spots.any fun x => x.mt != 0 then some 8
  else if 16 < (distinct (s.me.writeLines ++ spots.map fun x => x.ua / 128)).length then some 3 else none

/-! ## Order on the ways (R128, R306, R312, R319, R372, R381) -/

/-- An access of a part may leave: after earlier fences and acquires, after earlier accesses to its bytes, after the earlier
passes of its word (R128), and after every earlier access if it is a release (R131, R245, R249). -/
def Part.mayGo (p : Part) (index : Nat) (r : Req) : Bool :=
  let earlier := p.pending.take index
  !(earlier.any fun x => x.kind == .fence || overlaps x.addr x.size r.addr r.size || (x.acq && x.id != r.id)) &&
  !(p.pending.any fun x => x.id == r.id && x.pass < r.pass) &&
  !(r.rel && (earlier.any (fun x => x.id != r.id) || p.inflight.any fun y => y.waits != 0 && y.id < r.id))

/-- The request waits at a slice already. -/
def State.joined (s : State) (r : Req) : Bool := s.misses.any (fun m => m.waiters.contains r) || s.ingress.contains r

/-- The way on which packets of a core keep their order: over the mesh to one core (R312), over the ring to one sector of
the die (R312), over the droveway to one line (R306), on one plane to one peer (R372), on one connection (R381). Requests of
different cores reach a way in no promised order. -/
def State.wayOf (s : State) (core level a : Nat) : Option (Nat × Nat × Nat) :=
  let home := s.homeOf a
  if isPeer a then some (3, (a - 2 ^ 80) / 2 ^ 67, (sendPlanes s.dead ((a - 2 ^ 80) / 2 ^ 67) (a % 2 ^ 54) false).headD 8)
  else if isHost a then some (4, (a - 2 ^ 70) / 2 ^ 52, 0)
  else if isSpad a then (if (a - 2 ^ 53) / 2 ^ 19 = core then none else some (0, home, 0))
  else if isCsp a then
    (if sliceSector (home - 96) = coreSector core then none else some (1, sliceSector (home - 96), 0))
  else if !isHbm a || level < 2 || sliceSector home = coreSector core then none
  else if home / 48 = coreDie core then some (1, sliceSector home, 0)
  else some (2, sliceSector home, a / 128)

/-- What the parts of a core have sent, and the stores of its gangs' TSTs: packets that are still on their way, with the ways
that they take. -/
def State.sent (s : State) (core : Nat) : List (Req × Option (Nat × Nat × Nat)) :=
  ((s.allParts.filter fun q => s.coreOfPart q == core).flatMap fun q =>
    (q.pending.zipIdx.filter fun (x, i) => x.kind != .fence && q.mayGo i x && !s.joined x).map fun (x, _) =>
      (x, s.wayOf core (s.levelOf q x.scope) x.addr)) ++
  ((s.allGangs.filter fun g => (s.getWg g.workgroup).core == core).flatMap (·.stores)).map fun x => (x, s.wayOf core 2 x.addr)

/-- An earlier packet of the core's class is on the way that an access to an address takes: nothing but its turn keeps it. -/
def State.wayTaken (s : State) (core level a before : Nat) (harvest : Bool) : Bool :=
  let way := s.wayOf core level a
  way.isSome && (s.sent core).any fun x => x.1.id < before && x.1.harvest == harvest && x.2 == way && s.clear x.1

/-- An access that the part in hand would make now stands behind one of its core's. -/
def State.late (s : State) (level a : Nat) : Bool := s.wayTaken s.here level a s.nextId s.ctx.harvest

/-- An earlier packet of the core's class is still on the request's way. -/
def State.behind (s : State) (p : Part) (r : Req) : Bool :=
  s.wayTaken (s.coreOfPart p) (s.levelOf p r.scope) r.addr r.id r.harvest

/-- Two requests meet at one arbiter: a home's, the droveway's in one direction, or a port's (R319, R374, R383). -/
def State.meet (s : State) (c1 l1 a c2 l2 b : Nat) : Bool :=
  match s.wayOf c1 l1 a, s.wayOf c2 l2 b with
  | some (3, _, p), some (3, _, q) => p == q
  | some (4, _, _), some (4, _, _) => true
  | some (2, _, _), some (2, _, _) => coreDie c1 == coreDie c2
  | _, _ => !isPeer a && !isHost a && !isPeer b && !isHost b && (!isHbm a || l1 == 2) && (!isHbm b || l2 == 2) &&
    s.homeOf a == s.homeOf b

/-- H traffic takes what G leaves idle (R319): a G packet that nothing keeps back waits at an arbiter that an H request would
take. -/
def State.gFirst (s : State) (core level : Nat) (r : Req) : Bool :=
  r.harvest && s.allParts.any fun q => q.pending.zipIdx.any fun (x, i) =>
    !x.harvest && x.kind != .fence && q.mayGo i x && !s.joined x && s.clear x && !s.behind q x &&
    s.meet (s.coreOfPart q) (s.levelOf q x.scope) x.addr core level r.addr

end Sys2Proof.Machine
end

