-- ==== Sys2Proof/Machine/Integer.lean ====
section
/-! DEFINITION. Integer, bit-field, move and predicate instructions (04_lane.md, R91 to R98). -/

namespace Sys2Proof.Machine

/-- FFLAGS bits (R26). -/
def flagSAT : BitVec 6 := 32
def flagNV : BitVec 6 := 16
def flagDZ : BitVec 6 := 8
def flagOF : BitVec 6 := 4
def flagUF : BitVec 6 := 2
def flagNX : BitVec 6 := 1

/-- A lane instruction that writes one vector register (R91). -/
def laneV (i : Instr) (g : Guard) (d : Field) (f : State → Nat → Word32 × BitVec 6) (s : State) :
    Host.Outcome State Fault Refusal :=
  checked i s fun s => s.putV d.toNat (lanesOf (s.active g)) (f s)

/-- A lane instruction that writes a register pair. -/
def laneVP (i : Instr) (g : Guard) (d : Field) (f : State → Nat → Word64 × BitVec 6) (s : State) :
    Host.Outcome State Fault Refusal :=
  checked i s fun s => s.putVP d.toNat (lanesOf (s.active g)) (f s)

/-- A lane instruction that writes a predicate. -/
def laneQ (i : Instr) (g : Guard) (d : Field) (f : State → Nat → Bool × BitVec 6) (s : State) :
    Host.Outcome State Fault Refusal :=
  checked i s fun s => s.putQ d.toNat (lanesOf (s.active g)) (f s)

/-- Operand B of a lane: a vector register, or the low half of a gang register under GB (R36). -/
def State.opB (s : State) (o : FV3) (l : Nat) : Word32 :=
  if o.gb then (s.rg o.b.toNat).truncate 32 else s.rv o.b.toNat l

/-- The type is a 64-bit type (R92), and a signed one. -/
def wide (ty : BitVec 4) : Bool := kindW ty == .vp
def signedTy (ty : BitVec 4) : Bool := ty == 0 || ty == 2

/-- An operation of two operands of the type's width (R93). -/
def laneBin (i : Instr) (o : FV3) (f32 : Word32 → Word32 → Word32 × BitVec 6) (f64 : Word64 → Word64 → Word64 × BitVec 6)
    (s : State) : Host.Outcome State Fault Refusal :=
  if wide o.ty then laneVP i o.guard o.d (fun s l => f64 (s.rvp o.a.toNat l) (s.rvp o.b.toNat l)) s
  else laneV i o.guard o.d (fun s l => f32 (s.rv o.a.toNat l) (s.opB o l)) s

/-- The same with an immediate in the place of B (R94). -/
def laneImm (i : Instr) (o : FVI) (b : Word32) (b64 : Word64) (f32 : Word32 → Word32 → Word32 × BitVec 6)
    (f64 : Word64 → Word64 → Word64 × BitVec 6) (s : State) : Host.Outcome State Fault Refusal :=
  if wide o.ty then laneVP i o.guard o.d (fun s l => f64 (s.rvp o.a.toNat l) b64) s
  else laneV i o.guard o.d (fun s l => f32 (s.rv o.a.toNat l) b) s

/-- IMM sign-extended, by way of 32 bits (R37, R94). -/
def immS (o : FVI) : Word32 := o.imm.signExtend 32
def immS64 (o : FVI) : Word64 := (o.imm.signExtend 32).signExtend 64
/-- IMM zero-extended (R94). -/
def immZ (o : FVI) : Word32 := o.imm.zeroExtend 32
def immZ64 (o : FVI) : Word64 := o.imm.zeroExtend 64

/-- A value of a type as an integer. -/
def asInt {n : Nat} (sg : Bool) (x : BitVec n) : Int := if sg then x.toInt else x.toNat

/-- The range of a type. -/
def loOf (sg : Bool) (n : Nat) : Int := if sg then -(2 ^ (n - 1)) else 0
def hiOf (sg : Bool) (n : Nat) : Int := if sg then 2 ^ (n - 1) - 1 else 2 ^ n - 1

/-- An exact result taken modulo 2^N, or clamped to the range of the type with .sat, which sets SAT (R93). -/
def narrow {n : Nat} (sg sat : Bool) (x : Int) : BitVec n × BitVec 6 :=
  if sat then
    if x < loOf sg n then (BitVec.ofInt n (loOf sg n), flagSAT)
    else if hiOf sg n < x then (BitVec.ofInt n (hiOf sg n), flagSAT)
    else (BitVec.ofInt n x, 0)
  else (BitVec.ofInt n x, 0)

/-- The arithmetic of R93 on values of a type. -/
def arith {n : Nat} (f : Int → Int → Int) (sg sat : Bool) (a b : BitVec n) : BitVec n × BitVec 6 :=
  narrow sg sat (f (asInt sg a) (asInt sg b))

def bitwise {n : Nat} (f : BitVec n → BitVec n → BitVec n) (a b : BitVec n) : BitVec n × BitVec 6 := (f a b, 0)

/-- The smaller and the larger of two values of a type. -/
def minTy {n : Nat} (sg : Bool) (a b : BitVec n) : BitVec n × BitVec 6 := (if asInt sg b < asInt sg a then b else a, 0)
def maxTy {n : Nat} (sg : Bool) (a b : BitVec n) : BitVec n × BitVec 6 := (if asInt sg a < asInt sg b then b else a, 0)

/-- A shift by a 32-bit count of which the low bits act (R93). -/
def laneShift (i : Instr) (o : FV3) (f32 : Word32 → Nat → Word32) (f64 : Word64 → Nat → Word64) (s : State) :
    Host.Outcome State Fault Refusal :=
  if wide o.ty then laneVP i o.guard o.d (fun s l => (f64 (s.rvp o.a.toNat l) ((s.opB o l).toNat % 64), 0)) s
  else laneV i o.guard o.d (fun s l => (f32 (s.rv o.a.toNat l) ((s.opB o l).toNat % 32), 0)) s

/-- A shift by an immediate count (R94). -/
def laneShiftImm (i : Instr) (o : FVI) (f32 : Word32 → Nat → Word32) (f64 : Word64 → Nat → Word64) (s : State) :
    Host.Outcome State Fault Refusal :=
  if wide o.ty then laneVP i o.guard o.d (fun s l => (f64 (s.rvp o.a.toNat l) o.imm.toNat, 0)) s
  else laneV i o.guard o.d (fun s l => (f32 (s.rv o.a.toNat l) o.imm.toNat, 0)) s

/-- IADD (R93). -/
def execIadd (o : FV3) (s : State) : Host.Outcome State Fault Refusal :=
  laneBin (.iadd o) o (arith (· + ·) (signedTy o.ty) o.sat) (arith (· + ·) (signedTy o.ty) o.sat) s

/-- ISUB (R93). -/
def execIsub (o : FV3) (s : State) : Host.Outcome State Fault Refusal :=
  laneBin (.isub o) o (arith (· - ·) (signedTy o.ty) o.sat) (arith (· - ·) (signedTy o.ty) o.sat) s

/-- IMUL (R93). -/
def execImul (o : FV3) (s : State) : Host.Outcome State Fault Refusal :=
  laneBin (.imul o) o (arith (· * ·) (signedTy o.ty) o.sat) (arith (· * ·) (signedTy o.ty) o.sat) s

/-- IMULH (R93). -/
def execImulh (o : FV3) (s : State) : Host.Outcome State Fault Refusal :=
  laneV (.imulh o) o.guard o.d
    (fun s l => (BitVec.ofInt 32 (asInt (signedTy o.ty) (s.rv o.a.toNat l) * asInt (signedTy o.ty) (s.opB o l) / 2 ^ 32), 0)) s

/-- IMAD (R93). -/
def execImad (o : FV3) (s : State) : Host.Outcome State Fault Refusal :=
  if bits o.sub.toNat 0 0 = 1 then
    laneVP (.imad o) o.guard o.d (fun s l =>
      (BitVec.ofInt 64 (asInt (signedTy o.ty) (s.rv o.a.toNat l) * asInt (signedTy o.ty) (s.opB o l) +
        ((s.rvp o.c.toNat l).toNat : Int)), 0)) s
  else
    laneV (.imad o) o.guard o.d (fun s l =>
      narrow (signedTy o.ty) o.sat (asInt (signedTy o.ty) (s.rv o.a.toNat l) * asInt (signedTy o.ty) (s.opB o l) +
        asInt (signedTy o.ty) (s.rv o.c.toNat l))) s

/-- IAND (R93). -/
def execIand (o : FV3) (s : State) : Host.Outcome State Fault Refusal :=
  laneBin (.iand o) o (bitwise (· &&& ·)) (bitwise (· &&& ·)) s

/-- IOR (R93). -/
def execIor (o : FV3) (s : State) : Host.Outcome State Fault Refusal :=
  laneBin (.ior o) o (bitwise (· ||| ·)) (bitwise (· ||| ·)) s

/-- IXOR (R93). -/
def execIxor (o : FV3) (s : State) : Host.Outcome State Fault Refusal :=
  laneBin (.ixor o) o (bitwise (· ^^^ ·)) (bitwise (· ^^^ ·)) s

/-- ISHL (R93). -/
def execIshl (o : FV3) (s : State) : Host.Outcome State Fault Refusal :=
  laneShift (.ishl o) o (fun a k => a <<< k) (fun a k => a <<< k) s

/-- ISHR (R93). -/
def execIshr (o : FV3) (s : State) : Host.Outcome State Fault Refusal :=
  laneShift (.ishr o) o (fun a k => a >>> k) (fun a k => a >>> k) s

/-- ISAR (R93). -/
def execIsar (o : FV3) (s : State) : Host.Outcome State Fault Refusal :=
  laneShift (.isar o) o (fun a k => a.sshiftRight k) (fun a k => a.sshiftRight k) s

/-- IMIN (R93). -/
def execImin (o : FV3) (s : State) : Host.Outcome State Fault Refusal :=
  laneBin (.imin o) o (minTy (signedTy o.ty)) (minTy (signedTy o.ty)) s

/-- IMAX (R93). -/
def execImax (o : FV3) (s : State) : Host.Outcome State Fault Refusal :=
  laneBin (.imax o) o (maxTy (signedTy o.ty)) (maxTy (signedTy o.ty)) s

/-- IABS (R93). -/
def execIabs (o : FV3) (s : State) : Host.Outcome State Fault Refusal :=
  if wide o.ty then laneVP (.iabs o) o.guard o.d (fun s l => narrow true o.sat (s.rvp o.a.toNat l).toInt.natAbs) s
  else laneV (.iabs o) o.guard o.d (fun s l => narrow true o.sat (s.rv o.a.toNat l).toInt.natAbs) s

/-- Leading zero bits and one bits. -/
def leadZeros {n : Nat} (x : BitVec n) : Nat := if x = 0 then n else n - 1 - x.toNat.log2
def ones {n : Nat} (x : BitVec n) : Nat := countBits x

/-- ICLZ (R93). -/
def execIclz (o : FV3) (s : State) : Host.Outcome State Fault Refusal :=
  laneV (.iclz o) o.guard o.d (fun s l =>
    (BitVec.ofNat 32 (if wide o.ty then leadZeros (s.rvp o.a.toNat l) else leadZeros (s.rv o.a.toNat l)), 0)) s

/-- IPOPC (R93). -/
def execIpopc (o : FV3) (s : State) : Host.Outcome State Fault Refusal :=
  laneV (.ipopc o) o.guard o.d (fun s l =>
    (BitVec.ofNat 32 (if wide o.ty then ones (s.rvp o.a.toNat l) else ones (s.rv o.a.toNat l)), 0)) s

/-- IADD with an immediate (R94). -/
def execIaddImm (o : FVI) (s : State) : Host.Outcome State Fault Refusal :=
  laneImm (.iaddImm o) o (immS o) (immS64 o) (arith (· + ·) (signedTy o.ty) false) (arith (· + ·) (signedTy o.ty) false) s

/-- ISUB with an immediate (R94). -/
def execIsubImm (o : FVI) (s : State) : Host.Outcome State Fault Refusal :=
  laneImm (.isubImm o) o (immS o) (immS64 o) (arith (· - ·) (signedTy o.ty) false) (arith (· - ·) (signedTy o.ty) false) s

/-- IMUL with an immediate (R94). -/
def execImulImm (o : FVI) (s : State) : Host.Outcome State Fault Refusal :=
  laneImm (.imulImm o) o (immS o) (immS64 o) (arith (· * ·) (signedTy o.ty) false) (arith (· * ·) (signedTy o.ty) false) s

/-- IAND with an immediate (R94). -/
def execIandImm (o : FVI) (s : State) : Host.Outcome State Fault Refusal :=
  laneImm (.iandImm o) o (immZ o) (immZ64 o) (bitwise (· &&& ·)) (bitwise (· &&& ·)) s

/-- IOR with an immediate (R94). -/
def execIorImm (o : FVI) (s : State) : Host.Outcome State Fault Refusal :=
  laneImm (.iorImm o) o (immZ o) (immZ64 o) (bitwise (· ||| ·)) (bitwise (· ||| ·)) s

/-- IXOR with an immediate (R94). -/
def execIxorImm (o : FVI) (s : State) : Host.Outcome State Fault Refusal :=
  laneImm (.ixorImm o) o (immZ o) (immZ64 o) (bitwise (· ^^^ ·)) (bitwise (· ^^^ ·)) s

/-- ISHL with an immediate (R94). -/
def execIshlImm (o : FVI) (s : State) : Host.Outcome State Fault Refusal :=
  laneShiftImm (.ishlImm o) o (fun a k => a <<< k) (fun a k => a <<< k) s

/-- ISHR with an immediate (R94). -/
def execIshrImm (o : FVI) (s : State) : Host.Outcome State Fault Refusal :=
  laneShiftImm (.ishrImm o) o (fun a k => a >>> k) (fun a k => a >>> k) s

/-- ISAR with an immediate (R94). -/
def execIsarImm (o : FVI) (s : State) : Host.Outcome State Fault Refusal :=
  laneShiftImm (.isarImm o) o (fun a k => a.sshiftRight k) (fun a k => a.sshiftRight k) s

/-- IMIN with an immediate (R94). -/
def execIminImm (o : FVI) (s : State) : Host.Outcome State Fault Refusal :=
  laneImm (.iminImm o) o (immS o) (immS64 o) (minTy (signedTy o.ty)) (minTy (signedTy o.ty)) s

/-- IMAX with an immediate (R94). -/
def execImaxImm (o : FVI) (s : State) : Host.Outcome State Fault Refusal :=
  laneImm (.imaxImm o) o (immS o) (immS64 o) (maxTy (signedTy o.ty)) (maxTy (signedTy o.ty)) s

/-- The field position and length that B gives (R96), and the bits that the field covers. -/
def fieldPos (b : Word32) : Nat := b.toNat % 32
def fieldLen (b : Word32) : Nat :=
  let n := min (b.toNat / 256 % 64) 32
  min (fieldPos b + n) 32 - fieldPos b

/-- IBFX of one lane (R96). -/
def bitField (sg : Bool) (a b : Word32) : Word32 :=
  let n := fieldLen b
  let x := a.toNat / 2 ^ fieldPos b % 2 ^ n
  if sg && n ≠ 0 && 2 ^ (n - 1) ≤ x then BitVec.ofInt 32 ((x : Int) - 2 ^ n) else BitVec.ofNat 32 x

/-- IBFI of one lane (R96). -/
def bitInsert (d a b : Word32) : Word32 :=
  let m : Word32 := BitVec.ofNat 32 ((2 ^ fieldLen b - 1) * 2 ^ fieldPos b)
  (d &&& ~~~m) ||| ((a <<< fieldPos b) &&& m)

/-- IBFX (R96). -/
def execIbfx (o : FV3) (s : State) : Host.Outcome State Fault Refusal :=
  laneV (.ibfx o) o.guard o.d (fun s l => (bitField (signedTy o.ty) (s.rv o.a.toNat l) (s.opB o l), 0)) s

/-- IBFI (R96). -/
def execIbfi (o : FV3) (s : State) : Host.Outcome State Fault Refusal :=
  laneV (.ibfi o) o.guard o.d (fun s l => (bitInsert (s.rv o.d.toNat l) (s.rv o.a.toNat l) (s.opB o l), 0)) s

/-- The condition codes of ISET (R95). -/
def intCond {n : Nat} (cc : Nat) (sg : Bool) (a b : BitVec n) : Bool :=
  match cc with
  | 0 => a == b
  | 1 => a != b
  | 2 => decide (asInt sg a < asInt sg b)
  | 3 => decide (asInt sg a ≤ asInt sg b)
  | 4 => decide (asInt sg b < asInt sg a)
  | _ => decide (asInt sg b ≤ asInt sg a)

/-- ISET (R95). -/
def execIset (o : FV3) (s : State) : Host.Outcome State Fault Refusal :=
  laneQ (.iset o) o.guard o.d (fun s l =>
    (if wide o.ty then intCond o.sub.toNat (signedTy o.ty) (s.rvp o.a.toNat l) (s.rvp o.b.toNat l)
     else intCond o.sub.toNat (signedTy o.ty) (s.rv o.a.toNat l) (s.opB o l), 0)) s

/-- ISET with an immediate (R94, R95). -/
def execIsetImm (o : FVI) (s : State) : Host.Outcome State Fault Refusal :=
  laneQ (.isetImm o) o.guard o.d (fun s l =>
    (let cc := if o.sub = 3 then 5 else o.sub.toNat
     if wide o.ty then intCond cc (signedTy o.ty) (s.rvp o.a.toNat l) (immS64 o)
     else intCond cc (signedTy o.ty) (s.rv o.a.toNat l) (immS o), 0)) s

/-- MOV (R97). -/
def execMov (o : FV3) (s : State) : Host.Outcome State Fault Refusal :=
  if wide o.ty then laneVP (.mov o) o.guard o.d (fun s l => (s.rvp o.a.toNat l, 0)) s
  else laneV (.mov o) o.guard o.d (fun s l => (s.rv o.a.toNat l, 0)) s

/-- MOVI (R97). -/
def execMovi (o : FE) (s : State) : Host.Outcome State Fault Refusal :=
  laneV (.movi o) o.guard o.d (fun _ _ => (o.imm, 0)) s

/-- MOVG (R97). -/
def execMovg (o : FV3) (s : State) : Host.Outcome State Fault Refusal :=
  if wide o.ty then laneVP (.movg o) o.guard o.d (fun s _ => (s.rg o.a.toNat, 0)) s
  else laneV (.movg o) o.guard o.d (fun s _ => ((s.rg o.a.toNat).truncate 32, 0)) s

/-- SEL (R97). -/
def execSel (o : FV3) (s : State) : Host.Outcome State Fault Refusal :=
  if wide o.ty then
    laneVP (.sel o) o.guard o.d (fun s l => (if s.rq o.c.toNat l then s.rvp o.a.toNat l else s.rvp o.b.toNat l, 0)) s
  else laneV (.sel o) o.guard o.d (fun s l => (if s.rq o.c.toNat l then s.rv o.a.toNat l else s.opB o l, 0)) s

/-- The operations of QOP (R98). -/
def predOp (op : Nat) (a b : Bool) : Bool :=
  match op with
  | 0 => a && b
  | 1 => a || b
  | 2 => a != b
  | 3 => a && !b
  | 4 => a || !b
  | 5 => !(a && b)
  | 6 => !(a || b)
  | _ => a == b

/-- QOP (R98). -/
def execQop (o : FV3) (s : State) : Host.Outcome State Fault Refusal :=
  laneQ (.qop o) o.guard o.d (fun s l => (predOp o.sub.toNat (s.rq o.a.toNat l) (s.rq o.b.toNat l), 0)) s

/-- QMOV (R98). -/
def execQmov (o : FV3) (s : State) : Host.Outcome State Fault Refusal :=
  if o.sub = 2 then laneV (.qmov o) o.guard o.d (fun s l => (if s.rq o.a.toNat l then 1 else 0, 0)) s
  else laneQ (.qmov o) o.guard o.d (fun s l => (if o.sub = 1 then s.rv o.a.toNat l != 0 else s.rq o.a.toNat l, 0)) s

end Sys2Proof.Machine
end

