-- ==== Sys2Proof/Machine/Flags.lean ====
section
/-! DEFINITION. Exact arithmetic on floating values, rounding and the flags it raises (04_lane.md, R99; 16_numbers.md,
R289, R290, R293). A value is kept as a sign, a natural number and a power of two, so that nothing is lost before the
one rounding. -/

namespace Sys2Proof.Machine

/-- A floating value: (−1)^neg × m × 2^e when finite. -/
inductive FVal
  | nan (signalling : Bool)
  | inf (neg : Bool)
  | fin (neg : Bool) (m : Nat) (e : Int)
  deriving DecidableEq, Repr, Inhabited

/-- A floating format: mantissa bits, exponent bits and bias (R289). -/
structure FFmt where
  mb : Nat
  eb : Nat
  bias : Nat
  /-- The all-ones exponent holds infinity and NaN (R290). -/
  ieee : Bool := true
  deriving DecidableEq, Repr

def fmt32 : FFmt := { mb := 23, eb := 8, bias := 127 }
def fmt16 : FFmt := { mb := 10, eb := 5, bias := 15 }
def fmtB16 : FFmt := { mb := 7, eb := 8, bias := 127 }
def fmtE5M2 : FFmt := { mb := 2, eb := 5, bias := 15 }
def fmtE4M3 : FFmt := { mb := 3, eb := 4, bias := 7, ieee := false }
def fmtF4 : FFmt := { mb := 1, eb := 2, bias := 1, ieee := false }

/-- Bits of an encoding below the sign. -/
def FFmt.width (f : FFmt) : Nat := f.mb + f.eb

/-- value(e, FMT) for a floating format (R290). -/
def FFmt.decode (f : FFmt) (x : Nat) : FVal :=
  let m := x % 2 ^ f.mb
  let e := x / 2 ^ f.mb % 2 ^ f.eb
  let s := x / 2 ^ f.width % 2 == 1
  if f.ieee && e == 2 ^ f.eb - 1 then
    if m = 0 then .inf s else .nan (m / 2 ^ (f.mb - 1) % 2 == 0)
  else if f.mb == 3 && !f.ieee && e == 15 && m == 7 then .nan false
  else if e = 0 then .fin s m (1 - (f.bias : Int) - f.mb)
  else .fin s (2 ^ f.mb + m) ((e : Int) - f.bias - f.mb)

/-- The largest finite encoding without its sign (R289). -/
def FFmt.maxEnc (f : FFmt) : Nat := if f.ieee then 2 ^ f.width - 2 ^ f.mb - 1 else if f.mb = 3 then 0x7E else 7

/-- The canonical NaN (R289); F4 has none. -/
def FFmt.nanEnc (f : FFmt) : Nat :=
  if f.ieee then (2 ^ f.eb - 1) * 2 ^ f.mb + 2 ^ (f.mb - 1) else if f.mb = 3 then 0x7F else 0

def FFmt.infEnc (f : FFmt) : Nat := (2 ^ f.eb - 1) * 2 ^ f.mb

/-- The directions of FMODE.RM: 0 nearest even, 1 toward zero, 2 toward −∞, 3 toward +∞ (R26). Does the magnitude
increase, given the remainder of a division by 2^k? -/
def roundUp (rm : Nat) (neg odd : Bool) (rem k : Nat) : Bool :=
  match rm with
  | 0 => 2 ^ k < 2 * rem || (2 * rem == 2 ^ k && odd)
  | 1 => false
  | 2 => neg && rem != 0
  | _ => !neg && rem != 0

/-- `m × 2^e` rounded to a multiple of `2^q`: the multiple, and whether it is exact. -/
def roundAt (rm : Nat) (neg : Bool) (m : Nat) (e q : Int) : Nat × Bool :=
  if q ≤ e then (m * 2 ^ (e - q).toNat, true)
  else
    let k := (q - e).toNat
    let t := m / 2 ^ k
    let r := m % 2 ^ k
    (if roundUp rm neg (t % 2 == 1) r k then t + 1 else t, r == 0)

/-- floor(log2) of m × 2^e for m ≠ 0. -/
def floorLog (m : Nat) (e : Int) : Int := (m.log2 : Int) + e

/-- The exponent of the smallest normal value. -/
def FFmt.emin (f : FFmt) : Int := 1 - (f.bias : Int)

/-- encode(x, FMT, rm, sat) for a floating format, with its flags (R293). `keep` is the rule of R99 for FP32 results:
SAT is set only where the result would have been an infinity. A clamped infinity sets NX, because the stored value differs
from it (log 24). -/
def FFmt.encode (f : FFmt) (x : FVal) (rm : Nat) (sat keep : Bool) : Nat × BitVec 6 :=
  let sg (neg : Bool) (n : Nat) : Nat := if neg then n + 2 ^ f.width else n
  match x with
  | .nan sig => (f.nanEnc, (if sig then flagNV else 0) ||| (if !f.ieee && f.mb == 1 then flagNV else 0))
  | .inf neg =>
    if f.ieee then (sg neg f.infEnc, 0)
    else if f.mb = 3 then (if sat then (sg neg f.maxEnc, flagOF ||| flagSAT ||| flagNX) else (0x7F, flagOF))
    else (sg neg f.maxEnc, flagOF ||| flagSAT ||| flagNX)
  | .fin neg m e =>
    if m = 0 then (sg neg 0, 0)
    else
      let l := floorLog m e
      let q := max (f.emin - f.mb) (l - f.mb)
      let (t, exact) := roundAt rm neg m e q
      -- the encoding of t × 2^q: a carry into the next binade carries into the exponent field
      let enc := if l < f.emin then t else t - 2 ^ f.mb + (l + f.bias).toNat * 2 ^ f.mb
      let (full, fexact) := roundAt rm neg m e (l - f.mb)
      let tiny := l < f.emin && !(l = f.emin - 1 && full = 2 ^ (f.mb + 1))
      let _ := fexact
      if f.maxEnc < enc then
        let toInf := rm = 0 || (rm = 2 && neg) || (rm = 3 && !neg)
        if !f.ieee && f.mb == 1 then (sg neg f.maxEnc, flagOF ||| flagNX ||| flagSAT)
        else if sat then (sg neg f.maxEnc, flagOF ||| flagNX ||| (if keep && !toInf then 0 else flagSAT))
        else if !f.ieee then (0x7F, flagOF ||| flagNX)
        else (sg neg (if toInf then f.infEnc else f.maxEnc), flagOF ||| flagNX)
      else (sg neg enc, if exact then 0 else if tiny then flagNX ||| flagUF else flagNX)

/-- A subnormal FP32 value taken as zero of its sign under FTZ (R99). -/
def ftzIn (ftz : Bool) (x : FVal) : FVal :=
  match x with
  | .fin neg m e => if ftz && m < 2 ^ 23 && e = -149 then .fin neg 0 (-149) else .fin neg m e
  | y => y

/-- An FP32 input (R99). -/
def f32 (ftz : Bool) (x : Word32) : FVal := ftzIn ftz (fmt32.decode x.toNat)

/-- An FP32 result with one rounding and the flags of R99. -/
def toF32 (x : FVal) (rm : Nat) (sat ftz : Bool) : Word32 × BitVec 6 :=
  let (n, fl) := fmt32.encode x rm sat true
  if ftz && n % 2 ^ 31 != 0 && n % 2 ^ 31 < 2 ^ 23 then (BitVec.ofNat 32 (n / 2 ^ 31 * 2 ^ 31), fl ||| flagUF ||| flagNX)
  else (BitVec.ofNat 32 n, fl)

/-- NV for signalling inputs (R99). -/
def nvOf (xs : List FVal) : BitVec 6 := if xs.any fun x => x == .nan true then flagNV else 0

/-- A value that no step acts on, as an FP32 result (R99): FTZ of its input, a canonical NaN, NV for a signalling one. -/
def passF (ftz : Bool) (a : Word32) : Word32 × BitVec 6 := ((toF32 (f32 ftz a) 0 false ftz).1, nvOf [f32 ftz a])

def isNan (x : FVal) : Bool := match x with | .nan _ => true | _ => false
def negF (x : FVal) : FVal :=
  match x with | .fin n m e => .fin (!n) m e | .inf n => .inf (!n) | y => y

/-- The exact sum; a zero sum takes the sign that the direction gives (R100). DEDUCED (log 48): the sum of two zeros of one
sign keeps it, as in IEEE 754 and as the identity −0 of R112 needs. -/
def addF (rm : Nat) (x y : FVal) : FVal × BitVec 6 :=
  match x, y with
  | .nan _, _ => (.nan false, nvOf [x, y])
  | _, .nan _ => (.nan false, nvOf [x, y])
  | .inf a, .inf b => if a == b then (.inf a, 0) else (.nan false, flagNV)
  | .inf a, _ => (.inf a, 0)
  | _, .inf b => (.inf b, 0)
  | .fin a m e, .fin b n g =>
    let q := min e g
    let u : Int := (if a then -1 else 1) * ((m * 2 ^ (e - q).toNat : Nat) : Int)
    let v : Int := (if b then -1 else 1) * ((n * 2 ^ (g - q).toNat : Nat) : Int)
    let z := u + v
    if z = 0 then (.fin (if m = 0 && n = 0 && a == b then a else rm == 2) 0 q, 0) else (.fin (z < 0) z.natAbs q, 0)

/-- The exact product. -/
def mulF (x y : FVal) : FVal × BitVec 6 :=
  match x, y with
  | .nan _, _ => (.nan false, nvOf [x, y])
  | _, .nan _ => (.nan false, nvOf [x, y])
  | .inf a, .inf b => (.inf (a != b), 0)
  | .inf a, .fin b n _ => if n = 0 then (.nan false, flagNV) else (.inf (a != b), 0)
  | .fin a m _, .inf b => if m = 0 then (.nan false, flagNV) else (.inf (a != b), 0)
  | .fin a m e, .fin b n g => (.fin (a != b) (m * n) (e + g), 0)

/-- Is x < y for values that are no NaN? Zeros of either sign are equal. -/
def ltF (x y : FVal) : Bool :=
  match x, y with
  | .inf a, .inf b => a && !b
  | .inf a, _ => a
  | _, .inf b => !b
  | .fin a m e, .fin b n g =>
    let q := min e g
    let u : Int := (if a then -1 else 1) * ((m * 2 ^ (e - q).toNat : Nat) : Int)
    let v : Int := (if b then -1 else 1) * ((n * 2 ^ (g - q).toNat : Nat) : Int)
    u < v
  | _, _ => false

/-- minimumNumber and maximumNumber, with −0 < +0 (R100). -/
def signF (x : FVal) : Bool := match x with | .fin n _ _ => n | .inf n => n | .nan _ => false
def minF (x y : FVal) : FVal :=
  if isNan x then y else if isNan y then x
  else if ltF x y then x else if ltF y x then y else if signF x then x else y
def maxF (x y : FVal) : FVal :=
  if isNan x then y else if isNan y then x
  else if ltF x y then y else if ltF y x then x else if signF x then y else x

/-- A sum of FP32 values with one rounding and the flags of both steps. -/
def addF32 (rm : Nat) (sat ftz : Bool) (x y : FVal) : Word32 × BitVec 6 :=
  let (z, f) := addF rm x y
  let (w, g) := toF32 z rm sat ftz
  (w, f ||| g)

/-- The atomics' FP32 operations: nearest even, subnormals kept, canonical NaN, no flag (R126). -/
def atomFadd (a b : Nat) : Nat := (addF32 0 false false (fmt32.decode a) (fmt32.decode b)).1.toNat
/-- `.fmin` and `.fmax` give the canonical NaN for any NaN (R126). -/
def atomFmin (a b : Nat) : Nat :=
  let x := fmt32.decode a; let y := fmt32.decode b
  if isNan x || isNan y then fmt32.nanEnc else (fmt32.encode (minF x y) 0 false true).1
def atomFmax (a b : Nat) : Nat :=
  let x := fmt32.decode a; let y := fmt32.decode b
  if isNan x || isNan y then fmt32.nanEnc else (fmt32.encode (maxF x y) 0 false true).1

/-- Rounding to an integer in a direction: the integer, and whether it is exact. -/
def toIntF (rm : Nat) (neg : Bool) (m : Nat) (e : Int) : Int × Bool :=
  let (t, ex) := roundAt rm neg m e 0
  (if neg then -(t : Int) else t, ex)

end Sys2Proof.Machine
end

