-- ==== Sys2Proof/Machine/Gangs.lean ====
section
/-! DEFINITION. What happens to parts, gangs and workgroups as a whole: splitting and rejoining (03_control.md, R70, R79,
R80; 09_execution.md, R199, R200), exit and the end of a workgroup (R81). -/

namespace Sys2Proof.Machine

/-! ## Splitting (R70) -/

/-- The share of a result in flight that falls on some lanes. -/
def LaneResult.only (r : LaneResult) (m : LaneMask) (keepFlags : Bool) : LaneResult :=
  { r with writes := r.writes.filter fun w => m.getLsbD (w.1 % 32), preds := r.preds.filter fun w => m.getLsbD (w.1 % 32),
           flags := if keepFlags then r.flags else 0 }

/-- A part split off: its slices, where it goes on, and its return stack. -/
structure Split where
  slices : BitVec 8
  pc : Word64
  stack : List Frame
  deriving DecidableEq, Repr

/-- The part that takes one share. The first share keeps the part's identity, its TRAPINFO and the flags in flight. -/
def Part.share (p : Part) (id : Nat) (first : Bool) (x : Split) : Part :=
  let q := { p with id := id, slices := x.slices, pc := x.pc, stack := x.stack,
                    inflight := p.inflight.map fun r => r.only (lanesOfSlices x.slices) first }
  if first then q else { q with tiLanes := 0, tiAux := 0, tiCode := 0, lastIssue := 0 }

/-- A part whose accesses have all been performed and whose reads have been served may split. -/
def Part.settled (p : Part) : Bool := p.pending.isEmpty && p.inflight.all fun r => r.waits == 0

/-- Split the part in hand (R70); the shares stand in the order of their lowest slice. -/
def State.splitInto (s : State) (xs : List Split) : State :=
  match xs with
  | [] => s
  | x :: rest =>
    { s with
      me := s.me.share s.me.id true x
      parts := s.parts ++ (rest.zipIdx.map fun (y, i) => s.me.share (s.nextId + i) false y)
      nextId := s.nextId + rest.length }

/-- Send slices of the part in hand their ways: no split inside a transaction or a furrow or in harvest work (R71,
R336). DESIGN CHOICE (log 49): a split is held at issue until the part's own accesses have been performed and its reads
served. -/
def State.scatter (s : State) (xs : List Split) : State :=
  match xs with
  | [x] => { s with me := { s.me with pc := x.pc, stack := x.stack } }
  | _ =>
    if !s.me.levels.isEmpty || s.me.inFurrow || s.ctx.harvest then s.trapAux 6 1
    else if !s.me.settled then s.stall .hold
    else s.splitInto xs

/-- The slices of a part. -/
def Part.sliceList (p : Part) : List Nat := (List.range 8).filter fun i => p.slices.getLsbD i

/-- A slice set from a list. -/
def sliceMask (xs : List Nat) : BitVec 8 := BitVec.ofNat 8 (xs.foldl (fun a i => a + 2 ^ i) 0)

/-- The lanes of a slice. -/
def sliceLanes (i : Nat) : List Nat := (List.range 4).map (· + 4 * i)

/-! ## Rejoining (R79, R80) -/

/-- The await set of a part parked at REGANG. -/
def Gang.awaits (g : Gang) (p : Part) : BitVec 8 :=
  match p.state with
  | .parked (.regang a) => ((if a = 0 then 0xFF else a) &&& g.started &&& ~~~g.gone) ||| p.slices
  | _ => 0

/-- Is the part parked at a REGANG? -/
def Part.atRegang (p : Part) : Bool := match p.state with | .parked (.regang _) => true | _ => false

/-- The parts whose await sets lie within the parts themselves: the largest such set among those given. -/
def Gang.closed (g : Gang) : Nat → List Part → List Part
  | 0, ps => ps
  | n + 1, ps =>
    let cover := ps.foldl (fun m p => m ||| p.slices) (0 : BitVec 8)
    g.closed n (ps.filter fun p => g.awaits p &&& ~~~cover == 0)

/-- Parts that merge: the same PC, furrow state and return stack (R79). -/
def Part.meets (a b : Part) : Bool := a.pc == b.pc && a.inFurrow == b.inFurrow && a.stack == b.stack

/-- Of parts in the order of their lowest slices, the head takes the slices and the accesses of those that meet it. DESIGN
CHOICE (log 44): it keeps its own deferred entries and TRAPINFO, and those of the others are dropped; R79 names neither. -/
def Part.absorb (p : Part) (qs : List Part) : Part :=
  { p with state := .ready, pc := p.pc + 8, slices := qs.foldl (fun m q => m ||| q.slices) p.slices,
           pending := p.pending ++ qs.flatMap fun q => q.pending.map fun r => { r with part := p.id } }

/-- The parts of a gang after a rendezvous: those that go on, and the identities that are no more. -/
def rejoin : Nat → List Part → List Part × List Nat
  | 0, _ => ([], [])
  | _, [] => ([], [])
  | n + 1, p :: ps =>
    let same := ps.filter p.meets
    let (qs, gone) := rejoin n (ps.filter fun q => !p.meets q)
    (p.absorb same :: qs, same.map (·.id) ++ gone)

/-- Insert by lowest slice. -/
def insertPart (p : Part) : List Part → List Part
  | [] => [p]
  | q :: qs => if lowestSlice p.slices < lowestSlice q.slices then p :: q :: qs else q :: insertPart p qs

/-- The rendezvous of a gang: every part whose awaited slices are all parked goes on (R79, R80), and with it the accesses of
those that it takes up, also where they wait at a slice. -/
def State.rendezvous (s : State) (g : Nat) : State :=
  let ps := (s.allParts.filter fun p => p.gang == g && p.atRegang).foldl (fun a p => insertPart p a) []
  let (go, gone) := rejoin 8 ((s.getGang g).closed 8 ps)
  let s1 := go.foldl (fun s p => s.updPart p.id fun _ => p) s
  let taker (r : Req) (p : Part) : Bool := (s.getPart r.part).gang == g && (s.getPart r.part).slices &&& p.slices != 0
  let owner (r : Req) : Req := { r with part := ((go.find? (taker r)).map (·.id)).getD r.part }
  let ms := s1.misses.map fun m => { m with waiters := m.waiters.map owner }
  let s2 : State := { s1 with misses := ms, ingress := s1.ingress.map owner }
  s2.dropParts fun p => gone.contains p.id

/-! ## Exit (R81) -/

/-- A gang none of whose slices runs any more. -/
def State.gangOver (s : State) (g : Nat) : Bool := s.allParts.all fun p => p.gang != g || p.state == .exited

/-- Matrix operations with their stores and sheaves, copies of a workgroup, and accesses of its parts, that are not
finished. -/
def State.wgBusy (s : State) (w : Workgroup) : Bool :=
  let k := s.getCore w.core
  (k.matq ++ k.running.toList).any (fun o => o.workgroup == w.id) ||
  s.copies.any (fun j => match j.owner with | .gang _ _ x _ => x == w.id | .queue .. => false) ||
  ((s.gangsOfWg w.id).any fun g => !g.stores.isEmpty || !g.sheaves.isEmpty) ||
  (s.partsOfWg w.id).any fun p => !p.pending.isEmpty || !p.inflight.isEmpty

/-- A context whose paddocks have all been placed and have ended is complete (R353). -/
def State.settleCtx (s : State) (c : Nat) : State :=
  let x := s.getCtx c
  if x.live && x.placed = x.npad && (s.wgsOfCtx c).all (fun w => w.state == .released)
  then ({ s with drove := { s.drove with queue := s.drove.queue.filter fun t => t.context != c } } : State).updCtx c
    (fun x => { x with live := false }) |>.releaseRan c |>.passOn c
  else s

/-- A workgroup all of whose gangs have exited ends: the messages for it are removed (R317), and it gives back what it holds
once nothing of it is unfinished. -/
def State.settleWg (s : State) (n : Nat) : State :=
  let w := s.getWg n
  if (s.gangsOfWg n).all (fun g => s.gangOver g.id) && (w.state == .running || w.state == .ended) then
    let s1 := (s.updWg n fun w => { w with state := .ended }).updCore w.core fun k =>
      { k with mailbox := k.mailbox.filter fun m => m.workgroup != n }
    if s.wgBusy w then s1
    else
      let s2 := s1.updWg n fun w =>
        { w with state := .released, offer := none, tiles := [], banks := [], scr := 0, ntiles := 0, cim := 0 }
      let s3 := if w.scr = 0 then s2 else
        { s2 with zeroing := s2.zeroing ++ [{ core := w.core, base := w.sbase, length := w.scr }] }
      s3.settleCtx w.context
  else s

/-- The part in hand ends: its slices leave every await set, and its gang's blocks return with its last slice. -/
def State.endPart (s : State) : State :=
  let s1 : State := { s with me := { s.me with state := .exited }, gang := { s.gang with gone := s.gang.gone ||| s.me.slices } }
  let s2 := s1.rendezvous s.gang.id
  let s3 := if s2.gangOver s.gang.id then s2.updGang s.gang.id fun g => { g with v := [], vblk := 0 } else s2
  s3.settleWg s.wg.id

end Sys2Proof.Machine
end

