-- ==== Sys2Proof/Machine/LoadStore.lean ====
section
/-! DEFINITION. Loads, stores and prefetch (05_memory_ops.md, R117 to R123) with deferred stores (R129) and their
transactional forms (14_waiting.md, R267). -/

namespace Sys2Proof.Machine

/-- The need of an M word's access. -/
def needOf (o : FM) (r w : Bool) (atomic : Option Nat := none) : Need :=
  { space := o.space.toNat, size := sizeBytes o.size.toNat, r := r, w := w, scope := o.scope.toNat,
    sizeCode := o.size.toNat, atomic := atomic }

/-- An atomic or a read of the part at the bytes is on its way (R245). -/
def Part.atomicAhead (p : Part) (a n : Nat) : Bool :=
  p.pending.any fun r => (r.isAtomic || r.isRead) && overlaps r.addr r.size a n

/-- Why accesses that would be performed now must wait: a fence or an acquire of the part (R131), its own atomics and reads, an
engine that owns a unit (R256), a hold of the serial token's holder (R276) or zeroing (R394). -/
def State.blocked (s : State) (xs : List Spot) (n : Nat) (write : Bool) : Option Stall :=
  if s.me.fenced then some .fence
  else if xs.any fun x => s.me.atomicAhead x.ua n then some .hold
  else if xs.any fun x => s.ownedUnit 0 x.ua n then some .owned
  else if xs.any fun x => (s.heldByOther s.me.id x.ua n write).isSome || s.zeroingAt x.ua n then some .hold
  else none

/-- The poison record of the lanes that read poisoned sectors (R118). -/
def poisonRec (pc : Word64) (acc size : Nat) (lanes : List Nat) (a : Word64) (second : Bool := false) : Option TrapRec :=
  if lanes.isEmpty then none
  else some { code := 0x0B, acc := acc, size := size, second := second, lanes := maskOfList lanes, addr := a, pc := pc }

/-- A load's result in flight: what has been read, and how many of its reads still wait. -/
def State.emitLoad (s : State) (id : Nat) (writes : List (Nat × Word32)) (flags : BitVec 6) (waits : Nat)
    (poison : Option TrapRec) : State :=
  { s with
    me := { s.me with inflight := s.me.inflight ++ [{ id := id, writes := writes, flags := flags, waits := waits,
                                                      poison := poison }] }
    nextId := max s.nextId (id + 1) }

/-- Read each place in turn at a level. -/
def State.readAll (s : State) (w : Alloc) (level n : Nat) : List (Nat × Spot) → State × List (Nat × List Byte)
  | [] => (s, [])
  | (l, x) :: xs =>
    let (s1, bs) := s.pointRead { w with critical := x.critical } s.here (x.level level) x.key x.ua n
    let (s2, r) := s1.readAll w level n xs
    (s2, (l, overlay s.me.pending x.ua bs) :: r)

/-- Lanes whose bytes are poisoned. -/
def State.poisonedLanes (s : State) (xs : List (Nat × Spot)) (n : Nat) : List Nat :=
  (xs.filter fun x => s.isPoisoned x.2.ua n && !s.rewritten s.here x.2.ua n).map (·.1)

/-- A lane's request of the part in hand. -/
def State.request (s : State) (kind : ReqKind) (id n scope policy : Nat) (rel : Bool) (acc sizeCode : Nat) (ea : Nat → Word64)
    (x : Nat × Spot) (data : Nat) (data2 : Nat := 0) : Req :=
  { id := id, part := s.me.id, lane := x.1, kind := kind, addr := x.2.ua, size := n, key := x.2.key,
    scope := if x.2.mt = 0 then scope else 4, rel := rel, harvest := s.ctx.harvest, hedge := s.ctx.hedge, data := data,
    data2 := data2, policy := policy, critical := x.2.critical, pc := s.me.pc, va := ea x.1, acc := acc, sizeCode := sizeCode,
    second := s.me.second, spans := x.2.spans }

/-! ### Words that wait for all of their bytes -/

/-- A request of the part for bytes is on its way to it, or waits at their home. -/
def State.asked (s : State) (a n key : Nat) : Bool :=
  (s.misses.flatMap (·.waiters) ++ s.ingress).any fun r =>
    r.part == s.me.id && r.addr == a && r.size == n && r.key == key && (match r.kind with | .ask .. => true | _ => false)

/-- The bytes of a place that lie in its line. -/
def Spot.clip (x : Spot) (n : Nat) : Nat := min n (128 - x.ua % 128)

/-- A place whose bytes no home has answered yet. -/
def State.open (s : State) (x : Spot) (n : Nat) : Bool := (s.me.answered x.ua (x.clip n) x.key).isNone

/-- An engine owns a unit that the access touches and that the part in hand does not hold (R256, R276). -/
def State.ownedFirst (s : State) (x : Spot) (n : Nat) : Bool :=
  s.ownedUnit 0 x.ua n && !(s.holds.any fun h => h.part == s.me.id && (linesOf x.ua n).contains h.line)

/-- A word that needs all of its bytes at once asks the homes of those that are not at hand, as waiters of their lines
(R314), and is held at issue until they have answered; none when nothing is missing. -/
def State.askReads (s : State) (watch : Bool) (n scope policy : Nat) (acq : Bool) (xs : List (Nat × Spot)) : Option State :=
  let level := if watch then 2 else s.levelOf s.me scope
  let far := xs.filter fun x => s.open x.2 n && s.needsFill s.here (x.2.level level) x.2.ua
  let req (x : Nat × Spot) : Req :=
    { s.request (.ask watch ((x.2.entry.map (·.ext)).getD false)) s.nextId (x.2.clip n) scope policy false 0 0 (fun _ => 0) x 0 with acq := acq }
  if far.isEmpty then none
  else
    let t := far.foldl (fun s x => if s.asked x.2.ua (x.2.clip n) x.2.key || s.ownedFirst x.2 n then s
      else (s.joinMiss (req x)).getD s) s
    some { t.stall .missTable with nextId := s.nextId + 1 }

/-- Bytes of a word that has all that it waited for: as a home has answered them, or as they are read now. -/
def State.readOne (s : State) (level : Nat) (x : Spot) (n : Nat) : State × List Byte :=
  match s.me.answered x.ua n x.key with
  | some y => (s, y.part x.ua n)
  | none =>
    let (t, bs) := s.pointRead { s.mine with critical := x.critical } s.here (x.level level) x.key x.ua n
    (t, overlay s.me.pending x.ua bs)

/-- Read each place in turn at a level, and have no answers left. -/
def State.readOnes (s : State) (level n : Nat) (xs : List (Nat × Spot)) : State × List (Nat × List Byte) :=
  let (t, rs) := xs.foldl (fun (a : State × List (Nat × List Byte)) x =>
    let (t, bs) := a.1.readOne level x.2 n
    (t, a.2 ++ [(x.1, bs)])) (s, [])
  (t.taken, rs)

/-- Transactional reads (R267): lines enter the read set, and the values are those the transaction sees. `k` goes on with a
reader of the places. -/
def State.txLoad (s : State) (xs : List (Nat × Spot)) (n : Nat) (acq : Bool) (policy : Nat)
    (k : State → (Spot → Nat → List Byte) → State) : State :=
  let spots := xs.map (·.2)
  match s.txReadAbort spots with
  | some c => s.hwAbort c
  | none =>
    let here := (spots.filter fun x => s.open x n && !s.needsFill s.here 2 x.ua)
    if s.txBlocked here n false || here.any (fun x => s.ownedFirst x n || s.zeroingAt x.ua n || s.late 2 x.ua) then
      s.stall .hold
    else match s.askReads true n 3 policy acq xs with
      | some t => t
      | none =>
        let lines := xs.foldl (fun (a : List (Nat × Spot)) x =>
          if a.any (fun y => y.1 == x.2.ua / 128) then a else a ++ [(x.2.ua / 128, x.2)]) []
        let enter (s : State) (l : Nat × Spot) : State :=
          match s.me.answered l.2.ua (l.2.clip n) l.2.key with
          | some x => { s with me := s.me.inner (Level.addRead x.read) }
          | none =>
            let t := (if acq then s.promote l.1 else s).txRead l.1 ((l.2.entry.map (·.ext)).getD false)
            if policy = 1 then t.lastUse t.here l.1 else t
        let s1 := lines.foldl enter s
        k s1.taken s1.txBytes

/-- Is the place outside the device: host memory, or a peer's window? -/
def isOutside (a : Nat) : Bool := isHost a || isPeer a

/-- The requests of this device that are outstanding to a peer. -/
def State.outTo (s : State) (dev : Nat) : List Req :=
  s.allParts.flatMap fun p => p.pending.filter fun r => isPeer r.addr && (r.addr - 2 ^ 80) / 2 ^ 67 == dev

/-- No further request may leave for the peer of a place: on a plane that would carry it 4,096 are outstanding (R376), or
1,024 of the critical class (R378). -/
def State.planeFull (s : State) (x : Spot) : Bool :=
  isPeer x.ua &&
  let dev := (x.ua - 2 ^ 80) / 2 ^ 67
  let out := s.outTo dev
  (sendPlanes s.dead dev (x.ua % 2 ^ 54) x.critical).any (fun p =>
    4096 ≤ (out.filter fun r => (sendPlanes s.dead dev (r.addr % 2 ^ 54) r.critical).contains p).length) ||
  (x.critical && 1024 ≤ (out.filter (·.critical)).length)

/-- The lanes of a load of `n` bytes per lane into vD and its followers: those whose bytes are at hand are read; the others
join their line's waiters (R314). An acquiring load, and a lane that goes outside the device (R373) or behind another packet
of the core (R306, R312), is on its way. None where the tables have no room, or where bytes at hand must wait for an earlier
read of them (R245). -/
def State.loadLanes (s : State) (d n scope policy : Nat) (sx acq : Bool) (acc sizeCode : Nat) (ea : Nat → Word64)
    (xs : List (Nat × Spot)) : Option State :=
  let level := s.levelOf s.me scope
  let (out, rest) := xs.partition fun x => acq || isOutside x.2.ua || s.late (x.2.level level) x.2.ua
  let (far, near) := rest.partition fun x => s.needsFill s.here (x.2.level level) x.2.ua
  let id := s.nextId
  let req (x : Nat × Spot) : Req := { s.request (.read d sx id) id n scope policy false acc sizeCode ea x 0 with acq := acq }
  let (s1, rs) := s.readAll (s.mine policy) level n near
  let bad := s.poisonedLanes near n
  if near.any fun x => s.readWaits s.me.id x.2.ua n then none
  else (s1.joinAll (far.map req)).map fun s2 =>
    let s3 := { s2 with me := { s2.me with pending := s2.me.pending ++ out.map req } }
    s3.emitLoad id (rs.flatMap fun r => loadWrites d n r.1 (leNat r.2) sx) 0 (far.length + out.length)
      (poisonRec s.me.pc acc sizeCode bad (ea (bad.headD 0)) s.me.second)

/-- A plain load. -/
def State.plainLoad (s : State) (d n scope policy : Nat) (sx acq : Bool) (acc sizeCode : Nat) (ea : Nat → Word64)
    (xs : List (Nat × Spot)) : State :=
  match s.blocked (xs.map (·.2)) n false with
  | some w => s.stall w
  | none =>
    if xs.any fun x => s.planeFull x.2 then s.stall .hold
    else match s.loadLanes d n scope policy sx acq acc sizeCode ea xs with
      | none => s.stall .missTable
      | some t => t.advance

/-- LD (R117). -/
def execLd (o : FM) (s : State) : Host.Outcome State Fault Refusal :=
  checked (.ld o) s fun s =>
    let n := sizeBytes o.size.toNat
    let need := needOf o true false
    let sx := o.mq.getLsbD 0
    let ea := s.ea o n
    s.withPlaces need (lanesOf (s.active o.guard)) ea true (fun _ _ => none) fun s xs =>
      if s.me.levels.isEmpty then
        s.plainLoad o.d.toNat n o.scope.toNat (o.mq.toNat / 2) sx (o.ord == 1) need.acc need.sizeCode ea xs
      else
        s.txLoad xs n false (o.mq.toNat / 2) fun t read =>
          let bad := s.poisonedLanes xs n
          (t.emitLoad t.nextId (xs.flatMap fun x => loadWrites o.d.toNat n x.1 (leNat (read x.2 n)) sx) 0 0
            (poisonRec s.me.pc need.acc need.sizeCode bad (ea (bad.headD 0)) s.me.second)).advance

/-! ## Stores -/

/-- The bytes of a store's lanes, with every byte that several lanes write given to one of them (R117). -/
def State.resolveStore (s : State) (n : Nat) (xs : List (Nat × Nat)) : List (Nat × Nat) :=
  xs.map fun (a, x) => (a, leNat ((List.range n).map fun i =>
    let cs := xs.filterMap fun (b, y) => if b ≤ a + i && a + i < b + n then some (BitVec.ofNat 8 (y / 2 ^ (8 * (a + i - b))))
      else none
    cs.getD (Config.storeWinner s.tick (a + i) % cs.length) (BitVec.ofNat 8 (x / 2 ^ (8 * i)))))

/-- Stores of the part in hand join those that have not been performed (R242). -/
def State.pend (s : State) (rs : List Req) : State := { s with me := { s.me with pending := s.me.pending ++ rs } }

/-- Reads of the part that have not been served stand before these writes (R245). -/
def State.readsBefore (s : State) (xs : List Spot) (n : Nat) : Bool := xs.any fun x => s.readWaits s.me.id x.ua n

/-- Requests of the part in hand leave, under one new number. -/
def State.sendReqs (s : State) (rs : List Req) : State := { s.pend rs with nextId := s.nextId + 1 }

/-- The lanes of a store of `n` bytes a lane leave for their points. -/
def State.storeLanes (s : State) (n scope policy : Nat) (rel : Bool) (acc sizeCode : Nat) (ea : Nat → Word64) (data : Nat → Nat)
    (xs : List (Nat × Spot)) : State :=
  let ws := s.resolveStore n (xs.map fun x => (x.2.ua, data x.1))
  let req (x : Nat × Spot) (w : Nat × Nat) : Req := s.request .write s.nextId n scope policy rel acc sizeCode ea x w.2
  s.sendReqs (List.zipWith req xs ws)

/-- A plain store of `n` bytes a lane. -/
def State.plainStore (s : State) (n scope policy : Nat) (rel : Bool) (acc sizeCode : Nat) (ea : Nat → Word64) (data : Nat → Nat)
    (xs : List (Nat × Spot)) : State :=
  if s.readsBefore (xs.map (·.2)) n || xs.any fun x => s.planeFull x.2 then s.stall .hold
  else (s.storeLanes n scope policy rel acc sizeCode ea data xs).advance

/-- The bytes of a buffered store. -/
def bufBytes (key a n x : Nat) (last : Bool := false) (spans : List Span := []) : List BufByte :=
  (List.range n).map fun i => { addr := a + i, key := key, val := BitVec.ofNat 8 (x / 2 ^ (8 * i)), last := last, spans := spans }

/-- Requests that came first wait at the slice for a line that the part in hand does not hold. -/
def State.filling (s : State) (x : Spot) (n : Nat) : Bool :=
  (linesOf x.ua n).any fun l => s.inFlight l && !(s.holds.any fun h => h.part == s.me.id && h.line == l)

/-- A transactional store: the bytes enter the write set (R267). Only the first store of the serial token's holder to a line
waits, for its exclusive hold (R276), which it takes when no engine owns the line (R256) and no earlier request waits for
it. -/
def State.txStore (s : State) (n policy : Nat) (data : Nat → Nat) (xs : List (Nat × Spot)) : State :=
  let spots := xs.map (·.2)
  match s.txWriteAbort spots with
  | some c => s.hwAbort c
  | none =>
    if s.me.serial && (s.txBlocked spots n true || spots.any fun x => s.ownedFirst x n || s.filling x n) then s.stall .hold
    else
      let ws := s.resolveStore n (xs.map fun x => (x.2.ua, data x.1))
      (s.txWrite (List.zipWith (fun x w => bufBytes x.2.key x.2.ua n w.2 (policy == 1) x.2.spans) xs ws).flatten).advance

/-- DEFER = 1 outside a furrow or with sixteen entries recorded (R129). -/
def Part.deferBad (p : Part) : Bool := !p.inFurrow || 16 ≤ p.deferred.length

/-- Lanes of a deferred effect, those that a replay adds at their places. -/
def mergeLanes (xs ys : List DeferLane) : List DeferLane :=
  (List.range 32).flatMap fun l => ((xs ++ ys).filter fun x => x.lane == l).take 1

/-- Record a deferred effect (R129). While lanes of it are parked, it is kept for their replay, which completes it: of a pair
the other half goes on alone (R44). -/
def State.recordDefer (s : State) (kind : DeferKind) (o : FM) (ea : Nat → Word64) (data : Nat → Nat) (ls good : List Nat) :
    State :=
  let new := good.map fun l => ({ lane := l, va := ea l, data := data l } : DeferLane)
  let e : Deferred :=
    { kind := kind, lanes := mergeLanes ((s.me.recording.map (·.lanes)).getD []) new, scope := o.scope.toNat,
      ord := o.ord.toNat, size := o.size.toNat, space := o.space.toNat, mop := o.mop.toNat, unsigned := o.mq.getLsbD 0 }
  if good.length < ls.length then { s with me := { s.me with recording := some e } }.advance
  else { s with me := { s.me with deferred := s.me.deferred ++ [e], recording := none } }.advance

/-- ST (R117, R129). -/
def execSt (o : FM) (s : State) : Host.Outcome State Fault Refusal :=
  checked (.st o) s fun s =>
    let n := sizeBytes o.size.toNat
    let ls := lanesOf (s.active o.guard)
    let ea := s.ea o n
    let data := s.laneData o.d.toNat n
    if o.defer && s.me.deferBad then s.illegal
    else s.withPlaces (needOf o false true) ls ea true (fun _ _ => none) fun s xs =>
      if o.defer then s.recordDefer .st o ea data ls (xs.map (·.1))
      else if s.me.levels.isEmpty then
        let need := needOf o false true
        s.plainStore n o.scope.toNat (o.mq.toNat / 2) (o.ord == 2) need.acc need.sizeCode ea data xs
      else s.txStore n (o.mq.toNat / 2) data xs

/-! ## Prefetch (R123) -/

/-- PF of one lane: dropped unless its address is aligned, translated and readable. A line for L1 that its home slice lacks is
asked for on behalf of no register. -/
def State.prefetch (s : State) (level n : Nat) (a : Word64) : State :=
  if a.toNat % n ≠ 0 then s
  else match s.xlate a.toNat with
    | .hit e =>
      let u := e.phys a.toNat
      if e.r && e.mt == 0 && isHbm u then
        let key := s.pageKey s.ctx.key s.ctx.codeKey e
        let r : Req := { id := s.nextId, part := s.me.id, kind := .prefetch, addr := u, size := 1, key := key, scope := 0,
                         harvest := s.ctx.harvest, hedge := s.ctx.hedge }
        if s.needsFill s.here (if level = 0 then 0 else 2) u then
          if level = 0 then (s.seat r).getD s else s.askLine s.mine u
        else if level = 0 && !s.isPoisoned u n then (s.readAt s.mine s.here 0 key u 1).1
        else s
      else s
    | _ => s

/-- PF (R123). -/
def execPf (o : FM) (s : State) : Host.Outcome State Fault Refusal :=
  checked (.pf o) s fun s =>
    let n := sizeBytes o.size.toNat
    let s1 := if o.space = 4 then
        (lanesOf (s.active o.guard)).foldl (fun t l => t.prefetch (o.mq.toNat % 4) n (s.ea o n l)) s
      else s
    s1.advance

end Sys2Proof.Machine
end

