-- ==== Sys2Proof/Machine/Atomics.lean ====
section
/-! DEFINITION. Atomics (05_memory_ops.md, R125 to R128): at issue their lanes become requests, which ACCESS_PERFORMED and
MISS_FILL perform one by one. -/

namespace Sys2Proof.Machine

/-- The new value of an atomic (R126), with the FP32 operations of the floating chapter. -/
def atomNew (mop n : Nat) (unsigned : Bool) (old b c : Nat) : Nat :=
  atomicNew atomFadd atomFmin atomFmax mop n unsigned old b c

/-- Operand b, or the compare value of .cas, and the swap value of .cas (R125). -/
def State.atomOperand (s : State) (d size : Nat) (mop l : Nat) : Nat × Nat :=
  let n := size / 4
  let w (r : Nat) : Nat := if n = 2 then (s.rvp r l).toNat else (s.rv r l).toNat
  (w d, if mop = 7 then w (d + n) else 0)

/-- One indivisible read, modify and write by a core at the location's execution point, with the old value: no copy of
the line is left in a sector (R252, R315). -/
def State.atomicAt (s : State) (w : Alloc) (core key a size : Nat) (f : Nat → Nat) : State × Nat :=
  let s1 := if isHbm a then (s.flushL1 core (a / 128) true).recallBut none (a / 128) else s
  let old := leNat (s1.homeRead key a size)
  (s1.pointWrite w core 2 key a (leBytes size (f old)), old)

/-- An atomic of a lane is performed, with the release and the acquire of its ordering qualifier (R128, R249), and its
old value and poison become its share of the word's result. -/
def State.performAtomic (s : State) (mop : Nat) (unsigned : Bool) (dst : Option Nat) (r : Req) : State :=
  let p := s.getPart r.part
  let core := s.coreOfPart p
  let level := s.levelOf p r.scope
  let s1 := if r.rel then s.releaseTo core level (r.addr / 128) else s
  let s2 := if r.acq then s1.acquire core level (some (r.addr / 128)) else s1
  let (s3, old) := s2.atomicAt r.alloc core r.key r.addr r.size fun v => atomNew mop (8 * r.size) unsigned v r.data r.data2
  let ws := match dst with | some d => loadWrites d r.size r.lane old false | none => []
  s3.updPart r.part fun p => p.answer r ws (s.poisonAt r)

/-- A write of a part is performed: a release first performs what precedes it (R249). -/
def State.performWrite (s : State) (r : Req) : State :=
  let p := s.getPart r.part
  let core := s.coreOfPart p
  let level := s.levelOf p r.scope
  let s1 := if r.rel then s.releaseTo core level (r.addr / 128) else s
  let s2 := s1.pointWrite r.alloc core level r.key r.addr (leBytes r.size r.data)
  if isHbm r.addr && level < 2 then s2 else s2.replaceSectors r.id r.addr r.size

/-- A request of a part is performed at its point, by its kind. -/
def State.performReq (s : State) (r : Req) : State :=
  match r.kind with
  | .read .. => s.serveRead r
  | .write => s.performWrite r
  | .atomic mop u dst _ => s.performAtomic mop u dst r
  | .prefetch => (s.readAt r.alloc (s.coreOfPart (s.getPart r.part)) 0 r.key r.addr 1).1
  | .ask watch ext => s.serveAsk r watch ext
  | .fence => s

/-- Why an atomic's lanes, or a store's, are not sent yet: a fence or an acquire of the part (R131), its own earlier reads
of the bytes (R245), or a peer with as many requests as may be outstanding to it (R376, R378). -/
def State.sendWait (s : State) (xs : List Spot) (n : Nat) : Option Stall :=
  if s.me.fenced then some .fence
  else if s.readsBefore xs n || xs.any fun x => s.planeFull x then some .hold
  else none

/-- The pass of each lane of an atomic: as many lower lanes name its location (R128). -/
def passOf (xs : List (Nat × Spot)) (x : Nat × Spot) : Nat := (xs.filter fun y => y.1 < x.1 && y.2.ua == x.2.ua).length

/-- The requests of an atomic's lanes leave in passes, each for its execution point, where a lane's operation is indivisible
(R128). The old values make one lane result. -/
def State.sendAtomics (s : State) (d : Option Nat) (opd size mop : Nat) (unsigned : Bool) (ord scope acc : Nat)
    (ea : Nat → Word64) (xs : List (Nat × Spot)) : State :=
  let id := s.nextId
  let req (x : Nat × Spot) : Req :=
    let o := s.atomOperand opd size mop x.1
    let r := s.request (.atomic mop unsigned d id) id size scope 0 (2 ≤ ord) acc (if size = 4 then 2 else 3) ea x o.1 o.2
    { r with acq := ord % 2 = 1, pass := passOf xs x }
  let s1 := s.sendReqs (xs.map req)
  if d.isNone || xs.isEmpty then s1 else s1.emitLoad id [] 0 xs.length none

/-- ATOM and RED once their lanes have been translated. -/
def State.atomics (s : State) (o : FM) (ret : Bool) (ea : Nat → Word64) (xs : List (Nat × Spot)) : State :=
  let n := sizeBytes o.size.toNat
  match s.sendWait (xs.map (·.2)) n with
  | some w => s.stall w
  | none =>
    (s.sendAtomics (if ret then some o.d.toNat else none) o.d.toNat n o.mop.toNat (o.mq.getLsbD 0) o.ord.toNat
      o.scope.toNat (needOf o true true).acc ea xs).advance

/-- ATOM (R128). -/
def execAtom (o : FM) (s : State) : Host.Outcome State Fault Refusal :=
  checked (.atom o) s fun s =>
    if !s.me.levels.isEmpty then s.hwAbort 5
    else
      let ea := s.ea o (sizeBytes o.size.toNat)
      s.withPlaces (needOf o true true (some o.mop.toNat)) (lanesOf (s.active o.guard)) ea true (fun _ _ => none)
        fun s xs => s.atomics o true ea xs

/-- What a deferred RED records for a lane: its operand; .cas and .exch are not RED's. -/
def State.redData (s : State) (o : FM) (l : Nat) : Nat :=
  (s.atomOperand o.d.toNat (sizeBytes o.size.toNat) o.mop.toNat l).1

/-- RED (R128, R129). -/
def execRed (o : FM) (s : State) : Host.Outcome State Fault Refusal :=
  checked (.red o) s fun s =>
    if !s.me.levels.isEmpty then s.hwAbort 5
    else if o.defer && s.me.deferBad then s.illegal
    else
      let ls := lanesOf (s.active o.guard)
      let ea := s.ea o (sizeBytes o.size.toNat)
      s.withPlaces (needOf o true true (some o.mop.toNat)) ls ea true (fun _ _ => none) fun s xs =>
        if o.defer then s.recordDefer .red o ea (s.redData o) ls (xs.map (·.1)) else s.atomics o false ea xs

end Sys2Proof.Machine
end

