-- ==== Sys2Proof/Machine/Control.lean ====
section
/-! DEFINITION. Control instructions, masks and system registers (03_control.md, R68 to R90). -/

namespace Sys2Proof.Machine

/-- A control word whose effect moves on by itself. -/
def plain (i : Instr) (s : State) (k : State → State) : Host.Outcome State Fault Refusal := checked i s k

/-- NOP (R87). -/
def execNop (o : FX) (s : State) : Host.Outcome State Fault Refusal := plain (.nop o) s fun s => s.advance

/-- LPAD reached by fall-through or by a direct branch (R73). -/
def execLpad (o : FX) (s : State) : Host.Outcome State Fault Refusal := plain (.lpad o) s fun s => s.advance

/-! ## Branches (R69 to R72, R75) -/

/-- The target of a B word (R37). -/
def State.target (s : State) (o : FB) : Word64 := s.me.pc + 8 * o.off.signExtend 64

/-- The slices that a conditional word takes, and the lanes of those whose lanes disagree (R69). -/
def State.decide (s : State) (o : FB) : BitVec 8 × LaneMask :=
  let c := s.cond o.guard
  let ls := lanesOf s.present
  if !o.guard.ge then (s.me.slices, 0)
  else match o.q.toNat % 4 with
    | 1 => (if ls.any c then s.me.slices else 0, 0)
    | 2 => (if ls.all c then s.me.slices else 0, 0)
    | _ =>
      (sliceMask (s.me.sliceList.filter fun i => (sliceLanes i).all c),
       maskOfList ((s.me.sliceList.filter fun i => (sliceLanes i).any c && !(sliceLanes i).all c).flatMap sliceLanes))

/-- Slices that take a branch go to the target with their stacks pushed or not; the others go to the next word. -/
def State.branch (s : State) (take : BitVec 8) (target : Word64) (push : Bool) : State :=
  let next := s.me.pc + 8
  let st := if push then .ret next :: s.me.stack else s.me.stack
  let yes : Split := { slices := take, pc := target, stack := st }
  let no : Split := { slices := s.me.slices &&& ~~~take, pc := next, stack := s.me.stack }
  if no.slices = 0 then s.scatter [yes]
  else if take = 0 then s.scatter [no]
  else if lowestSlice take < lowestSlice no.slices then s.scatter [yes, no] else s.scatter [no, yes]

/-- BR (R69, R70). -/
def execBr (o : FB) (s : State) : Host.Outcome State Fault Refusal :=
  plain (.br o) s fun s =>
    let (take, bad) := s.decide o
    if bad ≠ 0 then s.raise { code := 6, lanes := bad } else s.branch take (s.target o) false

/-- CALL (R69, R75); the depth comes before everything else (R76). -/
def execCall (o : FB) (s : State) : Host.Outcome State Fault Refusal :=
  plain (.call o) s fun s =>
    let (take, bad) := s.decide o
    if s.me.stack.length = 255 then s.illegal
    else if bad ≠ 0 then s.raise { code := 6, lanes := bad }
    else s.branch take (s.target o) true

/-- BRG (R72). -/
def execBrg (o : FB) (s : State) : Host.Outcome State Fault Refusal :=
  plain (.brg o) s fun s =>
    if (s.rg o.d.toNat == 0) == o.q.getLsbD 0 then s.jump (s.target o) else s.advance

/-! ## Reads by control words (R74, R207) -/

/-- A read of the whole part from global memory at device scope: `mem.sd[va, n]`. A page fault parks the part whole. -/
def State.sdRead (s : State) (va : Word64) (n sizeCode : Nat) (k : State → Nat → State) : State :=
  let need : Need := { space := 4, size := n, r := true, w := false, scope := 3, sizeCode := sizeCode }
  let t : TrapRec := { code := 8, acc := need.acc, size := sizeCode, addr := va, lanes := s.present }
  if va.toNat % n ≠ 0 then s.raise { t with aux := 1 }
  else match s.vaPlace need va.toNat with
    | .walk a => (s.startWalk a).stall .walk
    | .hold => s.stall .hold
    | .fault 7 aux => (s.clearWalkFault va.toNat).parkWhole t (va.toNat / 4096) aux
    | .fault c aux => (s.clearWalkFault va.toNat).raise { t with code := c, aux := aux }
    | .spot x =>
      if s.isPoisoned x.ua n then s.raise { t with code := 0x0B }
      else if s.me.fenced || s.ownedUnit 0 x.ua n then s.stall .fence
      else if (s.heldByOther s.me.id x.ua n false).isSome then s.stall .hold
      else if s.needsFill s.here 2 x.ua then (s.askLine s.mine x.ua).stall .missTable
      else
        let (s1, bs) := s.pointRead { s.mine with critical := x.critical } s.here 2 x.key x.ua n
        k s1 (leNat ((overlay s.me.pending x.ua bs).zipIdx.map fun (b, i) => s.me.txByte (x.ua + i) b))

/-- Eight bytes of a record read with acquire order. -/
def State.sdRead8 (s : State) (va : Word64) (k : State → Word64 → State) : State :=
  s.sdRead va 8 3 fun s x => k s (BitVec.ofNat 64 x)

/-- The check of the landing pad at a target (R73): a fetch that fails parks or traps at the word in issue. -/
def State.landing (s : State) (target : Word64) (tag : BitVec 12) (k : State → State) : State :=
  let (s1, f) := s.fetch target
  match f with
  | .word w =>
    if bits w.toNat 63 56 ≠ 9 then s1.trapAux 5 1
    else if bits w.toNat 19 8 ≠ tag.toNat then s1.trapAux 5 2
    else k s1
  | o => s1.fetchFail o target false

/-- The checks of several targets in turn. -/
def State.landAll (s : State) (tag : BitVec 12) (k : State → State) : List Word64 → State
  | [] => k s
  | a :: as => s.landing a tag fun s => s.landAll tag k as

/-- A table entry's target (R74). -/
def State.tableTarget (s : State) (table i : Word64) (k : State → Word64 → State) : State :=
  s.sdRead (table + 4 * i) 4 2 fun s x => k s (s.ctx.entry + 8 * (BitVec.ofNat 32 x).signExtend 64)

/-- JT (R74). -/
def execJt (o : FX) (s : State) : Host.Outcome State Fault Refusal :=
  plain (.jt o) s fun s =>
    let i := s.rg o.a.toNat
    if (s.rg o.c.toNat).ule i then s.advance
    else s.tableTarget (s.rg o.b.toNat) i fun s t => s.landing t o.qual fun s => s.jump t

/-- The targets of a list of slices with their indices, each table entry read in turn. -/
def State.slotTargets (s : State) (table count : Word64) (k : State → List (Nat × Word64) → State) :
    List (Nat × Word32) → List (Nat × Word64) → State
  | [], out => k s out
  | (sl, i) :: rest, out =>
    if count.ule (i.zeroExtend 64) then s.slotTargets table count k rest (out ++ [(sl, s.me.pc + 8)])
    else s.tableTarget table (i.zeroExtend 64) fun s t => s.slotTargets table count k rest (out ++ [(sl, t)])

/-- Slices grouped by target, in the order of their lowest slice. -/
def groupTargets (xs : List (Nat × Word64)) : List (BitVec 8 × Word64) :=
  (xs.foldl (fun (a : List Word64) x => if a.contains x.2 then a else a ++ [x.2]) []).map fun t =>
    (sliceMask ((xs.filter fun x => x.2 == t).map (·.1)), t)

/-- JTV (R74). DESIGN CHOICE (log 44): the lanes of every slice are compared before any entry is read; R74 orders one
slice's comparison before its own read only. -/
def execJtv (o : FX) (s : State) : Host.Outcome State Fault Refusal :=
  plain (.jtv o) s fun s =>
    let v (l : Nat) := s.rv o.a.toNat l
    let bad := s.me.sliceList.filter fun i => (sliceLanes i).any fun l => v l != v (4 * i)
    if !bad.isEmpty then s.raise { code := 6, lanes := maskOfList (bad.flatMap sliceLanes) }
    else
      let next := s.me.pc + 8
      s.slotTargets (s.rg o.b.toNat) (s.rg o.c.toNat) (fun s ts =>
        let gs := groupTargets ts
        s.landAll o.qual (fun s => s.scatter (gs.map fun (m, t) => { slices := m, pc := t, stack := s.me.stack }))
          ((gs.map (·.2)).filter (· != next))) (s.me.sliceList.map fun i => (i, v (4 * i))) []

/-- CALLI (R76). -/
def execCalli (o : FX) (s : State) : Host.Outcome State Fault Refusal :=
  plain (.calli o) s fun s =>
    let t := s.rg o.a.toNat
    if t.toNat % 8 ≠ 0 || s.me.stack.length = 255 then s.illegal
    else s.landing t o.qual fun s =>
      { s with me := { s.me with pc := t, stack := .ret (s.me.pc + 8) :: s.me.stack } }

/-- RET (R77, R207). -/
def execRet (o : FX) (s : State) : Host.Outcome State Fault Refusal :=
  plain (.ret o) s fun s =>
    match s.me.stack with
    | [] => s.illegal
    | .ret a :: rest => { s with me := { s.me with pc := a, stack := rest } }
    | .trap slot :: rest =>
      s.sdRead8 (slot + 40) fun s resume => s.sdRead8 (slot + 48) fun s s62 => s.sdRead8 (slot + 56) fun s s63 =>
        if resume.toNat % 8 ≠ 0 then s.illegal
        else
          let s1 := s.acquire s.here 2 none
          { s1 with me := { ((s1.me.setG 62 s62).setG 63 s63) with pc := resume, stack := rest } }

/-- REGANG (R79). -/
def execRegang (o : FX) (s : State) : Host.Outcome State Fault Refusal :=
  plain (.regang o) s fun s => s.afterResults fun s =>
    if !s.me.levels.isEmpty then s.illegal
    else
      let s1 := { s with me := { s.me with state := .parked (.regang ((s.rg o.a.toNat).truncate 8)) } }
      s1.rendezvous s.gang.id

/-- EXIT (R81). -/
def execExit (o : FX) (s : State) : Host.Outcome State Fault Refusal :=
  plain (.exit o) s fun s => s.afterResults fun s =>
    if !s.me.levels.isEmpty || s.me.inFurrow then s.illegal else s.endPart

/-- TRAP (R85). -/
def execTrap (o : FX) (s : State) : Host.Outcome State Fault Refusal :=
  plain (.trap o) s fun s => s.afterResults fun s => s.trapAux (0x20 + o.qual.toNat % 16) (o.qual.toNat % 16)

/-- BRK (R86). -/
def execBrk (o : FX) (s : State) : Host.Outcome State Fault Refusal :=
  plain (.brk o) s fun s => s.afterResults fun s => if s.gang.tvEn then s.trapAux 0x2F 0xFF else s.advance

/-! ## Masks and election (R82) -/

/-- MASKRD (R82). -/
def execMaskrd (o : FX) (s : State) : Host.Outcome State Fault Refusal :=
  plain (.maskrd o) s fun s => s.putQ o.d.toNat (lanesOf (s.active o.guard)) fun l => ((s.rg o.a.toNat).getLsbD l, 0)

/-- MASKWR (R82). -/
def execMaskwr (o : FX) (s : State) : Host.Outcome State Fault Refusal :=
  plain (.maskwr o) s fun s =>
    (s.setG o.d.toNat ((maskOfList ((lanesOf (s.active o.guard)).filter (s.rq o.a.toNat))).zeroExtend 64)).advance

/-- ELECT (R82). -/
def execElect (o : FX) (s : State) : Host.Outcome State Fault Refusal :=
  plain (.elect o) s fun s =>
    match lanesOf (s.active o.guard) with
    | [] => (s.setG o.a.toNat (BitVec.allOnes 64)).advance
    | m :: ls => ((s.putQ o.d.toNat (m :: ls) fun l => (l == m, 0))).setG o.a.toNat (BitVec.ofNat 64 m)

/-! ## System registers (R22, R27, R28, R83, R84) -/

/-- SREAD (R83). -/
def execSread (o : FX) (s : State) : Host.Outcome State Fault Refusal :=
  plain (.sread o) s fun s =>
    if o.a = 0 then s.putVP o.d.toNat (lanesOf s.me.act) fun l => (BitVec.ofNat 64 (s.gang.wid + l), 0)
    else (s.setG o.d.toNat (s.sysreg o.a.toNat)).advance

/-- SWRITE to FFLAGS (R22, R27). -/
def execSwriteFflags (o : FX) (s : State) : Host.Outcome State Fault Refusal :=
  plain (.swriteFflags o) s fun s =>
    let x := s.rg o.a.toNat
    if x.toNat < 2 ^ 6 then { s with gang := { s.gang with fflags := x.truncate 6 } }.advance else s.illegal

/-- SWRITE to FMODE (R22, R84). -/
def execSwriteFmode (o : FX) (s : State) : Host.Outcome State Fault Refusal :=
  plain (.swriteFmode o) s fun s =>
    let x := s.rg o.a.toNat
    if x.toNat < 2 ^ 3 then { s with gang := { s.gang with fmode := x.truncate 3 } }.advance else s.illegal

/-- SWRITE to TRAPVEC (R22, R84). -/
def execSwriteTrapvec (o : FX) (s : State) : Host.Outcome State Fault Refusal :=
  plain (.swriteTrapvec o) s fun s =>
    let x := s.rg o.a.toNat
    if x.toNat < 2 ^ 57 && bits x.toNat 2 1 = 0 then
      { s with gang := { s.gang with tvAddr := BitVec.ofNat 54 (x.toNat / 8), tvEn := x.getLsbD 0 } }.advance
    else s.illegal

/-- SWRITE to PRIVHWM (R28, R83, R221): a pool that runs empty parks the part. -/
def execSwritePrivhwm (o : FX) (s : State) : Host.Outcome State Fault Refusal :=
  plain (.swritePrivhwm o) s fun s =>
    let n := (s.rg o.a.toNat).toNat % 2 ^ 32
    if n ≤ s.gang.hwm then s.advance
    else if s.gang.privLimit < n then s.trapAux 9 0
    else
      let (s1, r) := s.grow ((n + 127) / 128 * 128)
      match r with
      | none => s1.advance
      | some (va, aux) => s1.parkWhole { code := 7, addr := BitVec.ofNat 64 va } (va / 4096) aux

/-- SWRITE that names a read-only register, which is found at step 6 of R50 (R22); of a number that names none the bits
of the word are at fault, at step 2 (R402). -/
def execSwriteReadOnly (o : FX) (s : State) : Host.Outcome State Fault Refusal :=
  if o.d.toNat < 16 then plain (.swriteReadOnly o) s fun s => s.trapAux 1 7
  else if s.me.id = 0 then .fault .noPart else .next (s.trapAux 1 3)

/-- A word whose opcode the opcode map does not assign (R40). -/
def execUnassignedOpcode (_op : BitVec 8) (s : State) : Host.Outcome State Fault Refusal :=
  if s.me.id = 0 then .fault .noPart else .next (s.trapAux 1 1)

/-! ## Full allotment (R88) -/

/-- ACQUIRE (R88). DEDUCED (log 48): only the part that issues it parks; a part of the gang that issues it after the grant
passes it, so that the other parts go on meanwhile. -/
def execAcquire (o : FX) (s : State) : Host.Outcome State Fault Refusal :=
  plain (.acquire o) s fun s => s.afterResults fun s =>
    if s.gang.full then s.advance
    else if !s.me.levels.isEmpty then s.illegal
    else
      let asked := s.core.acquires.any fun a => a.gang == s.gang.id
      { s with
        me := { s.me with state := .parked .acquire }
        core := { s.core with
          acquires := if asked then s.core.acquires else s.core.acquires ++ [{ gang := s.gang.id, harvest := s.ctx.harvest }] } }

end Sys2Proof.Machine
end

