-- ==== Sys2Proof/Machine/Formats.lean ====
section
/-! DEFINITION. Element formats, scale codes, encoding and block scales (16_numbers.md, R288 to R296). -/

namespace Sys2Proof.Machine

/-- The floating format of an FMT code; none for I8 and I4 (R288). -/
def ffmtOf (f : Nat) : Option FFmt :=
  match f with
  | 0 => some fmt32 | 1 => some fmt16 | 2 => some fmtB16 | 3 => some fmtE5M2 | 4 => some fmtE4M3 | 5 => some fmtF4
  | _ => none

/-- The FMT code of a TY code among the narrow types (R36, R288). -/
def fmtOfTy (ty : Nat) : Nat :=
  match ty with
  | 4 => 0 | 5 => 1 | 6 => 2 | 7 => 3 | 8 => 4 | 9 => 5 | 10 => 6 | _ => 7

/-- A number of `n` bits as two's complement. -/
def sInt (n x : Nat) : Int := if 2 ^ (n - 1) ≤ x % 2 ^ n then ((x % 2 ^ n : Nat) : Int) - 2 ^ n else ((x % 2 ^ n : Nat) : Int)

/-- An integer as a value. -/
def ofInt (z : Int) : FVal := .fin (z < 0) z.natAbs 0

/-- value(e, FMT) (R290). -/
def valueOf (f x : Nat) : FVal :=
  match ffmtOf f with
  | some g => g.decode x
  | none => ofInt (sInt (fmtBits f) x)

/-- x × 2^k. -/
def scaleF (x : FVal) (k : Int) : FVal := match x with | .fin n m e => .fin n m (e + k) | y => y

/-- An integer clamped to `n` bits, as its low bits, with SAT when it changes. -/
def clampInt (n : Nat) (z : Int) : Nat × Bool :=
  let lo : Int := -(2 ^ (n - 1)); let hi : Int := 2 ^ (n - 1) - 1
  let c := if z < lo then lo else if hi < z then hi else z
  ((c % 2 ^ n).toNat, c != z)

/-- encode(x, FMT, rm, sat) (R293). -/
def encodeTo (f : Nat) (x : FVal) (rm : Nat) (sat : Bool) : Nat × BitVec 6 :=
  match ffmtOf f with
  | some g => g.encode x rm sat false
  | none =>
    let n := fmtBits f
    match x with
    | .nan _ => (0, flagNV)
    | .inf neg => ((clampInt n (if neg then -(2 ^ n) else 2 ^ n)).1, flagSAT ||| flagNX)
    | .fin neg m e =>
      let (z, ex) := toIntF rm neg m e
      let (c, s) := clampInt n z
      (c, (if s then flagSAT else 0) ||| if ex && !s then 0 else flagNX)

/-- The element as it reads under a scale code (R291, R296): code 0x00 gives +0, 0xFF the NaN; a signalling NaN under
another code stays one, so that what it is turned into sets NV (R293). -/
def underCode (f x code : Nat) : FVal :=
  if code = 0 then .fin false 0 0
  else if code = 0xFF then .nan false
  else scaleF (valueOf f x) ((code : Int) - 127)

/-- EMAX(FMT) (R294). -/
def emaxOf (f : Nat) : Int :=
  match f with | 1 => 15 | 2 => 127 | 3 => 15 | 4 => 8 | 5 => 2 | 6 => 6 | 7 => 2 | _ => 127

/-- The largest magnitude of the finite values of a list, as m × 2^e. -/
def amax (xs : List FVal) : Nat × Int :=
  xs.foldl (fun a x => match x with
    | .fin _ m e => if ltF (.fin false a.1 a.2) (.fin false m e) then (m, e) else a
    | _ => a) (0, 0)

/-- block_scale(X, FMT), with UF for the clamp (R294, R295). -/
def blockScale (f : Nat) (xs : List FVal) : Nat × BitVec 6 :=
  if xs.any isNan then (0xFF, 0)
  else
    let a := amax xs
    if a.1 = 0 then ((if xs.any fun x => match x with | .inf _ => true | _ => false then 0x7F else 0), 0)
    else
      let c := floorLog a.1 a.2 - emaxOf f + 127
      if c < 1 then (1, flagUF)
      else
        let (e, fl) := encodeTo f (scaleF (.fin false a.1 a.2) (127 - c)) 0 false
        let _ := e
        if fl &&& (flagOF ||| flagSAT) != 0 then (c.toNat + 1, 0) else (c.toNat, 0)

/-- An element written under a chosen code (R294). -/
def encodeUnder (f code : Nat) (x : FVal) (sat : Bool) : Nat × BitVec 6 :=
  if code = 0 then encodeTo f (.fin (signF x) 0 0) 0 sat
  else if code = 0xFF then
    (match ffmtOf f with | some g => (g.nanEnc, if g.mb = 1 then flagNV else 0) | none => (0, flagNV))
  else encodeTo f (scaleF x (127 - (code : Int))) 0 sat

end Sys2Proof.Machine
end

