-- ==== Sys2Proof/Machine/Floating.lean ====
section
/-! DEFINITION. FP32 and packed 16-bit arithmetic, comparison, classification, rounding (04_lane.md, R99 to R103). -/

namespace Sys2Proof.Machine

/-- The direction of a word: RND, or FMODE.RM for RND 0 (R36, R99). -/
def State.rm (s : State) (o : FV3) : Nat :=
  if o.rnd = 0 then s.gang.fmode.toNat % 4 else o.rnd.toNat - 1

/-- FMODE.FTZ. -/
def State.ftz (s : State) : Bool := s.gang.fmode.getLsbD 2

/-- The FP32 operands of a lane. -/
def State.fa (s : State) (o : FV3) (l : Nat) : FVal := f32 s.ftz (s.rv o.a.toNat l)
def State.fb (s : State) (o : FV3) (l : Nat) : FVal := f32 s.ftz (s.opB o l)
def State.fc (s : State) (o : FV3) (l : Nat) : FVal := f32 s.ftz (s.rv o.c.toNat l)

/-- One rounding of an exact result, with the flags of both. -/
def State.fin32 (s : State) (o : FV3) (x : FVal × BitVec 6) : Word32 × BitVec 6 :=
  let (w, f) := toF32 x.1 (s.rm o) o.sat s.ftz
  (w, f ||| x.2)

/-- a × b + c with one rounding (R100): every invalid product sets NV. -/
def fmaF (rm : Nat) (a b c : FVal) : FVal × BitVec 6 :=
  let (p, f) := mulF a b
  let (x, g) := addF rm p c
  (x, f ||| g ||| nvOf [c])

/-- FADD (R100). -/
def execFadd (o : FV3) (s : State) : Host.Outcome State Fault Refusal :=
  laneV (.fadd o) o.guard o.d (fun s l => s.fin32 o (addF (s.rm o) (s.fa o l) (s.fb o l))) s

/-- FSUB (R100). -/
def execFsub (o : FV3) (s : State) : Host.Outcome State Fault Refusal :=
  laneV (.fsub o) o.guard o.d (fun s l => s.fin32 o (addF (s.rm o) (s.fa o l) (negF (s.fb o l)))) s

/-- FMUL (R100). -/
def execFmul (o : FV3) (s : State) : Host.Outcome State Fault Refusal :=
  laneV (.fmul o) o.guard o.d (fun s l => s.fin32 o (mulF (s.fa o l) (s.fb o l))) s

/-- FFMA (R100). -/
def execFfma (o : FV3) (s : State) : Host.Outcome State Fault Refusal :=
  laneV (.ffma o) o.guard o.d (fun s l => s.fin32 o (fmaF (s.rm o) (s.fa o l) (s.fb o l) (s.fc o l))) s

/-- FMIN (R100). -/
def execFmin (o : FV3) (s : State) : Host.Outcome State Fault Refusal :=
  laneV (.fmin o) o.guard o.d
    (fun s l => ((toF32 (minF (s.fa o l) (s.fb o l)) 0 false false).1, nvOf [s.fa o l, s.fb o l])) s

/-- FMAX (R100). -/
def execFmax (o : FV3) (s : State) : Host.Outcome State Fault Refusal :=
  laneV (.fmax o) o.guard o.d
    (fun s l => ((toF32 (maxF (s.fa o l) (s.fb o l)) 0 false false).1, nvOf [s.fa o l, s.fb o l])) s

/-- The condition codes of FSET, with NV for an ordered condition on a quiet NaN (R101). -/
def floatCond (cc : Nat) (a b : FVal) : Bool × BitVec 6 :=
  let un := isNan a || isNan b
  let nv := nvOf [a, b]
  let ord := if un then flagNV else nv
  match cc with
  | 0 => (!un && !ltF a b && !ltF b a, nv)
  | 1 => (un || ltF a b || ltF b a, nv)
  | 2 => (!un && ltF a b, ord)
  | 3 => (!un && !ltF b a, ord)
  | 4 => (!un && ltF b a, ord)
  | 5 => (!un && !ltF a b, ord)
  | 6 => (!un, nv)
  | _ => (un, nv)

/-- FSET (R101). -/
def execFset (o : FV3) (s : State) : Host.Outcome State Fault Refusal :=
  laneQ (.fset o) o.guard o.d (fun s l => floatCond o.sub.toNat (s.fa o l) (s.fb o l)) s

/-- The class mask of R102. -/
def classMask (x : Word32) : Nat :=
  match fmt32.decode x.toNat with
  | .nan sig => if sig then 8 else 9
  | .inf neg => if neg then 0 else 7
  | .fin neg m _ =>
    if m = 0 then (if neg then 3 else 4)
    else if m < 2 ^ 23 then (if neg then 2 else 5)
    else if neg then 1 else 6

/-- FCLASS (R102). -/
def execFclass (o : FV3) (s : State) : Host.Outcome State Fault Refusal :=
  laneV (.fclass o) o.guard o.d (fun s l => (BitVec.ofNat 32 (2 ^ classMask (s.rv o.a.toNat l)), 0)) s

/-- An integral value in a direction; a zero keeps the sign of the input (R102). -/
def integral (rm : Nat) (x : FVal) : FVal :=
  match x with
  | .fin neg m e => .fin neg (toIntF rm neg m e).1.natAbs 0
  | y => y

/-- FRND (R102). -/
def execFrnd (o : FV3) (s : State) : Host.Outcome State Fault Refusal :=
  laneV (.frnd o) o.guard o.d (fun s l => ((toF32 (integral (s.rm o) (s.fa o l)) 0 false false).1, nvOf [s.fa o l])) s

/-- The 16-bit format of a packed word (R103). -/
def packFmt (o : FV3) : FFmt := if o.ty = 5 then fmt16 else fmtB16

/-- Element k of a packed register. -/
def packElem (o : FV3) (x : Word32) (k : Nat) : FVal := (packFmt o).decode (x.toNat / 2 ^ (16 * k) % 2 ^ 16)

/-- Both elements of a packed result (R103). -/
def packed (o : FV3) (rm : Nat) (f : Nat → FVal × BitVec 6) : Word32 × BitVec 6 :=
  let e (k : Nat) : Nat × BitVec 6 :=
    let (x, g) := f k
    let (n, h) := (packFmt o).encode x rm o.sat false
    (n, g ||| h)
  (BitVec.ofNat 32 ((e 0).1 + 2 ^ 16 * (e 1).1), (e 0).2 ||| (e 1).2)

/-- HADD2 (R103). -/
def execHadd2 (o : FV3) (s : State) : Host.Outcome State Fault Refusal :=
  laneV (.hadd2 o) o.guard o.d (fun s l => packed o (s.rm o) fun k =>
    addF (s.rm o) (packElem o (s.rv o.a.toNat l) k) (packElem o (s.opB o l) k)) s

/-- HMUL2 (R103). -/
def execHmul2 (o : FV3) (s : State) : Host.Outcome State Fault Refusal :=
  laneV (.hmul2 o) o.guard o.d (fun s l => packed o (s.rm o) fun k =>
    mulF (packElem o (s.rv o.a.toNat l) k) (packElem o (s.opB o l) k)) s

/-- HFMA2 (R103). -/
def execHfma2 (o : FV3) (s : State) : Host.Outcome State Fault Refusal :=
  laneV (.hfma2 o) o.guard o.d (fun s l => packed o (s.rm o) fun k =>
    fmaF (s.rm o) (packElem o (s.rv o.a.toNat l) k) (packElem o (s.opB o l) k) (packElem o (s.rv o.c.toNat l) k)) s

end Sys2Proof.Machine
end

