-- ==== Sys2Proof/Machine/Convert.lean ====
section
/-! DEFINITION. Conversions, narrow dot products and element packing (04_lane.md, R104 to R106). -/

namespace Sys2Proof.Machine

/-! ## CVT (R104) -/

/-- Is a TY code an integer type; its width; is it signed (R36)? -/
def tyIsInt (ty : Nat) : Bool := ty < 4 || 10 ≤ ty
def tyWidth (ty : Nat) : Nat :=
  match ty with
  | 0 | 1 | 4 => 32 | 2 | 3 => 64 | 5 | 6 | 13 | 14 => 16 | 9 | 11 => 4 | _ => 8
def tySigned (ty : Nat) : Bool := ty == 0 || ty == 2 || ty == 10 || ty == 11 || ty == 14

/-- The value of a source read from the low bits; FTZ acts on FP32 alone. -/
def cvtSource (ty : Nat) (ftz : Bool) (x : Word64) : FVal :=
  let n := x.toNat % 2 ^ tyWidth ty
  if ty = 4 then f32 ftz (x.truncate 32)
  else if tyIsInt ty then ofInt (if tySigned ty then sInt (tyWidth ty) n else n)
  else valueOf (fmtOfTy ty) n

/-- The range of an integer type. -/
def tyLo (ty : Nat) : Int := loOf (tySigned ty) (tyWidth ty)
def tyHi (ty : Nat) : Int := hiOf (tySigned ty) (tyWidth ty)

/-- An integer clamped to a type's range. -/
def clampTy (ty : Nat) (z : Int) : Int := if z < tyLo ty then tyLo ty else if tyHi ty < z then tyHi ty else z

/-- Integer to integer: .i8 and .i4 always clamp, the others under .sat. -/
def intToInt (ty : Nat) (sat : Bool) (z : Int) : Int × BitVec 6 :=
  if sat || ty = 10 || ty = 11 then (clampTy ty z, if clampTy ty z = z then 0 else flagSAT) else (z, 0)

/-- Float to integer: a NaN gives 0; a value outside the range gives its end; both set NV. -/
def floatToInt (ty rm : Nat) (x : FVal) : Int × BitVec 6 :=
  match x with
  | .nan _ => (0, flagNV)
  | .inf neg => (if neg then tyLo ty else tyHi ty, flagNV)
  | .fin neg m e =>
    let (z, exact) := toIntF rm neg m e
    let c := clampTy ty z
    (c, (if c = z then 0 else flagNV) ||| if exact then 0 else flagNX)

/-- A destination narrower than 32 bits fills the low bits, sign- or zero-extended. -/
def cvtPlace (ty : Nat) (n : Nat) : Word64 :=
  if tyIsInt ty && tySigned ty && tyWidth ty < 32 then ((BitVec.ofInt 32 (sInt (tyWidth ty) n)).zeroExtend 64)
  else BitVec.ofNat 64 (n % 2 ^ tyWidth ty)

/-- CVT of one lane. -/
def convert (dst src rm : Nat) (sat ftz : Bool) (x : Word64) : Word64 × BitVec 6 :=
  let v := cvtSource src ftz x
  if tyIsInt dst then
    let (z, f) := if tyIsInt src then
        (match v with | .fin neg m _ => intToInt dst sat (if neg then -(m : Int) else m) | _ => (0, 0))
      else floatToInt dst rm v
    (cvtPlace dst (z % 2 ^ tyWidth dst).toNat, f)
  else if dst = 4 then
    let (w, f) := toF32 v rm sat ftz
    (w.zeroExtend 64, f)
  else
    let (n, f) := encodeTo (fmtOfTy dst) v rm sat
    (cvtPlace dst n, f)

/-- CVT (R104). -/
def execCvt (o : FV3) (s : State) : Host.Outcome State Fault Refusal :=
  let src (s : State) (l : Nat) : Word64 :=
    if wide (BitVec.ofNat 4 o.c.toNat) then s.rvp o.a.toNat l else (s.rv o.a.toNat l).zeroExtend 64
  let f (s : State) (l : Nat) := convert o.ty.toNat o.c.toNat (s.rm o) o.sat s.ftz (src s l)
  if wide o.ty then laneVP (.cvt o) o.guard o.d f s
  else laneV (.cvt o) o.guard o.d (fun s l => ((f s l).1.truncate 32, (f s l).2)) s

/-! ## Dot products (R105) -/

/-- Element i of `n` bits. -/
def elemAt (n x i : Nat) : Nat := x / 2 ^ (n * i) % 2 ^ n

/-- A sum of exact terms with one rounding (R105): an invalid product sets NV, and so do infinities of opposite sign
where no term is a NaN. DESIGN CHOICE (log 45): a sum of zero takes the sign that adding the terms in turn, C first, gives
it; R105 names none. -/
def sumF (rm : Nat) (ts : List (FVal × BitVec 6)) : FVal × BitVec 6 :=
  let f := ts.foldl (fun a t => a ||| t.2) 0
  if ts.any fun t => isNan t.1 then (.nan false, f)
  else ts.foldl (fun a t => let (x, g) := addF rm a.1 t.1; (x, a.2 ||| g))
    (match ts with | [] => .fin false 0 0 | t :: _ => .fin (signF t.1) 0 0, f)

/-- DP4 and DP8 of one lane, with elements of `n` bits. -/
def dotProduct (o : FV3) (n rm : Nat) (ftz : Bool) (a b c : Word32) : Word32 × BitVec 6 :=
  let is := List.range (32 / n)
  if o.ty = 10 || o.ty = 11 then
    let el (u : Bool) (x : Word32) (i : Nat) : Int :=
      if u then elemAt n x.toNat i else sInt n (elemAt n x.toNat i)
    narrow true o.sat (c.toInt + is.foldl (fun z i => z + el (o.sub.getLsbD 0) a i * el (o.sub.getLsbD 1) b i) 0)
  else
    let v (x : Word32) (i : Nat) := valueOf (fmtOfTy o.ty.toNat) (elemAt n x.toNat i)
    let cv := f32 ftz c
    let (x, f) := sumF rm ((cv, nvOf [cv]) :: is.map fun i => mulF (v a i) (v b i))
    let (w, g) := toF32 x rm o.sat ftz
    (w, f ||| g)

/-- DP4 (R105). -/
def execDp4 (o : FV3) (s : State) : Host.Outcome State Fault Refusal :=
  laneV (.dp4 o) o.guard o.d
    (fun s l => dotProduct o 8 (s.rm o) s.ftz (s.rv o.a.toNat l) (s.opB o l) (s.rv o.c.toNat l)) s

/-- DP8 (R105). -/
def execDp8 (o : FV3) (s : State) : Host.Outcome State Fault Refusal :=
  laneV (.dp8 o) o.guard o.d
    (fun s l => dotProduct o 4 (s.rm o) s.ftz (s.rv o.a.toNat l) (s.opB o l) (s.rv o.c.toNat l)) s

/-! ## Element packing (R106) -/

/-- The element that QPACK writes, under a scale code. -/
def packOne (f code rm : Nat) (sat : Bool) (x : FVal) : Nat × BitVec 6 :=
  let nanE : Nat × BitVec 6 := match ffmtOf f with
    | some g => (g.nanEnc, if g.mb = 1 then flagNV else 0)
    | none => (0, flagNV)
  if code = 0 then (0, nvOf [x])
  else if code = 0xFF || isNan x then (nanE.1, nanE.2 ||| nvOf [x])
  else encodeTo f (scaleF x (127 - (code : Int))) rm sat

/-- The element at a position replaced. -/
def placeElem (n pos e : Nat) (x : Word32) : Word32 :=
  let m : Word32 := BitVec.ofNat 32 ((2 ^ n - 1) * 2 ^ (n * pos))
  (x &&& ~~~m) ||| BitVec.ofNat 32 (e % 2 ^ n * 2 ^ (n * pos))

/-- QPACK (R106). -/
def execQpack (o : FV3) (s : State) : Host.Outcome State Fault Refusal :=
  let f := fmtOfTy o.ty.toNat
  laneV (.qpack o) o.guard o.d (fun s l =>
    let (e, g) := packOne f ((s.opB o l).toNat % 256) (s.rm o) o.sat (s.fa o l)
    (placeElem (fmtBits f) o.sub.toNat e (s.rv o.d.toNat l), g)) s

/-- QUNPK (R106). DESIGN CHOICE (log 45): a signalling NaN sets NV under code 0xFF too, and none under code 0x00. -/
def execQunpk (o : FV3) (s : State) : Host.Outcome State Fault Refusal :=
  let f := fmtOfTy o.ty.toNat
  laneV (.qunpk o) o.guard o.d (fun s l =>
    let e := elemAt (fmtBits f) (s.rv o.a.toNat l).toNat o.sub.toNat
    let code := (s.opB o l).toNat % 256
    let (w, g) := toF32 (underCode f e code) (s.rm o) o.sat s.ftz
    (w, if code = 0 then 0 else g ||| nvOf [valueOf f e])) s

end Sys2Proof.Machine
end

