-- ==== Sys2Proof/Machine/Peer.lean ====
section
/-! DEFINITION. Peer access: RLD, RST and RAT in passes by peer number (05_memory_ops.md, R124), and the export table
(22_fabric_host.md, R371). -/

namespace Sys2Proof.Machine

/-! ## Passes -/

/-- Ask for the page of an own window. -/
def State.askPass (s : State) (n : Need) (a : Word64) : State :=
  s.askWindow (s.ownAsker s.ctx.asid (peerOff a)) (coreDie s.here) s.fabnum s.ctx.asid (peerOff a) (n.acc / 64)

/-- Where a lane's peer access goes. -/
def State.peerPlace (s : State) (n : Need) (a : Word64) : Place :=
  if peerOf a = s.fabnum then
    match s.exportPlace (s.ownAsker s.ctx.asid (peerOff a)) s.fabnum s.ctx.asid (peerOff a) n.r n.w with
    | .spot x => if n.atomic.isSome && x.mt != 0 then .fault 8 6 else .spot x
    | p => p
  else match s.peerFault (peerOf a) s.ctx.asid (peerOff a) n.r n.w with
    | some (c, x) => .fault c x
    | none => .spot { ua := peerAddr (peerOf a) s.ctx.asid (peerOff a), mt := 2 }

/-- Insert without repeats in ascending order. -/
def insertNat (x : Nat) : List Nat → List Nat
  | [] => [x]
  | y :: ys => if x < y then x :: y :: ys else if x = y then y :: ys else y :: insertNat x ys

/-- The passes of a word: the lanes of each peer, smallest peer number first. -/
def peerPasses (ea : Nat → Word64) (ls : List Nat) : List (List Nat) :=
  (ls.foldl (fun ps l => insertNat (peerOf (ea l)) ps) []).map fun p => ls.filter fun l => peerOf (ea l) == p

/-- The trap that lanes take by the checks of R118. With `whole`, those of a pass, it names them all (R124); else the lanes
that took its code. -/
def placesTrap (whole : Bool) (n : Need) (ea : Nat → Word64) (ps : List (Nat × Place)) : Option TrapRec :=
  let all := ps.map (·.1)
  let trap (code aux : Nat) (ls : List Nat) : TrapRec :=
    let ls := if whole then all else ls
    { code := code, aux := aux, acc := n.acc, size := n.sizeCode, lanes := maskOfList ls, addr := ea (ls.headD 0) }
  let bad := all.filter fun l => (ea l).toNat % n.size != 0
  if !bad.isEmpty then some (trap 8 1 bad)
  else
    let fs := ps.filterMap fun (l, p) => match p with | .fault c a => some (l, c, a) | _ => none
    ([8, 9, 10].find? fun c => fs.any fun f => f.2.1 == c).map fun c =>
      let mine := fs.filter fun f => f.2.1 == c
      trap c (mine.headD (0, 8, 0)).2.2 (mine.map (·.1))

/-- The places that a pass performs at. -/
def passSpots (ps : List (Nat × Place)) : List (Nat × Spot) :=
  ps.filterMap fun (l, p) => match p with | .spot x => some (l, x) | _ => none

/-- The passes before the first that traps, and its trap. -/
def splitPasses (n : Need) (ea : Nat → Word64) : List (List (Nat × Place)) → List (List (Nat × Spot)) × Option TrapRec
  | [] => ([], none)
  | p :: ps =>
    match placesTrap true n ea p with
    | some t => ([], some t)
    | none =>
      let (xs, t) := splitPasses n ea ps
      (passSpots p :: xs, t)

/-- Several passes in turn, unless one has to wait. -/
def State.passes (s : State) (k : State → List (Nat × Spot) → Option State) : List (List (Nat × Spot)) → Option State
  | [] => some s
  | xs :: rest => (k s xs).bind fun t => t.passes k rest

/-- Perform a word pass by pass: `k` performs a pass, and a trap in one leaves the earlier ones performed. What would
make a pass wait is met before any pass performs, so that no other word issues while passes remain; meanwhile the part is
Parked (R197). -/
def State.withPasses (s : State) (n : Need) (ls : List Nat) (ea : Nat → Word64) (wait : State → List Spot → Option Stall)
    (k : State → List (Nat × Spot) → Option State) : State :=
  let ps := (peerPasses ea ls).map fun p => p.map fun l => (l, s.peerPlace n (ea l))
  let held := (ps.flatten.filter fun p => p.2 == .hold).map (·.1)
  if !held.isEmpty then
    ((held.foldl (fun s l => s.askPass n (ea l)) s).stall .hold).parkHeld
  else
    let (go, t) := splitPasses n ea ps
    match wait s (go.flatten.map (·.2)) with
    | some w => (s.stall w).parkHeld
    | none =>
      match s.passes k go with
      | none => (s.stall .missTable).parkHeld
      | some s1 =>
        match t with
        | some t => s1.toldOwn.raise t
        | none => s1.advance

/-- RLD (R124). -/
def execRld (o : FM) (s : State) : Host.Outcome State Fault Refusal :=
  checked (.rld o) s fun s =>
    if !s.me.levels.isEmpty then s.hwAbort 5
    else
      let n := sizeBytes o.size.toNat
      let need := needOf o true false
      let ea := s.ea o n
      let acq := o.ord == 1
      s.withPasses need (lanesOf (s.active o.guard)) ea
        (fun s xs => match s.blocked xs n false with
          | some w => some w
          | none => if xs.any s.planeFull then some .hold else none)
        fun s xs => s.loadLanes o.d.toNat n 4 (o.mq.toNat / 2) (o.mq.getLsbD 0) acq need.acc need.sizeCode ea xs

/-- A deferred RST whose lanes wait: for its own window, before its checks are complete. -/
def State.deferHold (s : State) (n : Need) (ea : Nat → Word64) (ps : List (List (Nat × Place))) : Option State :=
  let held := (ps.flatten.filter fun p => p.2 == .hold).map (·.1)
  if held.isEmpty then none else some ((held.foldl (fun s l => s.askPass n (ea l)) s).stall .hold).parkHeld

/-- RST (R124, R129). -/
def execRst (o : FM) (s : State) : Host.Outcome State Fault Refusal :=
  checked (.rst o) s fun s =>
    if !s.me.levels.isEmpty then s.hwAbort 5
    else if o.defer && s.me.deferBad then s.illegal
    else
      let n := sizeBytes o.size.toNat
      let need := needOf o false true
      let ls := lanesOf (s.active o.guard)
      let ea := s.ea o n
      let data := s.laneData o.d.toNat n
      if o.defer then
        let ps := (peerPasses ea ls).map fun p => p.map fun l => (l, s.peerPlace need (ea l))
        match s.deferHold need ea ps, (splitPasses need ea ps).2 with
        | some t, _ => t
        | none, some t => s.toldOwn.raise t
        | none, none => s.recordDefer .rst o ea data ls ls
      else
        s.withPasses need ls ea (fun s xs => s.sendWait xs n)
          fun s xs => some (s.storeLanes n 4 (o.mq.toNat / 2) (o.ord == 2) need.acc need.sizeCode ea data xs)

/-- RAT (R128). -/
def execRat (o : FM) (s : State) : Host.Outcome State Fault Refusal :=
  checked (.rat o) s fun s =>
    if !s.me.levels.isEmpty then s.hwAbort 5
    else
      let n := sizeBytes o.size.toNat
      let need := needOf o true true (some o.mop.toNat)
      let ea := s.ea o n
      s.withPasses need (lanesOf (s.active o.guard)) ea (fun s xs => s.sendWait xs n)
        fun s xs => some (s.sendAtomics (some o.d.toNat) o.d.toNat n o.mop.toNat (o.mq.getLsbD 0) o.ord.toNat 4 need.acc ea xs)

end Sys2Proof.Machine
end

