-- ==== Sys2Proof/Machine/Headers.lean ====
section
/-! DEFINITION. What a LAUNCH packet names (21_launch.md, R349 to R352, R360), the checks of a launch header (R352, R337),
rectangles of cores (R361), and the accesses that engines make for a packet (R405). -/

namespace Sys2Proof.Machine

/-! ## Accesses of the engines (R405, R232) -/

/-- What an engine's access meets. -/
inductive Got (α : Type)
  | got (x : α)
  /-- A page fault: the engine waits for the driver. -/
  | wait (s : State)
  /-- The page is refused, or a right is missing: code and AUX. -/
  | bad (s : State) (code aux : Nat)

/-- The address space in which an engine reads for a queue. -/
structure Space where
  who : Asker
  hedge : Nat
  die : Nat
  asid : Nat
  root : Nat
  key : Nat
  codeKey : Nat
  harvest : Bool
  deriving DecidableEq, Repr, Inhabited

/-- A queue's space: its ASID's root and data key (R387). -/
def State.queueSpace (s : State) (q : Nat) : Space :=
  let a := s.qAsid q
  let e := s.readAsid a
  { who := .queue q, hedge := s.qHedge q, die := bits q 13 13, asid := a, root := e.root, key := e.key,
    codeKey := e.codeKey, harvest := s.qHarvest q }

/-- A copy looks itself at what stands against its accesses; any other engine waits for it (R256, R276, R314). -/
def Space.waits (x : Space) : Bool := match x.who with | .copy _ => false | _ => true

/-- An engine's access whose place is known: it waits for what stands against it there. -/
def State.engineGate (s : State) (x : Space) (a n : Nat) (w : Bool) (e : TlbEntry) : Got TlbEntry :=
  let t := if w then s.yieldAt x.harvest a n else s
  if x.waits && s.homeHeld 0 a n w then .wait t else .got e

/-- Where an engine's access of a space lands, with its rights checked. A page that has been asked for is not looked at
again before the driver's answer (R405). `r` and `w` are the rights asked for, `store` says what the access does. -/
def State.engineSpot (s : State) (x : Space) (va n : Nat) (r w : Bool) (store : Bool := w) : Got TlbEntry :=
  let acc := r.toNat + 2 * w.toNat
  if s.awaited x.who x.asid (va / 4096) then .wait s
  else if s.refusedTo x.who x.asid (va / 4096) then
    .bad { s with refusals := s.refusals.filter fun w => !w.is x.who x.asid (va / 4096) } 8 9
  else match s.translateNow x.root x.asid va with
  | .fault 7 aux => .wait (s.notifyEngine x.who x.hedge x.die x.asid (va / 4096) aux acc)
  | .fault c a => .bad s c a
  | .leaf e =>
    if (r && !e.r) || (w && !e.w) then .bad s 8 2
    else
      match s.beyond x.who x.asid e va r w with
      | some (.fault c a) => .bad { s with refusals := s.refusals.filter (·.who != x.who) } c a
      | some (.spot y) => let f := y.entry.getD e; if r && s.isPoisoned y.ua n then .bad s 11 0 else s.engineGate x y.ua n store f
      | some _ => .wait (s.askWindow x.who x.die s.fabnum x.asid (e.pa + va % 2 ^ e.lg) acc)
      | none => if r && s.isPoisoned (e.phys va) n then .bad s 11 0 else s.engineGate x (e.phys va) n store e

/-- A page of memory type 2 with EXT = 1: accesses to it are of the critical class (R378). -/
def entryCritical (e : Option TlbEntry) : Bool := e.any fun e => e.mt == 2 && e.ext

/-- The key tag of an engine's access (R237). -/
def State.entryKey (s : State) (x : Space) (e : TlbEntry) : Nat := s.pageKey x.key x.codeKey e

/-- An engine's read with acquire of bytes in a space, behind a page. -/
def State.spaceRead (s : State) (x : Space) (e : TlbEntry) (va n : Nat) : State × List Byte :=
  s.engineAcquire (s.entryKey x e) (e.phys va) n (entryCritical (some e)) x.harvest

/-- An engine's write of bytes in a space, behind a page. -/
def State.spaceWrite (s : State) (x : Space) (e : TlbEntry) (va : Nat) (bs : List Byte) : State :=
  s.engineWrite (s.entryKey x e) (e.phys va) bs (entryCritical (some e)) x.harvest

/-- Read bytes for a queue, and go on: `k` with them, `bad` when they cannot be read. -/
def State.engineLoad (s : State) (x : Space) (va n : Nat) (bad : State → State) (k : State → List Byte → State) :
    State :=
  match s.engineSpot x va n true false with
  | .got e =>
    let (t, bs) := s.spaceRead x e va n
    k t bs
  | .wait t => t
  | .bad t _ _ => bad t

/-! ## Structures (R350 to R352, R360) -/

/-- A field of bytes. -/
def field (bs : List Byte) (off n : Nat) : Nat := leNat ((bs.drop off).take n)

/-- A kernel descriptor. -/
structure Kernel where
  entry : Nat
  harvest : Bool
  vpro : Nat
  vfull : Nat
  tiles : Nat
  cim : Nat
  padW : Nat
  padH : Nat
  scr : Nat
  widths : List Nat
  deriving DecidableEq, Repr, Inhabited

/-- Read a kernel descriptor; none for a field outside its range. -/
def kernelOf (b : List Byte) : Option Kernel :=
  let k : Kernel :=
    { entry := field b 0 8, harvest := field b 8 1 = 1, vpro := field b 9 1, vfull := field b 10 1, tiles := field b 11 1,
      cim := field b 12 1, padW := field b 13 1, padH := field b 14 1, scr := field b 16 4,
      widths := (List.range 6).map fun i => field b (20 + i) 1 }
  let n := field b 15 1
  if field b 8 1 ≤ 1 && 1 ≤ k.vpro && k.vpro ≤ k.vfull && k.vfull ≤ 16 && k.tiles ≤ 16 && k.cim ≤ 2 && 1 ≤ k.padW &&
    k.padW ≤ 12 && 1 ≤ k.padH && k.padH ≤ 8 && k.padW * k.padH ≤ 24 && 1 ≤ n && n ≤ 6 && k.scr % 256 = 0 && k.scr ≤ 524288 &&
    k.entry % 8 = 0 &&
    (k.widths.zipIdx.all fun (w, i) => if i < n then 1 ≤ w && w ≤ 64 else w = 0) && sumOf id k.widths ≤ 64 && field b 26 38 = 0
  then some k else none

/-- An extension block (R351). -/
structure Ext where
  privBase : Nat
  saveArea : Nat
  baleArea : Nat
  shapeReg : Nat
  privLimit : Nat
  padsel : Nat
  deriving DecidableEq, Repr, Inhabited

def privLimitOk (n : Nat) : Bool := n % 128 = 0 && n ≤ 2 ^ 31
/-- Sources 0x8 to 0xE and reserved bits are refused (R360). -/
def padselOk (n : Nat) : Bool := n < 2 ^ 24 && (List.range 6).all fun k => let x := n / 16 ^ k % 16; x < 8 || x = 15

def extOf (b : List Byte) : Option Ext :=
  let e : Ext := { privBase := field b 0 8, saveArea := field b 8 8, baleArea := field b 16 8, shapeReg := field b 24 8,
                   privLimit := field b 32 4, padsel := field b 40 8 }
  if field b 36 4 = 0 && field b 48 16 = 0 && privLimitOk e.privLimit && padselOk e.padsel then some e else none

/-- The queue's defaults (R347, R351). -/
def State.extDefault (s : State) (q : Nat) : Ext :=
  let a := queueAddr s q
  { privBase := s.rd (a + 64) 8, saveArea := s.rd (a + 72) 8, baleArea := s.rd (a + 80) 8, shapeReg := s.rd (a + 88) 8,
    privLimit := s.rd (a + 96) 4, padsel := 0x00FFFFFF }

/-- The grid word (R350). -/
structure Grid where
  npad : Nat
  gangs : Nat
  slices : Nat
  deriving DecidableEq, Repr, Inhabited

def gridOf (w : Nat) : Option Grid :=
  let g : Grid := { npad := bits w 15 0, gangs := bits w 23 16, slices := bits w 31 24 }
  if w < 2 ^ 32 && 1 ≤ g.npad && 1 ≤ g.gangs && g.gangs ≤ 32 && 1 ≤ g.slices && g.slices ≤ 8 then some g else none

/-- A bucket (R360). -/
structure Bucket where
  desc : Nat
  grid : Nat
  bounds : List Nat
  padsel : Nat
  reserved : Nat
  deriving DecidableEq, Repr, Inhabited

def bucketOf (b : List Byte) : Bucket :=
  { desc := field b 0 8, grid := field b 8 8, bounds := (List.range 4).map fun i => field b (16 + 8 * i) 8,
    padsel := field b 48 8, reserved := field b 56 8 }

/-- The first bucket whose four bounds hold. -/
def chooseBucket (bs : List Bucket) (shapes : List Nat) : Option (Nat × Bucket) :=
  (bs.zipIdx.find? fun (b, _) => (b.bounds.zip shapes).all fun (x, y) => y ≤ x).map fun (b, i) => (i, b)

/-! ## Rectangles (R361) -/

/-- The cores of a rectangle, row by row: member m stands at column m mod W. -/
def rectCores (die x y w h : Nat) : List Nat :=
  (List.range (w * h)).map fun m => coreAt die (x + m % w) (y + m / w)

/-- The origins of a die at which a rectangle fits the grid, row by row from the west. -/
def origins (w h : Nat) : List (Nat × Nat) :=
  if 12 < w || 8 < h then [] else (List.range (9 - h)).flatMap fun y => (List.range (13 - w)).map fun x => (x, y)

/-- A column of a die that the fuse map leaves enabled. -/
def State.coreEnabled (s : State) (c : Nat) : Bool := !s.fuseCols.contains (coreDie c, coreCol c)

/-- The rectangles of a hedge's enabled cores on a die, in scan order. -/
def State.rectangles (s : State) (h : Hedge) (die w hh : Nat) : List (Nat × Nat × List Nat) :=
  let cs := h.coreList.filter s.coreEnabled
  (origins w hh).filterMap fun (x, y) =>
    let r := rectCores die x y w hh
    if r.all cs.contains then some (x, y, r) else none

/-! ## The checks of a launch header (R352) -/

/-- Gangs of a workgroup that live in a quadrant (R194). -/
def gangsIn (g q : Nat) : Nat := (g + 3 - q) / 4

/-- The limits of R337 that a launch of harvest work keeps. -/
def harvestOk (h : Hedge) (k : Kernel) (g : Nat) : Bool :=
  k.padW = 1 && k.padH = 1 && k.scr ≤ 65536 && k.tiles ≤ 4 && k.cim ≤ 1 && 512 * g + 4096 * (g * k.vfull) + k.scr ≤ 524288 &&
  (List.range 4).all fun q => gangsIn g q * k.vfull ≤ 32 - h.gfloor && gangsIn g q ≤ 8 - h.sfloor

/-- The AUX of the first check that a launch header fails. -/
def State.headerFault (s : State) (h : Hedge) (harvestQueue : Bool) (k : Kernel) (g : Grid) : Option Nat :=
  if harvestQueue && !k.harvest then some 2
  else if harvestQueue && !harvestOk h k g.gangs then some 3
  else if (List.range 4).any fun q => 8 < gangsIn g.gangs q || 32 < gangsIn g.gangs q * k.vfull then some 4
  else if 2 ^ sumOf id k.widths < g.npad * (k.padW * k.padH) * g.gangs * 32 then some 5
  else if (s.rectangles h 0 k.padW k.padH).isEmpty && (s.rectangles h 1 k.padW k.padH).isEmpty then some 6
  else none

/-- A header that has been read. -/
structure Header where
  kernel : Kernel
  ext : Ext
  grid : Grid
  bucket : Option Nat
  shapes : List Nat
  deriving Repr, Inhabited

/-- How reading a header ends. -/
inductive HeaderEnd
  | reject (aux : Nat)
  | noBucket
  deriving DecidableEq, Repr

/-- Bytes at a 64-byte aligned address. -/
def State.load64 (s : State) (x : Space) (va : Nat) (bad misaligned : State → State) (k : State → List Byte → State) : State :=
  if va % 64 ≠ 0 then misaligned s else s.engineLoad x va 64 bad k

/-- A table of up to eight 64-byte entries, read entry by entry. -/
def State.loadTable (s : State) (x : Space) (va : Nat) (bad : State → State) (k : State → List (List Byte) → State) :
    Nat → List (List Byte) → State
  | 0, acc => k s acc
  | n + 1, acc => s.engineLoad x (va + 64 * acc.length) 64 bad fun s b => s.loadTable x va bad k n (acc ++ [b])

/-- Consecutive 64-bit words. -/
def State.loadWords (s : State) (x : Space) (va : Nat) (bad : State → State) (k : State → List Nat → State) :
    Nat → List Nat → State
  | 0, acc => k s acc
  | n + 1, acc => s.engineLoad x (va + 8 * acc.length) 8 bad fun s b => s.loadWords x va bad k n (acc ++ [leNat b])

/-- Read what a LAUNCH packet names (R349 to R352, R360). -/
def State.readHeader (s : State) (q : Nat) (w : List Word64) (fail : State → HeaderEnd → State)
    (k : State → Header → State) : State :=
  let x := s.queueSpace q
  let word (i : Nat) : Nat := (w.getD i 0).toNat
  let bad (s : State) : State := fail s (.reject 7)
  let no (s : State) : State := fail s (.reject 1)
  let finish (s : State) (e : Ext) (desc grid padsel : Nat) (b : Option Nat) (shapes : List Nat) : State :=
    match gridOf grid with
    | none => no s
    | some g =>
      if !padselOk padsel then no s
      else s.load64 x desc bad no fun s db =>
        match kernelOf db with
        | none => no s
        | some kn => k s { kernel := kn, ext := { e with padsel := padsel }, grid := g, bucket := b, shapes := shapes }
  let withShapes (e : Ext) (s : State) (shapes : List Nat) : State :=
    if word 7 = 0 then finish s e (word 2) (word 5) e.padsel none shapes
    else if word 7 % 64 ≠ 0 || bits (word 0) 12 9 < 1 || 8 < bits (word 0) 12 9 then no s
    else s.loadTable x (word 7) bad (fun s es =>
      match chooseBucket (es.map bucketOf) shapes with
      | none => fail s .noBucket
      | some (i, b) => if b.reserved ≠ 0 then no s else finish s e b.desc b.grid b.padsel (some i) shapes)
      (bits (word 0) 12 9) []
  -- the shape registers are read where a bucket or a padding source needs them
  let withExt (s : State) (e : Ext) : State :=
    if word 7 = 0 && e.padsel = 0x00FFFFFF then withShapes e s []
    else if e.shapeReg % 8 ≠ 0 then bad s
    else s.loadWords x e.shapeReg bad (withShapes e) 8 []
  if word 4 = 0 then
    let e := s.extDefault q
    if privLimitOk e.privLimit then withExt s e else no s
  else s.load64 x (word 4) bad no fun s eb => match extOf eb with | none => no s | some e => withExt s e

end Sys2Proof.Machine
end

