-- ==== Sys2Proof/Machine/Narrow.lean ====
section
/-! DEFINITION. The decoding load and the quantising store (05_memory_ops.md, R121 and R122; 16_numbers.md, R292 to
R296). -/

namespace Sys2Proof.Machine

/-- Elements of a group (R115). -/
def groupCount (o : FM) : Nat := 2 ^ (o.mq.toNat % 4)

/-- Bytes of a group on a page; 0 for one 4-bit element. -/
def groupBytes (count f : Nat) : Nat := count * fmtBits f / 8

/-- A lane's own checks after translation (R121). -/
def groupExtra (count : Nat) (a : Word64) (x : Spot) : Option (Nat × Nat) :=
  let g := groupBytes count ((x.entry.map (·.fmt)).getD 0)
  if g = 0 then some (8, 5) else if a.toNat % g ≠ 0 then some (8, 1) else none

/-- The need of LDD and STQ; the bytes follow from the page. -/
def groupNeed (o : FM) (r w : Bool) : Need := { space := 4, size := 1, r := r, w := w, scope := o.scope.toNat }

/-- A lane's group: its place, its format and geometry, the bytes it spans, and its scale byte. -/
structure Group where
  lane : Nat
  spot : Spot
  fmt : Nat
  blk : Nat
  bytes : Nat
  scale : Nat
  deriving DecidableEq, Repr

def groupAt (count : Nat) (ea : Nat → Word64) (x : Nat × Spot) : Group :=
  let e := x.2.entry.getD default
  { lane := x.1, spot := x.2, fmt := e.fmt, blk := e.blk, bytes := groupBytes count e.fmt, scale := e.scaleAddr (ea x.1).toNat }

/-- The places that reading a group touches: its elements, and its scale byte on a page with blocks. -/
def Group.spots (g : Group) : List (Nat × Spot) :=
  (g.lane, g.spot) :: if g.blk = 0 then [] else [(g.lane, { g.spot with ua := g.scale })]

/-- LDD of one element (R121): an FP32 page reads raw. -/
def decodeElem (ftz : Bool) (f blk code x : Nat) : Word32 × BitVec 6 :=
  if f = 0 && blk = 0 then (BitVec.ofNat 32 x, 0)
  else
    let (w, g) := toF32 (underCode f x (if blk = 0 then 127 else code)) 0 false ftz
    (w, g &&& (flagOF ||| flagUF ||| flagNX))

/-- The elements of a group read as `x`, under a scale code. -/
def Group.decode (g : Group) (ftz : Bool) (d count x code : Nat) : List (Nat × Word32) × BitVec 6 :=
  let ys := (List.range count).map fun k => decodeElem ftz g.fmt g.blk code (x / 2 ^ (k * fmtBits g.fmt) % 2 ^ fmtBits g.fmt)
  (ys.zipIdx.map fun (y, k) => (32 * (d + k) + g.lane, y.1), ys.foldl (fun a y => a ||| y.2) 0)

/-- The result of an LDD from the bytes of its groups and scale codes. -/
def State.landGroups (s : State) (o : FM) (gs : List Group) (read : Group → Nat × Nat) (ea : Nat → Word64) : State :=
  let rs := gs.map fun g => g.decode s.ftz o.d.toNat (groupCount o) (read g).1 (read g).2
  let bad := (gs.filter fun g => s.isPoisoned g.spot.ua g.bytes || (g.blk != 0 && s.isPoisoned g.scale 1)).map (·.lane)
  (s.emitLoad s.nextId (rs.flatMap (·.1)) (rs.foldl (fun a r => a ||| r.2) 0) 0
    (poisonRec s.me.pc (groupNeed o true false).acc 0 bad (ea (bad.headD 0)) s.me.second)).advance

/-- Read the groups in turn: elements and scale byte of each. -/
def State.readGroups (s : State) (level : Nat) : List Group → State × List (Nat × Nat × Nat)
  | [] => (s, [])
  | g :: gs =>
    let (s1, bs) := s.readOne level g.spot g.bytes
    let (s2, cs) := if g.blk = 0 then (s1, []) else s1.readOne level { g.spot with ua := g.scale } 1
    let (s3, r) := s2.readGroups level gs
    (s3, (g.lane, leNat bs, leNat cs) :: r)

/-- What was read for a group. -/
def groupRead (rs : List (Nat × Nat × Nat)) (g : Group) : Nat × Nat := (lookupKey rs g.lane).getD (0, 0)

/-- LDD (R121). -/
def execLdd (o : FM) (s : State) : Host.Outcome State Fault Refusal :=
  checked (.ldd o) s fun s =>
    let count := groupCount o
    let ea := s.ea o 1
    s.withPlaces (groupNeed o true false) (lanesOf (s.active o.guard)) ea false (groupExtra count) fun s xs =>
      let gs := xs.map (groupAt count ea)
      let spots := gs.flatMap Group.spots
      if s.me.levels.isEmpty then
        match s.blocked (spots.map (·.2)) 16 false with
        | some w => s.stall w
        | none =>
          let level := s.levelOf s.me o.scope.toNat
          if spots.any fun x => s.readWaits s.me.id x.2.ua 16 || (s.open x.2 16 && s.late (x.2.level level) x.2.ua) then s.stall .hold
          else match s.askReads false 16 o.scope.toNat 0 (o.ord == 1) spots with
            | some t => t
            | none =>
              let s1 := if o.ord = 1 then
                  s.acquireLines s.here level (distinct ((spots.filter fun x => s.open x.2 16).map fun x => x.2.ua / 128))
                else s
              let (s2, rs) := s1.readGroups level gs
              s2.taken.landGroups o gs (groupRead rs) ea
      else
        s.txLoad spots 16 false 0 fun t read =>
          t.landGroups o gs (fun g => (leNat (read g.spot g.bytes),
            if g.blk = 0 then 0 else leNat (read { g.spot with ua := g.scale } 1))) ea

/-! ## STQ (R122) -/

/-- An element that a lane gives for its place on a page: the place in bits, and the register's FP32 bits. -/
structure Give where
  lane : Nat
  bit : Nat
  raw : Word32
  deriving DecidableEq, Repr

/-- The elements that a group gives. -/
def State.gives (s : State) (d count : Nat) (g : Group) : List Give :=
  (List.range count).map fun k => { lane := g.lane, bit := g.spot.ua * 8 + k * fmtBits g.fmt, raw := s.rv (d + k) g.lane }

/-- The groups that share a group's block. -/
def Group.blockBits (g : Group) : Nat := blkElems g.blk * fmtBits g.fmt
def Group.block (g : Group) : Nat := g.spot.ua * 8 / g.blockBits

/-- Each element of the block is given exactly once. -/
def covered (g : Group) (xs : List Give) : Bool :=
  xs.length == blkElems g.blk && (distinct (xs.map (·.bit))).length == blkElems g.blk

/-- The elements that all lanes give for the block of a group. -/
def State.blockGives (s : State) (d count : Nat) (gs : List Group) (g : Group) : List Give :=
  (gs.filter fun h => h.blk != 0 && h.scale == g.scale && h.block == g.block).flatMap (s.gives d count)

/-- The scale code of a group's block, with its flags (R294). -/
def State.blockCode (s : State) (d count : Nat) (gs : List Group) (g : Group) : Nat × BitVec 6 :=
  blockScale g.fmt ((s.blockGives d count gs g).map fun x => fmt32.decode x.raw.toNat)

/-- The encoded bytes of a group, with their flags. -/
def State.encodeGroup (s : State) (d count : Nat) (sat : Bool) (gs : List Group) (g : Group) : Nat × BitVec 6 :=
  let code := if g.blk = 0 then (127, 0) else s.blockCode d count gs g
  let es := (s.gives d count g).map fun x =>
    if g.fmt = 0 then (x.raw.toNat, (0 : BitVec 6))
    else
      let v := fmt32.decode x.raw.toNat
      let (e, f) := if g.blk = 0 then encodeTo g.fmt v 0 sat else encodeUnder g.fmt code.1 v sat
      (e, f ||| nvOf [v])
  (es.zipIdx.foldl (fun a (e, k) => a + e.1 % 2 ^ fmtBits g.fmt * 2 ^ (k * fmtBits g.fmt)) 0,
   es.foldl (fun a e => a ||| e.2) code.2)

/-- The stores of a list of groups: each element byte, and the scale byte of each block once (R239). A byte that several
lanes write is given to one of them (R117). -/
def State.groupStores (s : State) (o : FM) (ea : Nat → Word64) (gs : List Group) : List Req :=
  let count := groupCount o
  let d := o.d.toNat
  let req (x : Nat × Spot) (b : Nat) : Req :=
    s.request .write s.nextId 1 o.scope.toNat 0 (o.ord == 2) (groupNeed o false true).acc 0 ea x b
  let xs := gs.flatMap fun g =>
    let x := (s.encodeGroup d count (o.mq.getLsbD 2) gs g).1
    (List.range g.bytes).map fun i => ((g.lane, { g.spot with ua := g.spot.ua + i }), x / 2 ^ (8 * i) % 256)
  let ws := s.resolveStore 1 (xs.map fun x => (x.1.2.ua, x.2))
  let scales := gs.foldl (fun (a : List Group) g => if g.blk = 0 || a.any (fun h => h.scale == g.scale) then a else a ++ [g]) []
  List.zipWith (fun x w => req x.1 w.2) xs ws ++
    scales.map fun g => req (g.lane, { g.spot with ua := g.scale }) (s.blockCode d count gs g).1

/-- STQ (R122). -/
def execStq (o : FM) (s : State) : Host.Outcome State Fault Refusal :=
  checked (.stq o) s fun s =>
    if !s.me.levels.isEmpty then s.hwAbort 5
    else
      let count := groupCount o
      let ea := s.ea o 1
      let need := groupNeed o false true
      s.withPlaces need (lanesOf (s.active o.guard)) ea false (groupExtra count) fun s xs =>
        let gs := xs.map (groupAt count ea)
        let bad := (gs.filter fun g => g.blk != 0 && !covered g (s.blockGives o.d.toNat count gs g)).map (·.lane)
        if !bad.isEmpty then
          s.raise { code := 8, aux := 4, lanes := maskOfList bad, acc := need.acc, addr := ea (bad.headD 0) }
        else if s.readsBefore ((gs.flatMap Group.spots).map (·.2)) 16 ||
            (gs.flatMap Group.spots).any (fun x => s.planeFull x.2) then s.stall .hold
        else
          let fl := gs.foldl (fun a g => a ||| (s.encodeGroup o.d.toNat count (o.mq.getLsbD 2) gs g).2) 0
          ({ s.sendReqs (s.groupStores o ea gs) with gang := { s.gang with fflags := s.gang.fflags ||| fl } }).advance

end Sys2Proof.Machine
end

