-- ==== Sys2Proof/Machine/Ordering.lean ====
section
/-! DEFINITION. Fences and cache maintenance (05_memory_ops.md, R131 to R133; 12_ordering.md, R250). -/

namespace Sys2Proof.Machine

/-- Reads of the part that have not been served. -/
def Part.reading (p : Part) : Bool := p.inflight.any fun r => r.waits != 0

/-- What a fence does once the accesses that it waits for have been performed. -/
def State.fenceEffect (s : State) (core level ord : Nat) : State :=
  let s1 := if 2 ≤ ord then s.release core level else s
  if ord % 2 = 1 then s1.acquire core level none else s1

/-- May a fence be performed: .acq waits for loads, .rel and .ar for every earlier access (R131). -/
def fenceReady (ord : Nat) (earlier : List Req) (reading : Bool) : Bool := !reading && (ord == 1 || earlier.isEmpty)

/-- FENCE (R131). -/
def execFence (o : FM) (s : State) : Host.Outcome State Fault Refusal :=
  checked (.fence o) s fun s =>
    if !s.me.levels.isEmpty then s.advance
    else if s.me.fenced then s.stall .fence
    else if fenceReady o.ord.toNat s.me.pending s.me.reading then
      (s.fenceEffect s.here (s.levelOf s.me o.scope.toNat) o.ord.toNat).advance
    else
      (s.sendReqs [{ id := s.nextId, part := s.me.id, kind := .fence, addr := 0, size := 0, scope := o.scope.toNat,
                     data := o.ord.toNat }]).advance

/-! ## Ranges (R132) -/

/-- The frames of a byte range: virtual and physical page addresses of the pages that are mapped to device memory. -/
def State.framesIn (s : State) (root asid start len : Nat) : List (Nat × Nat) :=
  ((List.range ((start + len + 4095) / 4096 - start / 4096)).map fun i => 4096 * (start / 4096 + i)).filterMap fun va =>
    match s.translateNow root asid va with
    | .leaf e => if e.mt = 0 then some (va, e.phys va) else none
    | .fault .. => none
def State.rangeFrames (s : State) (start len : Nat) : List (Nat × Nat) := s.framesIn s.ctx.root s.ctx.asid start len

/-- Does a block of `n` bytes at a physical address lie on the range? -/
def onRange (fs : List (Nat × Nat)) (start len a n : Nat) : Bool :=
  fs.any fun f => f.2 ≤ a && a < f.2 + 4096 && overlaps (f.1 + (a - f.2)) n start len

/-- CLEAN, or INVAL with `drop`, of the lines for which `p` holds, in the L1s of some cores and in some sectors. -/
def State.cleanLines (s : State) (cores sectors : List Nat) (drop : Bool) (p : Nat → Bool) : State :=
  let s1 := cores.foldl (fun s c =>
    ((s.getCore c).l1.filter fun x => p x.line).foldl (fun s x => s.flushL1 c x.line drop) s) s
  (s1.sectors.filter fun e => sectors.contains e.1 && p e.2.line).foldl (fun s e => s.flushSector e.1 e.2.line drop) s1

/-- The cores of the paddock in hand. -/
def State.paddockCores (s : State) : List Nat :=
  distinct ((s.allWgs.filter fun w => w.context == s.ctx.id && w.pidx == s.wg.pidx).map (·.core))

/-- The cores whose L1 lies inside a scope, and the sectors whose copies do: where a paddock lies in several sectors, what
its scope shares is the home slice (R242). -/
def State.insideScope (s : State) (scope : Nat) : List Nat × List Nat :=
  match scope with
  | 1 => ([s.here], [])
  | 2 => (s.paddockCores, if s.padInSector s.wg then [] else distinct (s.paddockCores.map coreSector))
  | _ => ((s.allCores.map (·.id - 1)), List.range 6)

/-- CLEAN and INVAL: the part is Parked at the word until its own accesses have been performed (R132, R197). -/
def State.maintain (s : State) (o : FM) (drop : Bool) : State :=
  let start := (s.rg o.a.toNat).toNat
  let len := (s.rg o.b.toNat).toNat
  if 2 ^ 32 < len then s.illegal
  else if len = 0 || (o.guard.ge && s.active o.guard = 0) || o.space ≠ 4 then s.advance
  else if !s.me.pending.isEmpty then (s.stall .hold).parkHeld
  else
    let fs := s.rangeFrames start len
    let (cores, sectors) := s.insideScope o.scope.toNat
    (s.cleanLines cores sectors drop fun l => onRange fs start len (128 * l) 128).advance

/-- CLEAN (R132). -/
def execClean (o : FM) (s : State) : Host.Outcome State Fault Refusal :=
  checked (.clean o) s fun s => if !s.me.levels.isEmpty then s.hwAbort 5 else s.maintain o false

/-- INVAL (R132). -/
def execInval (o : FM) (s : State) : Host.Outcome State Fault Refusal :=
  checked (.inval o) s fun s => if !s.me.levels.isEmpty then s.hwAbort 5 else s.maintain o true

/-- ICINV (R133, R393): merged-fill buffers of the range are discarded, the words are invalid at every core of the hedge, and the part waits for their acknowledgements. -/
def execIcinv (o : FM) (s : State) : Host.Outcome State Fault Refusal :=
  checked (.icinv o) s fun s =>
    let start := (s.rg o.a.toNat).toNat
    let len := (s.rg o.b.toNat).toNat
    if !s.me.levels.isEmpty then s.hwAbort 5
    else if 2 ^ 32 < len then s.illegal
    else if len = 0 then s.advance
    else if !s.me.pending.isEmpty then (s.stall .hold).parkHeld
    else
      let fs := s.rangeFrames start len
      let cores := ((s.hedge? s.ctx.hedge).map (·.coreList)).getD []
      let s1 := cores.foldl (fun s c => s.updCore c fun k =>
        { k with icache := k.icache.filter fun w => !onRange fs start len (w.1 % 2 ^ 64) 8 })
        { s.release s.here 2 with fills := s.fills.filter fun f => !onRange fs start len (128 * f.line) 128 }
      if cores.isEmpty then s1.advance
      else { s1 with me := { s1.me with acks := cores, state := .parked .icinv } }

end Sys2Proof.Machine
end

