-- ==== Sys2Proof/Machine/Txn.lean ====
section
/-! DEFINITION. Transactions and word waits (06_wait_engines.md, R134 to R145; 14_waiting.md, R267 to R280). -/

namespace Sys2Proof.Machine

/-! ## Commit (R138, R275) -/

/-- The bytes of a write set that lie in a line, oldest first. -/
def lineBytes (ws : List BufByte) (line : Nat) : List BufByte := (ws.filter fun b => b.addr / 128 == line).reverse

/-- Bytes put at a home, each under its key. -/
def State.homeBytes (s : State) (bs : List BufByte) : State :=
  bs.foldl (fun s b => (if isHbm b.addr then s.retag b.key [b.addr / 32] else s).putBytes b.addr [b.val]) s

/-- The 32-byte sectors of a line whose every byte is among those written. -/
def filledSectors (bs : List BufByte) (line : Nat) : List Nat :=
  ((List.range 4).map (· + 4 * line)).filter fun x => (List.range 32).all fun i => bs.any fun b => b.addr == 32 * x + i

/-- The committed bytes of one line: written at its home in one indivisible step, with the line's new version and its
notices. A line of a doorbell aperture passes on the eight bytes of a doorbell (R348). -/
def State.commitLine (s : State) (ws : List BufByte) (line : Nat) : State :=
  let bs := lineBytes ws line
  if isDoorbell (128 * line) then
    let new (i : Nat) : Option Byte := (bs.reverse.find? fun b => b.addr == 128 * line + i).map (·.val)
    let word := (List.range 8).filterMap new
    if word.length = 8 then s.doorbell (128 * line) word else s
  else
    let s1 := s.homeBytes bs
    let full := filledSectors bs line
    ({ s1 with poisoned := s1.poisoned.filter fun x => !full.contains x }).bumpVersion (s1.homeOf (128 * line)) line

/-- Lines in ascending lock key (R275). -/
def lockOrder (xs : List Nat) : List Nat := xs.foldl (fun a x => a.takeWhile (· < x) ++ [x] ++ a.dropWhile (· < x)) []

/-- Holds of another part that a commit meets: any on a written line, an exclusive one on a read line (R275, R276). -/
def State.commitMeets (s : State) (reads writes : List Nat) : List Nat :=
  distinct ((s.holds.filter fun h => h.part != s.me.id &&
    (writes.contains h.line || (h.exclusive && reads.contains h.line))).map (·.part))

/-- A commit waits for a line that an engine owns, that is being zeroed or woken, or that earlier requests wait for. What the
serial token's holder has held since before stands first (R276). -/
def State.commitWaits (s : State) (writes : List Nat) : Bool :=
  writes.any fun l => !(s.holds.any fun h => h.part == s.me.id && h.line == l) &&
    (s.ownedUnit 0 (128 * l) 128 || s.zeroingAt (128 * l) 128 || s.gatedAt (128 * l) || s.queued (128 * l) 128)

/-- The lines among some that a store of last use has written (R115). -/
def lastLines (ws : List BufByte) (lines : List Nat) : List Nat :=
  lines.filter fun l => ws.any fun b => b.last && b.addr / 128 == l && isHbm b.addr

/-- The commit of level 1, and then `k`. The whole of it is one step, so that no two commits meet except at the holds of
the serial token's holder: a commit that would wait on those aborts, unless the holder is H work and this is G. Writes of a
narrower scope that sectors still hold are accepted at the home before the versions are checked (R259). -/
def State.commit (s : State) (k : State → State) : State :=
  let reads := s.me.readLines
  let writes := lockOrder (distinct ((s.me.levels.flatMap (·.writes)).map fun b => b.addr / 128))
  let s1 := if s.me.serial then s
    else (s.commitMeets (reads.map (·.line)) writes).foldl (fun s p => s.yieldHolder s.ctx.harvest p) s
  if !s.me.serial && !(s1.commitMeets (reads.map (·.line)) writes).isEmpty then s1.hwAbort 1
  else if s1.commitWaits writes then s1.stall .owned
  else
    let s0 := writes.foldl State.gather s1
    if s.me.doomed || (!s.me.serial && s0.stale reads) then s0.hwAbort 1
    else
      let ws := s.me.levels.flatMap (·.writes)
      let s2 := writes.foldl (fun s l => s.commitLine ws l) s0
      let s3 := (lastLines ws writes).foldl (fun s l => s.lastUse s.here l) ((s2.fenceEffect s.here 2 3).releaseToken s.me.id)
      k { s3 with me := { s3.me with levels := [], consec := 0 } }

/-- Close the innermost level into its parent, or commit, and then `k` (R138). -/
def State.settleLevel (s : State) (k : State → State) : State :=
  match s.me.levels with
  | [] => s.illegal
  | [_] => s.commit k
  | l :: p :: rest =>
    let merged : Level := { p with reads := p.reads ++ l.reads, writes := l.writes ++ p.writes, kept := p.kept ++ l.kept }
    k { s with me := { s.me with levels := merged :: rest } }

/-- SETTLE (R138). -/
def execSettle (o : FX) (s : State) : Host.Outcome State Fault Refusal :=
  checked (.settle o) s fun s => s.afterResults fun s => s.settleLevel fun s => s.advance

/-! ## Opening a level (R136, R137) -/

/-- A level opened at the word in issue. -/
def State.pushLevel (s : State) (alt : Bool) (target : Word64) : State :=
  let l : Level := { alt := alt, target := target, start := s.me.pc, g := s.me.g, stack := s.me.stack,
                     ndef := s.me.deferred.length }
  { s with me := { s.me with levels := l :: s.me.levels } }

/-- The part in hand takes the serial token of its hedge, or queues for it (R276). -/
def State.takeToken (s : State) (k : State → State) : State :=
  match s.hedge? s.ctx.hedge with
  | none => k { s with me := { s.me with serial := true } }
  | some h =>
    if h.token = some s.me.id then k { s with me := { s.me with serial := true } }
    else if h.token.isNone && h.waiters.isEmpty then
      k { s.updHedge h.n (fun h => { h with token := some s.me.id }) with me := { s.me with serial := true } }
    else
      let s1 := s.updHedge h.n fun h =>
        { h with waiters := if h.waiters.any (fun w => w.2 == s.me.id) then h.waiters
                            else h.waiters ++ [(s.ctx.harvest, s.me.id)] }
      { s1 with me := { s1.me with state := .parked .serial } }

/-- An outermost level: CONSEC, the serial token, XSTAT, and a full fence at device scope (R136, R258, R276). -/
def State.openOutermost (s : State) (target : Word64) (k : State → State) : State :=
  if !s.me.settled then s.stall .hold
  else
    let consec := if s.me.lastStart = some s.me.pc then s.me.consec else 0
    let s1 := { s with me := { s.me with consec := consec } }
    let go (s : State) : State :=
      k (({ s with me := { s.me with xcode := 0, xlevel := 0 } }.fenceEffect s.here 2 3).pushLevel false target)
    if consec = 6 then s1.takeToken go else go s1

/-- ATTEMPT's level, and then `k` (R136). -/
def State.openAttempt (s : State) (target : Word64) (k : State → State) : State :=
  if s.me.depth = 4 then s.hwAbort 4
  else if s.me.levels.isEmpty then s.openOutermost target k
  else k (s.pushLevel false target)

/-- ATTEMPT (R136). -/
def execAttempt (o : FB) (s : State) : Host.Outcome State Fault Refusal :=
  checked (.attempt o) s fun s => s.afterResults fun s =>
    s.openAttempt (s.me.pc + 8 * o.off.signExtend 64) fun s => s.advance

/-- OTHERWISE (R137). -/
def execOtherwise (o : FB) (s : State) : Host.Outcome State Fault Refusal :=
  checked (.otherwise o) s fun s => s.afterResults fun s =>
    if s.me.levels.isEmpty then s.illegal
    else if s.me.depth = 4 then s.hwAbort 4
    else (s.pushLevel true (s.me.pc + 8 * o.off.signExtend 64)).advance

/-! ## Giving up (R139, R140, R278) -/

/-- ABANDON (R139). -/
def execAbandon (o : FX) (s : State) : Host.Outcome State Fault Refusal :=
  checked (.abandon o) s fun s => s.afterResults fun s =>
    match s.me.levels with
    | [] => s.illegal
    | l :: _ =>
      let k := s.me.depth
      let s1 := if k = 1 then s.releaseToken s.me.id else s
      let p := s1.me.unwind k
      { s1 with me := { p with xcode := BitVec.ofNat 8 (0x80 + o.qual.toNat % 128), xlevel := BitVec.ofNat 3 k,
                               consec := if k = 1 then 0 else p.consec, pc := l.target } }

/-- Line and region entries of a core's warren that its sleepers hold (R279); those of a saved paddock hold none. -/
def State.warrenUsed (s : State) (core : Nat) (f : WarrenForm) (count : Sleep → Nat) : Nat :=
  let on (p : Part) : Bool := let w := s.getWg (s.getGang p.gang).workgroup; w.core == core && w.state == .running
  sumOf (fun p => match p.sleep with | some x => if x.form = f && on p then count x else 0 | none => 0) s.allParts

/-- The regions of lock keys that lines lie in (R279). -/
def regionsOf (ls : List ReadLine) : List Nat := distinct (ls.map fun l => l.line / 32)

/-- The first form of warren entries that fits (R279). -/
def State.warrenForm (s : State) (core : Nat) (ls : List ReadLine) : WarrenForm :=
  if s.warrenUsed core .lines (fun x => (distinct (x.lines.map (·.line))).length) + (distinct (ls.map (·.line))).length ≤ 1024
  then .lines
  else if s.warrenUsed core .regions (fun x => (regionsOf x.lines).length) + (regionsOf ls).length ≤ 64 then .regions
  else .hedgeWide

/-- RETRY's `retry`: the token and its holds go, and the part sleeps on every line that it read; each home has still to
answer (R278). -/
def State.sleepNow (s : State) : State :=
  let ls := s.me.readLines
  let s1 := s.releaseToken s.me.id
  { s1 with me := { s1.me with state := .asleep,
                               sleep := some { lines := ls, unanswered := ls, form := s.warrenForm s.here ls } } }

/-- The highest alternative level; 0 for none (R140). -/
def altLevel : List Level → Nat
  | [] => 0
  | l :: ls => if l.alt then ls.length + 1 else altLevel ls

/-- Leave for the nearest alternative, or sleep (R140). -/
def State.retry (s : State) : State :=
  let j := altLevel s.me.levels
  if j = 0 then s.sleepNow
  else
    let gone := s.me.levels.take (s.me.depth + 1 - j)
    let keep := gone.flatMap fun l => l.reads ++ l.kept
    let target := (s.me.level j).target
    let p := (s.me.unwind j).inner fun l => { l with kept := l.kept ++ keep }
    { s with me := { p with xcode := 7, xlevel := BitVec.ofNat 3 j, pc := target } }

/-- RETRY (R140). -/
def execRetry (o : FX) (s : State) : Host.Outcome State Fault Refusal :=
  checked (.retry o) s fun s => s.afterResults fun s => if s.me.levels.isEmpty then s.illegal else s.retry

/-- XSTAT (R142). -/
def execXstat (o : FX) (s : State) : Host.Outcome State Fault Refusal :=
  checked (.xstat o) s fun s =>
    let s1 := s.setG o.d.toNat s.me.xstat
    (if o.qual.getLsbD 0 then { s1 with me := { s1.me with xcode := 0, xlevel := 0 } } else s1).advance

/-! ## Word waits (R144, R145) -/

/-- The comparison of WAITW at a size of `n` bytes (R144). -/
def waitCond (mop n x y : Nat) : Bool :=
  let sg (x : Nat) : Int := if 2 ^ (8 * n - 1) ≤ x then (x : Int) - 2 ^ (8 * n) else x
  match mop with
  | 0 => x = y
  | 1 => x ≠ y
  | 2 => sg x < sg y
  | 3 => sg x ≤ sg y
  | 4 => sg y < sg x
  | 5 => sg y ≤ sg x
  | 6 => x < y
  | 7 => x ≤ y
  | 8 => y < x
  | _ => y ≤ x

/-- A level that a waiting instruction opened is not there while the word waits to issue again. -/
def State.unopen (s : State) : State :=
  match s.me.state with
  | .issued _ => { s with me := { s.me with levels := s.me.levels.tail } }
  | .faultParked => if s.me.trap.isSome then s else { s with me := { s.me with levels := s.me.levels.tail } }
  | _ => s

/-- Do the comparands of every lane hold? -/
def State.waitHolds (s : State) (o : FM) (rs : List (Nat × List Byte)) : Bool :=
  let n := sizeBytes o.size.toNat
  rs.all fun r => waitCond o.mop.toNat n (leNat r.2) (s.laneData o.d.toNat n r.1)

/-- A wait that acquires tells its reads so: they promote what was released more narrowly (R144, R254). -/
def waitAcquires (o : FM) : Bool := o.ord == 1

/-- The transaction of WAITW (R144). A page fault of a lane holds the whole word. -/
def State.waitTx (s : State) (o : FM) (ls : List Nat) (ea : Nat → Word64) : State :=
  let n := sizeBytes o.size.toNat
  let need := needOf o true false
  State.unopen <| s.openAttempt s.me.pc fun s =>
    s.withPlaces need ls ea true (fun _ _ => none) fun s xs =>
      if xs.length < ls.length then { s with me := { s.me with state := .faultParked } }
      else
        let bad := s.poisonedLanes xs n
        s.txLoad xs n (waitAcquires o) 0 fun t read =>
          match poisonRec s.me.pc need.acc need.sizeCode bad (ea (bad.headD 0)) with
          | some r => t.raise r
          | none => if t.waitHolds o (xs.map fun x => (x.1, read x.2 n)) then t.settleLevel fun t => t.advance else t.retry

/-- One poll (R145). -/
def State.waitPoll (s : State) (o : FM) (ls : List Nat) (ea : Nat → Word64) : State :=
  let n := sizeBytes o.size.toNat
  let need := needOf o true false
  s.withPlaces need ls ea true (fun _ _ => none) fun s xs =>
    let spots := xs.map (·.2)
    let level := s.levelOf s.me o.scope.toNat
    if xs.length < ls.length then { s with me := { s.me with state := .faultParked } }
    else match s.blocked spots n false with
      | some w => s.stall w
      | none =>
        if spots.any fun x => s.late (x.level level) x.ua then s.stall .hold
        else match s.askReads false n o.scope.toNat 0 (waitAcquires o) xs with
          | some t => t
          | none =>
            let bad := s.poisonedLanes xs n
            let lines := distinct (spots.map fun x => x.ua / 128)
            let (t, rs) := (if waitAcquires o then lines.foldl State.promote s else s).readOnes level n xs
            match poisonRec s.me.pc need.acc need.sizeCode bad (ea (bad.headD 0)) with
            | some r => t.raise r
            | none =>
              if t.waitHolds o rs then
                (if waitAcquires o then t.acquireLines t.here level lines else t).advance
              else { t with me := { t.me with state := .polling } }

/-- WAITW (R144, R145). -/
def execWaitw (o : FM) (s : State) : Host.Outcome State Fault Refusal :=
  checked (.waitw o) s fun s => s.afterResults fun s =>
    let ls := lanesOf (s.active o.guard)
    let ea := s.ea o (sizeBytes o.size.toNat)
    let xs := if o.space = 4 && s.me.levels.isEmpty then ls.map fun l => ((ea l).toNat, s.xlate (ea l).toNat) else []
    let walks := xs.filterMap fun x => match x.2 with | .miss => some x.1 | _ => none
    if ls.isEmpty then s.advance
    else if !walks.isEmpty then (walks.foldl State.startWalk s).stall .walk
    else if xs.any fun x => match x.2 with | .hit e => e.mt != 0 | _ => false then s.waitPoll o ls ea
    else s.waitTx o ls ea

end Sys2Proof.Machine
end

