-- ==== Sys2Proof/Machine/Stiles.lean ====
section
/-! DEFINITION. Stiles (06_wait_engines.md, R146 to R151; 14_waiting.md, R281). -/

namespace Sys2Proof.Machine

/-! ## The stile's fields (R281) -/

/-- A stile read as its fields; `top` is the reserved byte. -/
structure Stile where
  phase : Nat
  poison : Bool
  expect : Nat
  remain : Nat
  pending : Int
  cause : Nat
  top : Nat
  deriving DecidableEq, Repr

/-- The fields of a 128-bit value. -/
def stileOf (x : Nat) : Stile :=
  { phase := bits x 30 0, poison := bits x 31 31 = 1, expect := bits x 47 32, remain := bits x 63 48,
    pending := (BitVec.ofNat 48 (bits x 111 64)).toInt, cause := bits x 119 112, top := bits x 127 120 }

/-- The 128-bit value of the fields. -/
def Stile.toNat (t : Stile) : Nat :=
  t.phase + at' 31 t.poison.toNat + at' 32 t.expect + at' 48 t.remain + at' 64 (BitVec.ofInt 48 t.pending).toNat +
  at' 112 t.cause + at' 120 t.top

/-- `complete` (R146). -/
def Stile.complete (t : Stile) : Stile :=
  if t.remain = 0 && t.pending = 0 && !t.poison then { t with phase := (t.phase + 1) % 2 ^ 31, remain := t.expect } else t

/-- POISON := 1, with its first cause (R281). -/
def Stile.spoil (t : Stile) (cause : Nat) : Stile := { t with poison := true, cause := if t.cause = 0 then cause else t.cause }

/-- An arrival of count c (R148). -/
def Stile.arrive (t : Stile) (c : Nat) : Stile :=
  if t.poison then t else if t.remain < c then t.spoil 1 else { t with remain := t.remain - c }.complete

/-- PENDING changes by `n` (R149). -/
def Stile.expectBytes (t : Stile) (n : Int) : Stile :=
  if t.poison then t
  else if t.pending + n < -(2 ^ 47) || 2 ^ 47 ≤ t.pending + n then t.spoil 2
  else { t with pending := t.pending + n }.complete

/-- One operation on the stile at a place: an indivisible read and write at its home (R146, R252). A write that changes
nothing is no write. -/
def State.stileOp (s : State) (a : Nat) (f : Stile → Stile) : State :=
  let x := leNat (s.homeRead 0 a 16)
  let y := (f (stileOf x)).toNat
  if x = y then s else s.homeWrite 0 a (leBytes 16 y)

/-! ## Reaching a stile (R146) -/

/-- The space of a stile instruction, and what its access needs. -/
def stileNeed (o : FX) (r w : Bool) : Need :=
  if o.qual.getLsbD 0 then { space := 2, size := 16, r := r, w := w, scope := 2, sizeCode := 4 }
  else { space := 1, size := 16, r := r, w := w, scope := 1, sizeCode := 4 }

/-- The stile that gA names, for a gang's operation. -/
def State.withStile (s : State) (o : FX) (r w : Bool) (k : State → Spot → State) : State :=
  let need := stileNeed o r w
  let va := s.rg o.a.toNat
  let t : TrapRec := { code := 8, lanes := s.present, acc := need.acc, size := 4, addr := va }
  if va.toNat % 16 ≠ 0 then s.raise { t with aux := 1 }
  else match s.place need none 0 va with
    | .spot x => if r && s.isPoisoned x.ua 16 then s.raise { t with code := 0x0B } else k s x
    | .fault c a => s.raise { t with code := c, aux := a }
    | .walk a => (s.startWalk a).stall .walk
    | .hold => s.stall .hold

/-- STINIT (R147): a relaxed store of the whole stile. -/
def execStinit (o : FX) (s : State) : Host.Outcome State Fault Refusal :=
  checked (.stinit o) s fun s =>
    let n := (s.rg o.b.toNat).toNat
    if !s.me.levels.isEmpty then s.hwAbort 5
    else if n < 1 || 65535 < n then s.illegal
    else s.withStile o false true fun s x =>
      let t : Stile := { phase := 0, poison := false, expect := n, remain := n, pending := 0, cause := 0, top := 0 }
      let need := stileNeed o false true
      s.plainStore 16 need.scope 0 false need.acc 4 (fun _ => s.rg o.a.toNat) (fun _ => t.toNat) [(0, x)]

/-- STARR (R148). -/
def execStarr (o : FX) (s : State) : Host.Outcome State Fault Refusal :=
  checked (.starr o) s fun s =>
    let c := if o.b = 0 then 1 else (s.rg o.b.toNat).toNat
    if !s.me.levels.isEmpty then s.hwAbort 5
    else if c < 1 || 65535 < c then s.illegal
    else s.withStile o true true fun s x =>
      match s.blocked [x] 16 true with
      | some w => s.stall w
      | none =>
        if !s.me.settled || s.late 2 x.ua then s.stall .hold
        else
          let s1 := s.releaseTo s.here (s.levelOf s.me (stileNeed o true true).scope) (x.ua / 128)
          let phase := (stileOf (leNat (s1.homeRead 0 x.ua 16))).phase
          ((s1.stileOp x.ua fun t => t.arrive c).setG o.d.toNat (BitVec.ofNat 64 phase)).advance

/-- STEXP (R149). -/
def execStexp (o : FX) (s : State) : Host.Outcome State Fault Refusal :=
  checked (.stexp o) s fun s =>
    if !s.me.levels.isEmpty then s.hwAbort 5
    else s.withStile o true true fun s x =>
      match s.blocked [x] 16 true with
      | some w => s.stall w
      | none =>
        if s.late 2 x.ua || s.me.pending.any fun r => overlaps r.addr r.size x.ua 16 then s.stall .hold
        else (s.stileOp x.ua fun t => t.expectBytes (s.rg o.b.toNat).toInt).advance

/-- STWAIT (R150): the transaction on the phase word. -/
def execStwait (o : FX) (s : State) : Host.Outcome State Fault Refusal :=
  checked (.stwait o) s fun s => s.afterResults fun s =>
    State.unopen <| s.openAttempt s.me.pc fun s => s.withStile o true false fun s x =>
      s.txLoad [(0, x)] 4 true 0 fun s read =>
        let w := leNat (read x 4)
        if bits w 31 31 = 1 then s.trapAux 0x0F (stileOf (leNat (s.homeRead 0 x.ua 16))).cause
        else if BitVec.ofNat 64 (bits w 30 0) = s.rg o.b.toNat then s.retry
        else s.settleLevel fun s => s.advance

end Sys2Proof.Machine
end

