-- ==== Sys2Proof/Machine/Matrix.lean ====
section
/-! DEFINITION. Tile and matrix instructions as they issue (07_matrix_ops.md, R167 to R187, R404). What the matrix unit
then does stands in MatrixUnit.lean. -/

namespace Sys2Proof.Machine

/-! ## Descriptors and their shadow (R18, R19, R170) -/

/-- A tile descriptor. -/
structure Desc where
  fmt : Nat
  blk : Nat
  acc : Bool
  valid : Bool
  deriving DecidableEq, Repr, Inhabited

def Tile.desc (t : Tile) : Desc := { fmt := t.fmt.toNat, blk := t.blk.toNat, acc := t.acc, valid := t.valid }
def Workgroup.tile (w : Workgroup) (t : Nat) : Tile := SMap.get {} w.tiles t
def Workgroup.bank (w : Workgroup) (b : Nat) : Bank := SMap.get {} w.banks b

/-- The CIM width of a format; 0 for FP32 (R288). -/
def cimWidth (f : Nat) : Nat := if f = 0 then 0 else fmtBits f

/-- The tiles that an operation reads or writes (R176). -/
def MatKind.tiles : MatKind → List Nat
  | .tld t .. | .tst t .. | .tzero t => [t]
  | .tmov d a => [d, a]
  | .cimld _ t _ tr _ => (List.range (if tr then 4 else 1)).map (· + t)
  | .cimsel _ => []
  | .mma acc a _ tr _ _ p => [acc] ++ (if p.isSome then [acc + 1] else []) ++ (List.range (if tr then 4 else 1)).map (· + a)

/-- The tiles that an operation writes. -/
def MatKind.written : MatKind → List Nat
  | .tld t .. | .tzero t => [t]
  | .tmov d _ => [d]
  | .mma acc _ _ _ _ _ p => [acc] ++ if p.isSome then [acc + 1] else []
  | _ => []

/-- A tile's descriptor after a list of operations. -/
def shadowTile (w : Workgroup) : List MatKind → Nat → Desc
  | [], t => (w.tile t).desc
  | k :: earlier, t =>
    match k with
    | .tld d _ _ f b _ => if t = d then { fmt := f, blk := b, acc := false, valid := true } else shadowTile w earlier t
    | .tzero d => if t = d then { fmt := 0, blk := 0, acc := false, valid := true } else shadowTile w earlier t
    | .tmov d a => if t = d then shadowTile w earlier a else shadowTile w earlier t
    | .mma .. => if k.written.contains t then { shadowTile w earlier t with acc := true, valid := true } else shadowTile w earlier t
    | _ => shadowTile w earlier t

/-- A bank's width and format after a list of operations, newest first. -/
def shadowBank (w : Workgroup) : List MatKind → Nat → Nat × Nat
  | [], b => ((w.bank b).w, (w.bank b).fmt.toNat)
  | k :: earlier, b =>
    match k with
    | .cimld d t _ _ _ =>
      if b = d then (cimWidth (shadowTile w earlier t).fmt, (shadowTile w earlier t).fmt) else shadowBank w earlier b
    | _ => shadowBank w earlier b

/-- The gang's operations that have not started, newest first. -/
def State.openKinds (s : State) : List MatKind :=
  ((s.core.matq.filter fun o => o.gang == s.gang.id).map (·.kind)).reverse

/-! ## Issue (R168 to R171) -/

/-- The checks of a tile or matrix word: those of R50 up to ALLOT, the abort inside a transaction, then UNCOVERED
(R171, R404). -/
def matrixChecked (i : Instr) (s : State) (k : State → State) : Host.Outcome State Fault Refusal :=
  if s.me.id = 0 then .fault .noPart
  else match s.contextTrap i with
    | some (code, aux) => .next (if code = 0x0E && !s.me.levels.isEmpty then s.hwAbort 5 else s.trapAux code aux)
    | none => .next (if !s.me.levels.isEmpty then s.hwAbort 5 else k s)

/-- The part holds every slice of its gang that has not exited (R168). -/
def State.wholeGang (s : State) : Bool := s.me.slices == s.gang.started &&& ~~~s.gang.gone

/-- A matrix operation: MATRIX_MASK before its own checks. -/
def matrixOp (i : Instr) (s : State) (k : State → State) : Host.Outcome State Fault Refusal :=
  matrixChecked i s fun s => if !s.wholeGang then s.trapAux 0x0C 0 else k s

/-- PROT with AUX 0x08 (R170). -/
def State.formatTrap (s : State) : State := s.trapAux 8 8

/-- A copy owns one of the tiles (R256). -/
def State.ownedTile (s : State) (ts : List Nat) : Bool := ts.any fun t => s.ownedTiles.any fun o => o.2 == 16 * s.wg.id + t

/-- Bytes of memory that an operation reads or writes, chunk by chunk, with the scale bytes. -/
def chunkBytes (blk : Nat) (cs : List Chunk) : List (Nat × Nat) :=
  cs.flatMap fun c => (c.ua, 16) :: if blk = 0 then [] else [(c.sc0, 1), (c.sc1, 1)]

/-- Queue an operation (R169). The issue is a release toward the unit at device scope (R255), and a TST owns its
destination lines from now on (R256). -/
def State.queueOp (s : State) (kind : MatKind) : State :=
  if 255 ≤ s.gang.shOpen then s.illegal
  else if s.ownedTile kind.tiles then s.stall .tile
  else if 16 ≤ (s.core.matq.filter fun o => o.quadrant == s.gang.quad).length then s.stall .matrixQueue
  else if s.me.fenced then s.stall .fence
  else if !s.me.settled then s.stall .hold
  else
    let s1 := s.release s.here 2
    let op : MatOp := { id := s.nextId, gang := s.gang.id, workgroup := s.wg.id, quadrant := s.gang.quad,
                        harvest := s.ctx.harvest, kind := kind, pc := s.me.pc }
    let lines : List Nat := match kind with
      | .tst _ _ _ _ _ _ _ blk cs => distinct ((chunkBytes blk cs).map fun c => c.1 / 128)
      | _ => []
    { s1 with
      core := { s1.core with matq := s1.core.matq ++ [op] }
      gang := { s1.gang with shOpen := s1.gang.shOpen + 1, opsIssued := s1.gang.opsIssued + 1 }
      owned := s1.owned ++ lines.map fun l => (s.nextId, l)
      nextId := s.nextId + 1 }.advance

/-! ## TLD and TST (R172, R174) -/

def tilePartOf (o : FX) : Nat × Nat := (bits o.qual.toNat 11 6, bits o.qual.toNat 5 0 + 1)

/-- Translate every sixteen bytes of a list of rows at issue (R170). -/
def State.withRows (s : State) (need : Need) (vas : List Word64) (k : State → List (Word64 × Spot) → State) : State :=
  let ps := vas.map fun va => (va, s.vaPlace need va.toNat)
  let walks := ps.filterMap fun (_, p) => match p with | .walk va => some va | _ => none
  let t : TrapRec := { code := 8, lanes := s.present, acc := need.acc, size := need.sizeCode }
  if !walks.isEmpty then (walks.foldl State.startWalk s).stall .walk
  else if ps.any fun (_, p) => p == .hold then s.stall .hold
  else
    let fs := ps.filterMap fun (va, p) => match p with | .fault c a => some (va, c, a) | _ => none
    match [8, 9, 10].findSome? fun c => fs.find? fun f => f.2.1 == c with
    | some (va, c, a) => (s.clearWalkFault va.toNat).raise { t with code := c, aux := a, addr := va }
    | none =>
      let xs := ps.filterMap fun (va, p) => match p with | .spot x => some (va, x) | _ => none
      match fs.head? with
      | some (va, _, a) =>
        if s.recordsFull then s.stall .faultBuffer
        else
          let pages := fs.foldl (fun (acc : List (Nat × Nat)) f =>
            if acc.any (fun q => q.1 == f.1.toNat / 4096) then acc else acc ++ [(f.1.toNat / 4096, f.2.2)]) []
          let s1 := (pages.foldl (fun s p => s.clearWalkFault (4096 * p.1)) s).park
            { t with code := 7, aux := a, addr := va } pages
          { s1 with me := { s1.me with state := .faultParked } }
      | none =>
        let f (x : Word64 × Spot) : Nat × Nat := ((x.2.entry.getD default).fmt, (x.2.entry.getD default).blk)
        match xs.find? fun x => f x != f (xs.headD default) with
        | some x => s.raise { t with aux := 8, addr := x.1 }
        | none => k s xs

/-- A chunk with the places of its scale bytes. -/
def chunkOf (x : Word64 × Spot) : Chunk :=
  let e := x.2.entry.getD default
  { ua := x.2.ua, key := x.2.key, sc0 := e.scaleAddr x.1.toNat, sc1 := e.scaleAddr (x.1.toNat + 8),
    critical := x.2.critical, spans := x.2.spans }

/-- The addresses of the chunks of `n` rows of a length. -/
def rowAddrs (base stride : Word64) (n bytes : Nat) : List Word64 :=
  (List.range n).flatMap fun r => (List.range (bytes / 16)).map fun c =>
    base + BitVec.ofNat 64 r * stride + BitVec.ofNat 64 (16 * c)

/-- The alignment of base and stride (R172). -/
def State.rowsAligned (s : State) (need : Need) (base stride : Word64) (k : State) : State :=
  if base.toNat % 32 ≠ 0 || stride.toNat % 32 ≠ 0 then
    s.raise { code := 8, aux := 1, lanes := s.present, acc := need.acc, size := 4, addr := base }
  else k

/-- The format and geometry of the pages of a list of chunks. -/
def pageFmt (xs : List (Word64 × Spot)) : Nat × Nat :=
  match xs with
  | [] => (0, 0)
  | x :: _ => ((x.2.entry.getD default).fmt, (x.2.entry.getD default).blk)

/-- TLD (R172). -/
def execTld (o : FX) (s : State) : Host.Outcome State Fault Refusal :=
  matrixOp (.tld o) s fun s =>
    let (row0, n) := tilePartOf o
    let base := s.rg o.a.toNat; let stride := s.rg o.b.toNat
    let need : Need := { space := 4, size := 16, r := true, w := false, scope := 3, sizeCode := 4 }
    if 64 < row0 + n then s.illegal
    else s.rowsAligned need base stride <| s.withRows need (rowAddrs base stride n 256) fun s xs =>
      s.queueOp (.tld o.d.toNat row0 n (pageFmt xs).1 (pageFmt xs).2 (xs.map chunkOf))

/-- The element width of a stored row and its elements (R174): an accumulator holds 64 FP32 values. -/
def rowElems (src : Option Nat) : Nat := match src with | none => 64 | some f => 2048 / fmtBits f

/-- TST (R174). -/
def execTst (o : FX) (s : State) : Host.Outcome State Fault Refusal :=
  matrixOp (.tst o) s fun s =>
    let (row0, n) := tilePartOf o
    let base := s.rg o.a.toNat; let stride := s.rg o.b.toNat
    let need : Need := { space := 4, size := 16, r := false, w := true, scope := 3, sizeCode := 4 }
    let d := shadowTile s.wg s.openKinds o.d.toNat
    let src := if d.acc then none else some d.fmt
    if 64 < row0 + n then s.illegal
    else s.rowsAligned need base stride <|
      -- the row's length on the page follows from the format of its first page
      s.withRows need [base] fun s ys =>
        let bytes := rowElems src * fmtBits (pageFmt ys).1 / 8
        s.withRows need (rowAddrs base stride n bytes) fun s xs =>
          s.queueOp (.tst o.d.toNat row0 n (o.c.toNat % 2 == 1) src d.blk (pageFmt xs).1 (pageFmt xs).2 (xs.map chunkOf))

/-! ## Tiles (R175 to R177) -/

/-- TZERO (R175). -/
def execTzero (o : FX) (s : State) : Host.Outcome State Fault Refusal :=
  matrixOp (.tzero o) s fun s => s.queueOp (.tzero o.d.toNat)

/-- TMOV (R175). -/
def execTmov (o : FX) (s : State) : Host.Outcome State Fault Refusal :=
  matrixOp (.tmov o) s fun s => s.queueOp (.tmov o.d.toNat o.a.toNat)

/-- An open operation of the gang names the tile (R176). -/
def State.tileBusy (s : State) (t : Nat) : Bool :=
  (s.core.matq ++ s.core.running.toList).any fun o => o.gang == s.gang.id && o.kind.tiles.contains t

/-- A tile as a read sees it: bytes that a running operation of another gang writes are old or new (R20). -/
def State.tileByte (s : State) (t : Nat) (side : Bool) (i : Nat) : Byte :=
  let get (x : Tile) : Byte := if side then SMap.get 0 x.side i else SMap.get 0 x.data i
  let now := get (s.wg.tile t)
  match s.core.running with
  | some o =>
    match if o.workgroup = s.wg.id then lookupKey o.before t else none with
    | some old => if Config.raceNew s.tick (i + if side then 16384 else 0) then now else get old
    | none => now
  | none => now

/-- Where the bytes of a lane lie, and how many there are; `side` for the sidecar (R176). -/
def tilePlace (o : FX) (l : Nat) : Bool × Nat × Nat :=
  let q := o.qual.toNat
  let h := bits q 9 9; let i := bits q 5 0
  if bits q 10 10 = 1 then (true, 8 * (32 * h + l), 8)
  else if bits q 11 11 = 1 then (false, 256 * (32 * h + l) + 4 * i, 4)
  else (false, 256 * i + 128 * h + 4 * l, 4)

/-- The words of a tile, and of its sidecar from 4,096 on, that a lane names. -/
def tileWords (o : FX) (l : Nat) : List Nat :=
  let (side, i, n) := tilePlace o l
  (List.range (n / 4)).map fun k => i / 4 + k + if side then 4096 else 0

/-- TRD (R176): it is no matrix operation, and any part may issue it, inside a transaction too (R168, R171). -/
def execTrd (o : FX) (s : State) : Host.Outcome State Fault Refusal :=
  checked (.trd o) s fun s =>
    let t := o.a.toNat
    let bad := (lanesOf (s.active o.guard)).filter fun l => (s.wg.tile t).bad.any ((tileWords o l).contains ·)
    if s.tileBusy t || s.ownedTile [t] then s.stall .tile
    else if !bad.isEmpty then s.raise { code := 0x0B, lanes := maskOfList bad }
    else
      let ws := (lanesOf (s.active o.guard)).flatMap fun l =>
        let (side, i, n) := tilePlace o l
        loadWrites o.d.toNat n l (leNat ((List.range n).map fun k => s.tileByte t side (i + k))) false
      (s.emit ws [] 0).advance

/-- TWR (R177). -/
def execTwr (o : FX) (s : State) : Host.Outcome State Fault Refusal :=
  matrixChecked (.twr o) s fun s =>
    let t := o.a.toNat
    if s.tileBusy t || s.ownedTile [t] then s.stall .tile
    else
      let put (x : Tile) (l : Nat) : Tile :=
        let (side, i, n) := tilePlace o l
        let bs := leBytes n (s.laneData o.d.toNat n l)
        if side then { x with side := SMap.putAll 0 x.side i bs } else { x with data := SMap.putAll 0 x.data i bs }
      let ls := lanesOf (s.active o.guard)
      let old := s.wg.tile t
      let x := ls.foldl put { old with bad := old.bad.filter fun k => !ls.any fun l => (tileWords o l).contains k }
      let c := o.c.toNat
      let y : Tile := if bits c 8 8 = 1
        then { x with valid := true, acc := false, fmt := BitVec.ofNat 4 (bits c 3 0), blk := BitVec.ofNat 2 (bits c 5 4) }
        else { x with valid := true, acc := false }
      { s with wg := { s.wg with tiles := SMap.put {} s.wg.tiles t y } }.advance

/-! ## Banks (R179, R180) -/

/-- CIMLD (R179). -/
def execCimld (o : FX) (s : State) : Host.Outcome State Fault Refusal :=
  matrixOp (.cimld o) s fun s =>
    let q := o.qual.toNat
    let tr := bits q 3 3 = 1
    let ds := (List.range (if tr then 4 else 1)).map fun i => shadowTile s.wg s.openKinds (o.a.toNat + i)
    if ds.any fun d => d.fmt == 0 || d.fmt != (ds.headD default).fmt || (tr && d.blk != 0) then s.formatTrap
    else s.queueOp (.cimld o.d.toNat o.a.toNat (bits q 2 0) tr (bits q 5 4))

/-- CIMSEL (R180). -/
def execCimsel (o : FX) (s : State) : Host.Outcome State Fault Refusal :=
  matrixOp (.cimsel o) s fun s => s.queueOp (.cimsel (if bits o.qual.toNat 0 0 = 1 then none else some o.d.toNat))

/-! ## MMA and MMAS (R181 to R184, R404) -/

/-- The workgroup on the next core east in the paddock (R184). -/
def State.follower (s : State) : Option Workgroup :=
  if s.wg.px + 1 < s.ctx.padW then
    s.allWgs.find? fun w => w.context == s.ctx.id && w.pidx == s.wg.pidx && w.px == s.wg.px + 1 && w.py == s.wg.py
  else none

/-- The bank that a follower offers. A CIMSEL that its unit has not performed may be seen already by a leader's MMA: the spec
orders the two by sheaves alone (R180, R287), so a free value says (log 32). -/
def State.offerOf (s : State) (f : Workgroup) : Option Nat :=
  let early := ((s.getCore f.core).matq.filter fun o => o.workgroup == f.id).filterMap fun o =>
    match o.kind with | .cimsel b => some b | _ => none
  match early.getLast? with
  | some b => if Config.offerEarly s.tick then b else f.offer
  | none => f.offer

/-- PAIR_ABSENT: what stands against a paired MMA with a bank of width `w`, in the order 0x01, 0x03, 0x02, 0x04; else the
follower and its bank. -/
def State.pairing (s : State) (w : Nat) : Except Nat (Nat × Nat) :=
  if s.ctx.padW ≤ s.wg.px + 1 then .error 1
  else match s.follower with
    | none => .error 3
    | some f =>
      if f.state != .running || (s.gangsOfWg f.id).isEmpty then .error 3
      else match s.offerOf f with
        | none => .error 2
        | some b => if (f.bank b).w ≠ w then .error 4 else .ok (f.id, b)

/-- The checks of the formats (R404 step 6), given the descriptors of the accumulators, of A's tiles and the bank. -/
def mmaFormats (accs as : List Desc) (w prec : Nat) : Bool :=
  w != 0 && accs.all (fun d => d.fmt == 0) &&
  as.all (fun d => d.fmt != 0 && d.fmt == (as.headD default).fmt && !(d.fmt == 6 && prec == 0))

/-- The geometry of A (R182). -/
def mmaGeometry (tr : Bool) (aoff e m : Nat) : Bool :=
  if tr then aoff * m + m ≤ 2048 / e else 128 * aoff % (32 * e) == 0 && 128 * aoff + 32 * e * m ≤ 16384

/-- MMA and MMAS. -/
def State.multiply (s : State) (o : FX) (paired : Bool) : State :=
  let q := o.qual.toNat
  let tr := bits q 9 9 = 1
  let aoff := bits q 8 2
  let prec := bits q 1 0
  let ks := s.openKinds
  let accs := (List.range (if paired then 2 else 1)).map fun i => shadowTile s.wg ks (o.d.toNat + i)
  let as := (List.range (if tr then 4 else 1)).map fun i => shadowTile s.wg ks (o.a.toNat + i)
  let w := (shadowBank s.wg ks o.b.toNat).1
  if !mmaFormats accs as w prec then s.formatTrap
  else if !mmaGeometry tr aoff (fmtBits (as.headD default).fmt) w then s.illegal
  else if paired then
    match s.pairing w with
    | .error aux => s.trapAux 0x0D aux
    | .ok p => s.queueOp (.mma o.d.toNat o.a.toNat o.b.toNat tr aoff prec (some p))
  else s.queueOp (.mma o.d.toNat o.a.toNat o.b.toNat tr aoff prec none)

/-- MMA (R183). -/
def execMma (o : FX) (s : State) : Host.Outcome State Fault Refusal := matrixOp (.mma o) s fun s => s.multiply o true

/-- MMAS (R183). -/
def execMmas (o : FX) (s : State) : Host.Outcome State Fault Refusal := matrixOp (.mmas o) s fun s => s.multiply o false

/-! ## Sheaves (R186, R187) -/

/-- Complete, in number order, the sheaves of a gang whose operations have all retired and whose stores have been performed
(R174, R186): the number goes to the sheaf word, unless a hold of a serial token's holder stands on it (R276). -/
def State.finishSheaves (s : State) (g : Nat) : Nat → State
  | 0 => s
  | n + 1 =>
    let x := s.getGang g
    match x.sheaves with
    | [] => s
    | h :: rest =>
      if x.opsRetired < h.upTo || (x.stores.any fun r => r.id < h.upToId) || (s.heldByOther 0 h.word 8 true).isSome || s.ownedUnit 0 h.word 8 then s
      else
        let s1 := (s.homeWrite 0 h.word (leBytes 8 h.number)).updGang g fun x =>
          { x with sheaves := rest, shDone := BitVec.ofNat 16 h.number }
        s1.finishSheaves g n

/-- SHEAF (R186). -/
def execSheaf (o : FX) (s : State) : Host.Outcome State Fault Refusal :=
  matrixOp (.sheaf o) s fun s =>
    let a := s.rg o.a.toNat
    let t : TrapRec := { code := 8, lanes := s.present, acc := 2 * 64 + 8 + 1, size := 3, addr := a }
    if a.toNat % 8 ≠ 0 then s.raise { t with aux := 1 }
    else if s.wg.scr ≤ a.toNat then s.raise { t with aux := 3 }
    else
      let k := s.gang.shNext
      let h : Sheaf := { number := k.toNat, word := spadAddr s.here (s.wg.sbase + a.toNat), upTo := s.gang.opsIssued,
                         upToId := s.nextId }
      let s1 := { s.setG o.d.toNat (k.zeroExtend 64) with
        gang := { s.gang with shNext := k + 1, shOpen := 0, sheaves := s.gang.sheaves ++ [h] } }
      (s1.finishSheaves s.gang.id (s1.gang.sheaves.length)).advance

/-- MWAIT (R187): the transaction on the sheaf word. -/
def execMwait (o : FX) (s : State) : Host.Outcome State Fault Refusal :=
  checked (.mwait o) s fun s =>
    if !s.wholeGang then s.trapAux 0x0C 0
    else
      let a := s.rg o.a.toNat
      let t : TrapRec := { code := 8, lanes := s.present, acc := 64 + 8 + 1, size := 3, addr := a }
      s.afterResults fun s => State.unopen <| s.openAttempt s.me.pc fun s =>
        if a.toNat % 8 ≠ 0 then s.raise { t with aux := 1 }
        else if s.wg.scr < a.toNat + 8 then s.raise { t with aux := 3 }
        else
          let x : Spot := { ua := spadAddr s.here (s.wg.sbase + a.toNat) }
          if s.isPoisoned x.ua 8 then s.raise { t with code := 0x0B }
          else s.txLoad [(0, x)] 8 true 0 fun s read =>
            let w : Nat := leNat (read x 8)
            if 32768 ≤ (w % 65536 + 65536 - (s.rg o.b.toNat).toNat % 65536) % 65536 then s.retry
            else s.settleLevel fun s => s.advance

end Sys2Proof.Machine
end

