-- ==== Sys2Proof/Machine/MatrixUnit.lean ====
section
/-! DEFINITION. The matrix unit: what each operation does between its start and its retirement (07_matrix_ops.md, R169,
R172 to R186), and matrix arithmetic (16_numbers.md, R297 to R303). -/

namespace Sys2Proof.Machine

/-! ## Matrix arithmetic (R298 to R301) -/

/-- An element with its scale code. -/
abbrev Elem := Nat × Nat

/-- One side's alignment of a K-block: the integers, the exponent, and whether a value changed (R298). -/
def alignBlock (f width : Nat) (xs : List Elem) : List Int × Int × Bool :=
  match ffmtOf f with
  | none =>
    let c := xs.foldl (fun m x => if x.2 ≠ 0 then max m x.2 else m) 0
    let c := if c = 0 then 127 else c
    let qs := xs.map fun x =>
      if x.2 = 0 then ((0 : Int), true)
      else
        let z := sInt (fmtBits f) x.1
        toIntF 0 (z < 0) z.natAbs ((x.2 : Int) - c)
    (qs.map (·.1), (c : Int) - 127, qs.any fun q => !q.2)
  | some _ =>
    let vs := xs.map fun x => underCode f x.1 x.2
    match vs.filterMap fun v => match v with | .fin _ m e => if m = 0 then none else some (floorLog m e) | _ => none with
    | [] => (vs.map fun _ => 0, 0, false)
    | l :: ls =>
      let e := ls.foldl max l
      let hi : Int := 2 ^ (width - 1) - 1
      let qs := vs.map fun v => match v with
        | .fin neg m g =>
          let (t, ex) := toIntF 0 neg m (g + (width : Int) - 2 - e)
          let c := if t < -hi then -hi else if hi < t then hi else t
          (c, ex && c == t)
        | _ => (0, true)
      (qs.map (·.1), e - (width : Int) + 2, qs.any fun q => !q.2)

/-- Does an element make its block's contribution NaN (R301)? -/
def spoils (f : Nat) (x : Elem) : Bool :=
  x.2 == 0xFF || (x.2 != 0 && match underCode f x.1 x.2 with | .fin .. => false | _ => true)

/-- A K-block's contribution, with its flags (R299, R301). `p` and `q` are the widths of the two sides. -/
def contribution (fa fb p q : Nat) (as bs : List Elem) : FVal × BitVec 6 :=
  if as.any (spoils fa) || bs.any (spoils fb) then (.nan false, flagNV)
  else
    let (qa, ea, na) := alignBlock fa p as
    let (qb, eb, nb) := alignBlock fb q bs
    let dot := (List.zipWith (· * ·) qa qb).foldl (· + ·) 0
    let nx := if na || nb then flagNX else 0
    if dot = 0 then (.fin false 0 0, nx)
    else
      let (w, fl) := toF32 (.fin (dot < 0) dot.natAbs (ea + eb)) 0 false false
      (fmt32.decode w.toNat, fl ||| nx)

/-- An addition of R300. -/
def addM (x y : FVal × BitVec 6) : FVal × BitVec 6 :=
  let (w, fl) := addF32 0 false false x.1 y.1
  (fmt32.decode w.toNat, x.2 ||| y.2 ||| fl)

/-- mma_pass (R298 to R301): the accumulator's bits, and the 256 elements of each side. -/
def mmaPass (fa fb p q : Nat) (acc : Nat) (as bs : List Elem) : Nat × BitVec 6 :=
  let c (j : Nat) : FVal × BitVec 6 := contribution fa fb p q ((as.drop (32 * j)).take 32) ((bs.drop (32 * j)).take 32)
  let t := addM (addM (addM (c 0) (c 1)) (addM (c 2) (c 3))) (addM (addM (c 4) (c 5)) (addM (c 6) (c 7)))
  let a : FVal := match fmt32.decode acc with | .nan _ => .nan false | v => v
  let (w, fl) := addF32 0 false false a t.1
  (w.toNat, t.2 ||| fl)

/-! ## Reading tiles and banks (R178, R182) -/

/-- `n` bits at a bit offset of bytes. -/
def bitsAt (get : Nat → Byte) (bit n : Nat) : Nat :=
  if n < 8 then (get (bit / 8)).toNat / 2 ^ (bit % 8) % 2 ^ n else leNat ((List.range (n / 8)).map fun i => get (bit / 8 + i))

/-- Element `i` of row `r` of a tile of a format, with its segment's code. -/
def Tile.elem (t : Tile) (f r i : Nat) : Elem :=
  let e := fmtBits f
  (bitsAt (fun b => SMap.get 0 t.data b) (r * 2048 + i * e) e, (SMap.get 0 t.side (8 * r + i * e / 256)).toNat)

/-- Element (m, k) of A (R182). -/
def aElem (w : Workgroup) (a : Nat) (tr : Bool) (aoff mm : Nat) (m k : Nat) : Elem :=
  let f := (w.tile a).fmt.toNat
  if tr then (w.tile (a + k / 64)).elem f (k % 64) (aoff * mm + m)
  else
    let bit := (128 * aoff + 32 * fmtBits f * m) * 8 + k * fmtBits f
    (w.tile a).elem f (bit / 2048) (bit % 2048 / fmtBits f)

/-- The place of element (k, n) in its part: row, bit of the row, and the sidecar byte of the row (R178). -/
def bankPlace (w n k : Nat) : Nat × Nat × Nat × Nat :=
  match w with
  | 8 => (n / 64, n % 64, 8 * k, k / 32)
  | 4 => (n / 128, n % 128 / 2, 1024 * (n % 2) + 4 * k, 4 * (n % 2) + k / 64)
  | _ => (n / 32, 2 * (n % 32) + k / 128, 16 * (k % 128), k % 128 / 16)

/-- Element (k, n) of a bank; a part that is not loaded reads zero under code 0x00. -/
def Bank.elem (b : Bank) (n k : Nat) : Elem :=
  let (p, row, bit, seg) := bankPlace b.w n k
  if b.loaded.getLsbD p then
    (bitsAt (fun i => SMap.get 0 b.data (16384 * p + i)) (row * 2048 + bit) b.w, (SMap.get 0 b.side (512 * p + 8 * row + seg)).toNat)
  else (0, 0)

/-- A map given by its values below a bound, without its defaults. -/
def mapOf (n : Nat) (f : Nat → Byte) : SMap Byte :=
  (List.range n).filterMap fun i => if f i = 0 then none else some (i, f i)

/-- The bytes of a list of FP32 values. -/
def wordsMap (xs : List Nat) : SMap Byte :=
  (xs.zipIdx.flatMap fun (x, i) => (leBytes 4 x).zipIdx.map fun (b, j) => (4 * i + j, b)).filter fun e => e.2 != 0

/-- Multiply A into an accumulator tile over a bank (R181, R183). -/
def multiplyInto (w : Workgroup) (a : Nat) (tr : Bool) (aoff prec : Nat) (b : Bank) (t : Tile) : Tile × BitVec 6 :=
  let f := (w.tile a).fmt.toNat
  let p := 4 * (prec + 1)
  let fb := b.fmt.toNat
  let q := if 6 ≤ fb then b.w else 2 * b.w
  let cols := 4096 / b.w
  let outs := (List.range 4096).map fun i =>
    let m := i / cols; let n := i % cols
    mmaPass f fb p q (leNat (SMap.getAll 0 t.data (4 * i) 4)) ((List.range 256).map fun k => aElem w a tr aoff b.w m k)
      ((List.range 256).map fun k => b.elem n k)
  ({ t with data := wordsMap (outs.map (·.1)), acc := true, valid := true }, outs.foldl (fun fl x => fl ||| x.2) 0)

/-! ## TLD's rows (R172, R173) -/

/-- One page block's share of a segment, 8 bytes under the code `c` (R173): elements of a zero block become +0; those of
the largest code, and all others beside a NaN block, are raw; the rest are re-encoded under the larger code. -/
def reencode (f c cmax : Nat) (bs : List Byte) : List Byte × BitVec 6 :=
  let e := fmtBits f
  if c = 0 then (bs.map fun _ => 0, 0)
  else if c = cmax || cmax = 0xFF then (bs, 0)
  else
    let x := leNat bs
    let es := (List.range (bs.length * 8 / e)).map fun i =>
      encodeTo f (scaleF (valueOf f (x / 2 ^ (i * e) % 2 ^ e)) ((c : Int) - cmax)) 0 false
    (leBytes bs.length (es.zipIdx.foldl (fun a (y, i) => a + y.1 % 2 ^ e * 2 ^ (i * e)) 0),
     es.foldl (fun a y => a ||| y.2) 0)

/-- A segment of a row: its bytes, its sidecar byte and the flags, from two chunks (R173). -/
def State.segment (s : State) (f blk : Nat) (c0 c1 : Chunk) : List Byte × Nat × BitVec 6 :=
  let read (c : Chunk) : List Byte := s.homeRead c.key c.ua 16
  let bs := read c0 ++ read c1
  if blk = 0 then (bs, 0x7F, 0)
  else
    let places := [(c0.key, c0.sc0), (c0.key, c0.sc1), (c1.key, c1.sc0), (c1.key, c1.sc1)]
    let codes := places.map fun p => leNat (s.homeRead p.1 p.2 1)
    if (distinct (places.map (·.2))).length = 1 then (bs, codes.headD 0, 0)
    else
      let cmax := codes.foldl max 0
      let gs := (List.range 4).map fun i => reencode f (codes.getD i 0) cmax ((bs.drop (8 * i)).take 8)
      ((gs.map (·.1)).flatten, cmax, gs.foldl (fun a g => a ||| g.2) 0)

/-- TLD's segments, each with its number in the tile. -/
def State.loadSegments (s : State) (f blk row0 : Nat) (cs : List Chunk) : List (Nat × List Byte × Nat × BitVec 6) :=
  (List.range (cs.length / 2)).map fun i => (8 * row0 + i, s.segment f blk (cs.getD (2 * i) default) (cs.getD (2 * i + 1) default))

/-! ## TST's rows (R174) -/

/-- The value of element `i` of row `r`, and its bits. -/
def storedElem (t : Tile) (src : Option Nat) (r i : Nat) : FVal × Nat :=
  match src with
  | none => let x := (t.elem 0 r i).1; (fmt32.decode x, x)
  | some f => let x := t.elem f r i; (underCode f x.1 x.2, x.1)

/-- The raw path of R174. -/
def rawPath (src : Option Nat) (sblk fmt blk : Nat) : Bool :=
  src == some fmt && ((sblk == 0 && blk == 0) || (blk != 0 && blkElems blk * fmtBits fmt == 256))

/-- The elements of a row with the scale byte's place of each. -/
def rowPlaces (fmt count : Nat) (cs : List Chunk) : List Nat :=
  (List.range count).map fun i =>
    let o := i * fmtBits fmt / 8
    let c := cs.getD (o / 16) default
    if o % 16 < 8 then c.sc0 else c.sc1

/-- What a row writes: its bytes, the scale bytes by place, and the flags. DESIGN CHOICE (log 49): where scaled elements make
a block's scale exceed 0xFE, which R294 does not foresee, the row is encoded under that scale and its low 8 bits are stored. -/
def storeRow (t : Tile) (src : Option Nat) (sblk fmt blk : Nat) (sat : Bool) (r : Nat) (cs : List Chunk) :
    List Byte × List (Nat × Nat) × BitVec 6 :=
  let count := rowElems src
  let e := fmtBits fmt
  let pack (xs : List Nat) : List Byte :=
    leBytes (count * e / 8) (xs.zipIdx.foldl (fun a (x, i) => a + x % 2 ^ e * 2 ^ (i * e)) 0)
  let ps := rowPlaces fmt count cs
  if rawPath src sblk fmt blk then
    let codes := if blk = 0 then [] else (List.range count).map fun i => (ps.getD i 0, (t.elem fmt r i).2)
    (pack ((List.range count).map fun i => (storedElem t src r i).2), codes, 0)
  else
    let xs := (List.range count).map fun i => storedElem t src r i
    if blk = 0 then
      let es := xs.map fun x => if fmt = 0 && src.isNone then (x.2, (0 : BitVec 6)) else encodeTo fmt x.1 0 sat
      (pack (es.map (·.1)), [], es.foldl (fun a x => a ||| x.2) 0)
    else
      let code (p : Nat) : Nat × BitVec 6 :=
        blockScale fmt ((xs.zip ps).filterMap fun (x, q) => if q = p then some x.1 else none)
      let es := (xs.zip ps).map fun (x, p) =>
        let (y, fl) := encodeUnder fmt (code p).1 x.1 sat
        (y, fl ||| nvOf [x.1])
      let blocks := distinct ps
      (pack (es.map (·.1)), blocks.map fun p => (p, (code p).1),
       blocks.foldl (fun a p => a ||| (code p).2) (es.foldl (fun a x => a ||| x.2) 0))

/-- The stores of one row, each 16 bytes or a scale byte: they belong to the operation (R239). -/
def rowStores (o : MatOp) (cs : List Chunk) (bs : List Byte) (codes : List (Nat × Nat)) : List Req :=
  let c0 := cs.headD default
  let req (c : Chunk) (a n x : Nat) : Req :=
    { id := o.id, kind := .write, addr := a, size := n, key := c.key, harvest := o.harvest, data := x, critical := c.critical,
      spans := c.spans }
  (cs.zipIdx.map fun (c, i) => req c c.ua 16 (leNat ((bs.drop (16 * i)).take 16))) ++
    codes.eraseDups.map fun c => req c0 c.1 1 c.2

/-! ## CIMLD (R179) -/

/-- The transposed part: element (k, n) of the part from the four tiles' columns. -/
def transposedPart (w : Workgroup) (tile col width part : Nat) : SMap Byte × SMap Byte :=
  let f := (w.tile tile).fmt.toNat
  let cols := 512 / width
  let el (n k : Nat) : Nat := ((w.tile (tile + k / 64)).elem f (k % 64) (col * cols + n)).1
  -- the byte at an offset of the part, from the elements that lie in it
  let byteAt (o : Nat) : Byte :=
    let row := o / 256; let b := o % 256
    BitVec.ofNat 8 (match width with
      | 8 => el row b
      | 4 => el (2 * row + b / 128) (2 * (b % 128)) + 16 * el (2 * row + b / 128) (2 * (b % 128) + 1)
      | _ => el (row / 2) (128 * (row % 2) + b / 2) / 2 ^ (8 * (b % 2)) % 256)
  let _ := part
  (mapOf 16384 byteAt, mapOf 512 fun _ => 0x7F)

/-- Keys moved up by an offset. -/
def shiftKeys (n : Nat) (m : SMap Byte) : SMap Byte := m.map fun e => (e.1 + n, e.2)

/-- A part put into a bank. -/
def putPart (size part : Nat) (m new : SMap Byte) : SMap Byte :=
  m.takeWhile (fun e => e.1 < size * part) ++ shiftKeys (size * part) new ++ m.dropWhile (fun e => e.1 < size * (part + 1))

/-- CIMLD's effect on its bank. -/
def loadPart (w : Workgroup) (b : Bank) (tile part : Nat) (tr : Bool) (col : Nat) : Bank :=
  let t := w.tile tile
  let width := cimWidth t.fmt.toNat
  let b1 : Bank := if b.w = width && b.fmt = t.fmt then b else { w := width, fmt := t.fmt }
  let (d, c) := if tr then transposedPart w tile col width part else (t.data, t.side)
  { b1 with data := putPart 16384 part b1.data d, side := putPart 512 part b1.side c,
            loaded := b1.loaded ||| BitVec.ofNat 8 (2 ^ part), bad := b1.bad.filter (· != part) }

/-! ## Start and retirement (R169) -/

/-- The next operation of a class: quadrants in rotation, and the oldest of that class in the first that holds one. -/
def pickOp (q : List MatOp) (rot : Nat) (h : Bool) : Option MatOp :=
  (List.range 4).findSome? fun i => q.find? fun o => o.quadrant == (rot + i) % 4 && o.harvest == h

/-- The operation that the unit takes next. -/
def Core.nextOp (c : Core) : Option MatOp :=
  match pickOp c.matq c.rotG false with
  | some o => some o
  | none => pickOp c.matq c.rotH true

/-- Nothing keeps an access of an operation waiting at bytes: no copy owns them that does not itself wait for a TST, no
TST that came before, and no hold, zeroing, bank or earlier request stands in the way (R256, R276, R314, R318, R394). A TST
owns its lines from issue, so no later owner keeps its stores waiting. -/
def State.unitFree (s : State) (id a n : Nat) (w : Bool) : Bool :=
  !(s.owned.any fun o => (o.1 < id || (!w && s.copies.any fun j => j.id == o.1)) && (linesOf a n).contains o.2) &&
  (s.heldByOther 0 a n w).isNone && !s.zeroingAt a n && !s.gatedAt a && !s.queued a n

/-- No copy owns a tile that the operation names (R256). -/
def State.tilesFree (s : State) (o : MatOp) : Bool :=
  o.kind.tiles.all fun t => s.ownedTiles.all fun x => x.2 != 16 * o.workgroup + t

/-- The tiles of an operation and the memory that it reads stand free. The stores of a TST wait for their own places. -/
def State.opFree (s : State) (o : MatOp) : Bool :=
  s.tilesFree o &&
  match o.kind with
  | .tld _ _ _ _ blk cs => (chunkBytes blk cs).all fun c => s.unitFree o.id c.1 c.2 false
  | .mma _ _ _ _ _ _ (some (f, _)) =>
    let k := s.getCore (s.getWg f).core
    k.running.isNone && k.slaved.isNone
  | _ => true

/-- The end of a gang's context that a step without an issuing part causes: the record names one of its parts. -/
def State.endGang (s : State) (g : Nat) (t : TrapRec) : State :=
  match s.allParts.find? fun p => p.gang == g && p.state != .exited with
  | some p => let s1 := s.takeUp p.id; s1.endHere { t with lanes := s1.present } t.pc
  | none => s.endContext (s.ctxOfGang g) t.code t.aux t.pc 0

/-- The row of a tile's word, or of one of its sidecar. -/
def wordRow (x : Nat) : Nat := if x < 4096 then x / 64 else (x - 4096) / 2

/-- TLD's effect. -/
def State.doTld (s : State) (o : MatOp) (tile row0 f blk : Nat) (cs : List Chunk) : State × BitVec 6 :=
  let s := cs.foldl (fun s c => s.sendPeer c.ua (s.getCtx (s.ctxOfGang o.gang)).harvest c.critical) s
  let segs := s.loadSegments f blk row0 cs
  let w := s.getWg o.workgroup
  let t := w.tile tile
  let data := segs.foldl (fun m x => SMap.putAll 0 m (32 * x.1) x.2.1) t.data
  let side := segs.foldl (fun m x => SMap.put 0 m x.1 (BitVec.ofNat 8 x.2.2.1)) t.side
  let rows := cs.length / 16
  let t1 : Tile := { data := data, side := side, fmt := BitVec.ofNat 4 f, blk := BitVec.ofNat 2 blk, acc := false, valid := true,
                     bad := t.bad.filter fun x => !(row0 ≤ wordRow x && wordRow x < row0 + rows) }
  (s.updWg o.workgroup fun w => { w with tiles := SMap.put {} w.tiles tile t1 },
   segs.foldl (fun a x => a ||| x.2.2.2) 0)

/-- TST's effect: the rows as they stand become stores of its gang (R174). -/
def State.doTst (s : State) (o : MatOp) (tile row0 n : Nat) (sat : Bool) (src : Option Nat) (sblk fmt blk : Nat)
    (cs : List Chunk) : State × BitVec 6 :=
  let t := (s.getWg o.workgroup).tile tile
  let per := rowElems src * fmtBits fmt / 8 / 16
  let rows := (List.range n).map fun r =>
    let row := (cs.drop (per * r)).take per
    let x := storeRow t src sblk fmt blk sat (row0 + r) row
    (rowStores o row x.1 x.2.1, x.2.2)
  (s.updGang o.gang fun g => { g with stores := g.stores ++ rows.flatMap (·.1) }, rows.foldl (fun a r => a ||| r.2) 0)

/-- A store of a gang's TST is performed at its home, once nothing keeps it waiting there, and the sheaves that it
completes write their words (R174, R186). When it was the operation's last on a line the line is owned no more (R257). -/
def State.unitStore (s : State) (g : Nat) (r : Req) : State :=
  let s1 := s.yieldAt r.harvest r.addr r.size
  if !s1.unitFree r.id r.addr r.size true then s1
  else
    let s2 := ((s1.engineWrite r.key r.addr (leBytes r.size r.data) r.critical r.harvest).replaceSectors r.id r.addr r.size).updGang g fun x =>
      { x with stores := x.stores.erase r }
    let left := (s2.getGang g).stores.filter fun x => x.id == r.id
    let s3 := { s2 with owned := s2.owned.filter fun o =>
      o.1 != r.id || left.any fun x => (linesOf x.addr x.size).contains o.2 }
    s3.finishSheaves g (s3.getGang g).sheaves.length

/-- MMA's and MMAS's effect: each half that computes writes its accumulator. -/
def State.doMma (s : State) (o : MatOp) (acc a bank : Nat) (tr : Bool) (aoff prec : Nat) (paired : Option (Nat × Nat)) :
    State × BitVec 6 :=
  let w := s.getWg o.workgroup
  let b := w.bank bank
  let (t0, f0) := if b.w = 0 then (w.tile acc, 0) else multiplyInto w a tr aoff prec b (w.tile acc)
  let ts := SMap.put {} w.tiles acc t0
  match paired with
  | none => (s.updWg o.workgroup fun w => { w with tiles := ts }, f0)
  | some (fw, fbank) =>
    let fb := (s.getWg fw).bank fbank
    if fb.w = 0 || fb.w ≠ b.w then (s.updWg o.workgroup fun w => { w with tiles := ts }, f0)
    else
      let (t1, f1) := multiplyInto w a tr aoff prec fb (w.tile (acc + 1))
      (s.updWg o.workgroup fun w => { w with tiles := SMap.put {} ts (acc + 1) t1 }, f0 ||| f1)

/-- What an operation does when it starts, with the flags that it raises when it retires. -/
def State.startOp (s : State) (o : MatOp) : State × BitVec 6 :=
  match o.kind with
  | .tld t row0 _ f blk cs => s.doTld o t row0 f blk cs
  | .tst t row0 n sat src sblk f blk cs => s.doTst o t row0 n sat src sblk f blk cs
  | .tzero t =>
    let z : Tile := { side := mapOf 512 fun _ => 0x7F, valid := true }
    (s.updWg o.workgroup fun w => { w with tiles := SMap.put {} w.tiles t z }, 0)
  | .tmov d a => (s.updWg o.workgroup fun w => { w with tiles := SMap.put {} w.tiles d (w.tile a) }, 0)
  | .cimld b t p tr col =>
    (s.updWg o.workgroup fun w =>
      if (w.tile t).fmt = 0 then w else { w with banks := SMap.put {} w.banks b (loadPart w (w.bank b) t p tr col) }, 0)
  | .cimsel b => (s.updWg o.workgroup fun w => { w with offer := b }, 0)
  | .mma acc a b tr aoff prec p => s.doMma o acc a b tr aoff prec p

/-- An operation would read poisoned data: of memory (R170), of a tile or of a bank (R397). -/
def State.opPoisoned (s : State) (o : MatOp) : Bool :=
  let w := s.getWg o.workgroup
  let tileBad (t : Nat) : Bool := !(w.tile t).bad.isEmpty
  match o.kind with
  | .tld _ _ _ _ blk cs => (chunkBytes blk cs).any fun c => s.isPoisoned c.1 c.2
  | .tst t row0 n .. => (w.tile t).bad.any fun x => row0 ≤ wordRow x && wordRow x < row0 + n
  | .tmov _ a => tileBad a
  | .cimld .. => o.kind.tiles.any tileBad
  | .mma _ _ b _ _ _ p => o.kind.tiles.any tileBad || !(w.bank b).bad.isEmpty ||
    (match p with | some (f, c) => !((s.getWg f).bank c).bad.isEmpty | none => false)
  | _ => false

/-- MATRIX_OP_START (R169): the unit of a core, when it is free, takes and performs its next operation. -/
def execMatrixOpStart (core : Nat) (s : State) : Host.Outcome State Fault Refusal :=
  let c := s.getCore core
  .next <| match if c.running.isNone && c.slaved.isNone then c.nextOp else none with
  | none => s
  | some o =>
    if !s.opFree o then s
    else
      let before := o.kind.written.map fun t => (t, (s.getWg o.workgroup).tile t)
      let take (fl : BitVec 6) (x : Core) : Core :=
        { x with matq := x.matq.filter fun y => y.id != o.id
                 running := some { o with flags := fl, before := before }
                 rotG := if o.harvest then x.rotG else (o.quadrant + 1) % 4
                 rotH := if o.harvest then (o.quadrant + 1) % 4 else x.rotH }
      if s.opPoisoned o then
        (s.updCore core (take 0)).endGang o.gang { code := 0x0B, pc := o.pc }
      else
        let (s1, fl) := s.startOp o
        let s2 := s1.updCore core (take fl)
        match o.kind with
        | .mma _ _ _ _ _ _ (some (f, _)) => s2.updCore (s2.getWg f).core fun x => { x with slaved := some core }
        | _ => s2

/-- MATRIX_OP_RETIRE (R169, R186): the running operation retires, ORing its flags into FFLAGS; sheaves that it completes
write their words. With none running, the oldest store of each gang of the core is performed. -/
def execMatrixOpRetire (core : Nat) (s : State) : Host.Outcome State Fault Refusal :=
  .next <| match (s.getCore core).running with
  | none => (s.allGangs.filter fun g => (s.getWg g.workgroup).core == core).foldl (fun s g =>
      let t := match g.stores with | r :: _ => s.unitStore g.id r | [] => s.finishSheaves g.id g.sheaves.length
      t.settleWg g.workgroup) s
  | some o =>
    let s1 := s.updCore core fun x => { x with running := none }
    let s2 := match o.kind with
      | .mma _ _ _ _ _ _ (some (f, _)) =>
        s1.updCore (s1.getWg f).core fun x => { x with slaved := if x.slaved = some core then none else x.slaved }
      | _ => s1
    let s3 := s2.updGang o.gang fun g => { g with fflags := g.fflags ||| o.flags, opsRetired := g.opsRetired + 1 }
    (s3.finishSheaves o.gang (s3.getGang o.gang).sheaves.length).settleWg o.workgroup

end Sys2Proof.Machine
end

