-- ==== Sys2Proof/Machine/Copies.lean ====
section
/-! DEFINITION. Tensor copies (06_wait_engines.md, R155 to R160; 12_ordering.md, R256, R257): the descriptor and its
checks, ownership, and the landing of elements. -/

namespace Sys2Proof.Machine

/-! ## The descriptor (R156, R157) -/

/-- A signed 64-bit field. -/
def sfield (bs : List Byte) (off : Nat) : Int := (BitVec.ofNat 64 (field bs off 8)).toInt

/-- A copy descriptor's fields. -/
structure CopyDesc where
  src : Nat
  dst : Nat
  ctl : Nat
  exts : List Nat
  sstr : List Int
  dstr : List Int
  idxa : Nat
  donea : Nat
  reserved : Nat
  deriving DecidableEq, Repr, Inhabited

def copyDescOf (b : List Byte) : CopyDesc :=
  { src := field b 0 8, dst := field b 8 8, ctl := field b 16 4, exts := (List.range 9).map fun k => field b (24 + 4 * k) 4,
    sstr := (List.range 8).map fun k => sfield b (64 + 8 * k), dstr := (List.range 8).map fun k => sfield b (128 + 8 * k),
    idxa := field b 192 8, donea := field b 200 8, reserved := field b 20 4 + field b 60 4 + field b 208 48 }

def CopyDesc.ndim (c : CopyDesc) : Nat := bits c.ctl 3 0
def CopyDesc.esz (c : CopyDesc) : Nat := bits c.ctl 6 4
def CopyDesc.ssp (c : CopyDesc) : Nat := bits c.ctl 11 8
def CopyDesc.dsp (c : CopyDesc) : Nat := bits c.ctl 15 12
def CopyDesc.gather (c : CopyDesc) : Bool := bits c.ctl 17 16 = 1
def CopyDesc.doneen (c : CopyDesc) : Bool := bits c.ctl 19 19 = 1

/-- The number of elements. -/
def elements (exts : List Nat) : Nat := exts.foldl (· * ·) 1

/-- Tile bytes that a copy reaches: the lowest and one past the highest (R157). -/
def CopyDesc.tileSpan (c : CopyDesc) : Int × Int :=
  let n := c.ndim
  let base : Int := (bits c.dst 13 0 : Nat)
  let steps := ((c.exts.take n).drop 1).zip c.dstr
  let low := steps.foldl (fun (a : Int) s => a + min 0 (((s.1 : Int) - 1) * s.2)) base
  let high := steps.foldl (fun (a : Int) s => a + max 0 (((s.1 : Int) - 1) * s.2))
    (base + ((c.exts.headD 1 : Nat) : Int) * 2 ^ c.esz)
  (low, high)

/-- The check of R156 to R158; `gang` for a gang's copy, with the tiles that it may name, else a queue's (R353). -/
def CopyDesc.ok (c : CopyDesc) (gang : Option Nat) : Bool :=
  let n := c.ndim
  let m : Int := 2 ^ c.esz
  let spaces := match gang with
    | some tiles => [1, 2, 3, 4].contains c.ssp && [1, 2, 3, 4, 5].contains c.dsp &&
        (c.dsp ≠ 5 || (c.ssp = 4 && bits c.dst 19 16 < tiles && 0 ≤ c.tileSpan.1 && c.tileSpan.2 ≤ 16384))
    | none => [3, 4].contains c.ssp && [3, 4].contains c.dsp && bits c.ctl 18 18 = 0
  c.reserved = 0 && bits c.ctl 31 20 = 0 && bits c.ctl 7 7 = 0 && bits c.ctl 17 16 ≤ 1 && c.esz ≤ 4 && 1 ≤ n && n ≤ 9 &&
  (c.exts.take n).all (1 ≤ ·) && (!c.gather || 2 ≤ n) && spaces &&
  c.src % 2 ^ c.esz = 0 && (if c.dsp = 5 then bits c.dst 13 0 else c.dst) % 2 ^ c.esz = 0 &&
  (c.sstr.take (n - 1)).all (· % m = 0) && (c.dstr.take (n - 1)).all (· % m = 0) &&
  elements (c.exts.take n) * 2 ^ c.esz ≤ 2 ^ 40 && (!c.doneen || c.donea % 8 = 0)

/-! ## Places of a copy's accesses (R118, R158) -/

/-- The space in which a copy translates. -/
def CopyJob.space (j : CopyJob) : Space :=
  { who := .copy j.id, hedge := j.hedge, die := j.die, asid := j.asid, root := j.root, key := j.key, codeKey := j.codeKey,
    harvest := j.harvest }

/-- The workgroup whose scratchpad a gang's copy names. -/
def CopyJob.workgroup (j : CopyJob) : Nat := match j.owner with | .gang _ _ w _ => w | .queue .. => 0

/-- Where an access of a copy lands. -/
inductive CopySpot
  | spot (a key : Nat) (e : Option TlbEntry)
  | wait (s : State)
  | bad (s : State) (code aux : Nat)

/-- A member's scratchpad stands while it runs, and until its save is done: copies run to their end first (R166). -/
def Workgroup.stands (w : Workgroup) : Bool := w.state == .running || w.state == .saved

/-- A member's scratchpad for a paddock-window address. -/
def State.windowPlace (s : State) (w : Workgroup) (va n : Nat) : Option Nat :=
  let c := s.getCtx w.context
  let m := va / 2 ^ 19; let o := va % 2 ^ 19
  match s.allWgs.find? fun x => x.context == w.context && x.pidx == w.pidx && x.py * c.padW + x.px == m with
  | some x => if x.stands && o + n ≤ x.scr then some (spadAddr x.core (x.sbase + o)) else none
  | none => none

/-- Is the member of a paddock-window address gone? -/
def State.windowGone (s : State) (w : Workgroup) (va : Nat) : Bool :=
  let c := s.getCtx w.context
  va / 2 ^ 19 < c.padW * c.padH &&
  match s.allWgs.find? fun x => x.context == w.context && x.pidx == w.pidx && x.py * c.padW + x.px == va / 2 ^ 19 with
  | some x => !x.stands
  | none => true

/-- The indices of element `e`: i0 runs fastest. -/
def indices : List Nat → Nat → List Nat
  | [], _ => []
  | x :: xs, e => e % x :: indices xs (e / x)

/-- Sum of index times stride over the dimensions from 1 on. -/
def strided (is : List Nat) (st : List Int) : Int := (is.drop 1).zip st |>.foldl (fun a x => a + (x.1 : Int) * x.2) 0

/-- An address modulo 2^64. -/
def wrap64 (z : Int) : Nat := (z % 2 ^ 64).toNat

/-- The destination address of element `e`; for a tile, the byte in its data array. -/
def CopyJob.dstOf (j : CopyJob) (e : Nat) : Nat :=
  let is := indices j.exts e
  wrap64 ((if j.dsp = 5 then bits j.dst 13 0 else j.dst : Nat) + ((is.headD 0 * 2 ^ j.esz : Nat) : Int) + strided is j.dstr)

/-- The page of a destination in a line that the copy owns: it finishes a line of a migrating page under the old mapping
(R235). -/
def State.ownedLeaf (s : State) (j : CopyJob) (va : Nat) : Option TlbEntry :=
  if j.dsp ≠ 4 then none
  else (s.leavesOf j.root j.asid va 1).findSome? fun (e, mig) =>
    if mig && e.w && e.mt = 0 && s.owned.contains (j.id, e.phys va / 128) then some e else none

/-- Resolve an access of a copy. -/
def State.copySpot (s : State) (j : CopyJob) (space va n : Nat) (r w : Bool) : CopySpot :=
  let wg := s.getWg j.workgroup
  match space with
  | 1 => if wg.scr < va + n then .bad s 8 3 else .spot (spadAddr wg.core (wg.sbase + va)) 0 none
  | 2 => match s.windowPlace wg va n with
    | some a => .spot a 0 none
    | none => if s.windowGone wg va then .bad s 10 1 else .bad s 8 3
  | 3 => match (s.hedge? j.hedge).bind fun h => cspPlace h j.die va with
    | some a => .spot a 0 none
    | none => .bad s 8 3
  | _ =>
    if va % n ≠ 0 then .bad s 8 1
    else if 2 ^ 57 ≤ va then .bad s 8 3
    else match if w then s.ownedLeaf j va else none with
    | some e => .spot (e.phys va) (s.entryKey j.space e) (some e)
    | none => match s.engineSpot j.space va n r w with
      | .got e => .spot (e.phys va) (s.entryKey j.space e) (some e)
      | .wait t => .wait t
      | .bad t c a => .bad t c a

/-- The source address of element `e`, given its gathered index. -/
def CopyJob.srcOf (j : CopyJob) (e : Nat) (idx : Option Nat) : Nat :=
  let is := indices j.exts e
  let is' := match idx with | some x => is.headD 0 :: x :: is.drop 2 | none => is
  wrap64 ((j.src : Int) + ((is.headD 0 * 2 ^ j.esz : Nat) : Int) + strided is' j.sstr)

/-! ## Ownership (R256, R257) -/

/-- The destination unit of an element, where it can be found now. -/
def State.copyUnit (s : State) (j : CopyJob) (e : Nat) : Option Nat :=
  if j.dsp = 5 then none
  else match s.copySpot j j.dsp (j.dstOf e) (2 ^ j.esz) false true with
    | .spot a _ _ => some (a / 128)
    | _ => none

/-- The units of the elements from `e` on. -/
def State.copyUnits (s : State) (j : CopyJob) (e : Nat) : List Nat :=
  distinct (((List.range (elements j.exts)).drop e).filterMap (s.copyUnit j))

/-- A copy takes ownership of the destination units of its elements from the next on that it does not own: at acceptance,
and of those on a page that faulted or moved when the page has been served or an element meets it. -/
def State.ownRest (s : State) (j : CopyJob) : State :=
  if j.landed || j.failed.isSome then s
  else { s with owned := s.owned ++
      (((s.copyUnits j j.next).map fun l => (j.id, l)).filter fun o => !s.owned.contains o) }

/-- A page has been served: the copies take what they own on it (R256). -/
def State.ownServed (s : State) : State := s.copies.foldl State.ownRest s

/-- A copy takes ownership of its destination units. -/
def State.own (s : State) (j : CopyJob) : State :=
  { s.ownRest j with
    ownedTiles := if j.dsp = 5 then s.ownedTiles ++ [(j.id, 16 * j.workgroup + bits j.dst 19 16)] else s.ownedTiles }

/-- A copy gives up what it owns. -/
def State.disown (s : State) (id : Nat) : State :=
  { s with owned := s.owned.filter (·.1 != id), ownedTiles := s.ownedTiles.filter (·.1 != id) }

/-! ## Landing (R158 to R160) -/

def State.setCopy (s : State) (j : CopyJob) : State := { s with copies := updWhere (fun x => x.id == j.id) (fun _ => j) s.copies }

/-- A queue's packet comes to its end (R357). -/
def State.endPacket (s : State) (q seq status aux : Nat) : State :=
  let x := s.getQueue q
  let close (p : Packet) : Packet := { p with ended := some (status, aux) }
  s.setQueue { x with packets := updWhere (fun p => p.seq == seq && p.ended.isNone) close x.packets }

/-- A copy is over: its units are free, and its owner is told. -/
def State.dropCopy (s : State) (j : CopyJob) (status aux : Nat) : State :=
  let s1 := { s with copies := s.copies.filter (·.id != j.id) }.disown j.id
  match j.owner with
  | .gang _ _ w _ => s1.settleWg w
  | .queue q seq => s1.endPacket q seq status aux

/-- Add to the completion word, and finish. A completion word that cannot be reached is not updated. -/
def State.finishCopy (s : State) (j : CopyJob) (x : Word64) (status aux : Nat) : State :=
  match j.done with
  | none => s.dropCopy j status aux
  | some (spad, a) =>
    match s.copySpot j (if spad then 1 else 4) a 8 true true with
    | .wait t => t
    | .bad t _ _ => t.dropCopy j status aux
    | .spot u key e =>
      let s1 := s.yieldAt j.harvest u 8
      if s1.homeHeld j.id u 8 true then s1
      else
        let s2 := s1.promoteAt u 8
        let bs := s2.homeRead key u 8
        (s2.engineWrite key u (leBytes 8 (BitVec.ofNat 64 (leNat bs) + x).toNat) (entryCritical e) j.harvest).dropCopy j status aux

/-- A copy whose element has failed ends when its completion word has been told (R160). -/
def State.endFailed (s : State) (j : CopyJob) (code : Nat) : State := s.finishCopy j 0x8000000000000001 0x46 code

/-- An element met PROT, PEER_GONE or POISON (R160): the copy writes no further element and owns nothing more (R257), and
its stile is poisoned. DESIGN CHOICE (log 49): a stile that is poisoned already keeps its CAUSE, 0x00 too. -/
def State.failCopy (s : State) (j : CopyJob) (code : Nat) : State :=
  let s1 := match j.stile with
    | some a => s.stileOp a fun t => if t.poison then t else t.spoil 3
    | none => s
  let j1 := { j with stile := none, failed := some code }
  ((s1.disown j.id).setCopy j1).endFailed j1 code

/-- Bytes that have landed are counted: PENDING falls, and `complete` follows (R159). -/
def State.countCopy (s : State) (j : CopyJob) : State :=
  match j.stile with
  | some a => s.stileOp a fun t => t.expectBytes (-(2 ^ j.esz : Int))
  | none => s

/-- The format's part of a tile copy: the first element's page gives FMT and BLK, and a segment's first element gives its
code; an element that would need another ends the copy (R173). -/
def CopyJob.segmentOk (j : CopyJob) (e : TlbEntry) (va seg : Nat) : Option CopyJob :=
  let f := j.fmt.getD (e.fmt, e.blk)
  if (e.fmt, e.blk) ≠ f || (e.blk ≠ 0 && blkElems e.blk * fmtBits e.fmt < 256) then none
  else if e.blk = 0 then some { j with fmt := some f, segs := if (lookupKey j.segs seg).isSome then j.segs else j.segs ++ [(seg, 0)] }
  else match lookupKey j.segs seg with
    | none => some { j with fmt := some f, segs := j.segs ++ [(seg, e.scaleAddr va)] }
    | some p => if p = e.scaleAddr va then some { j with fmt := some f } else none

/-- An element's bytes into a tile, with its segment's code. -/
def Tile.copyIn (t : Tile) (f : Nat × Nat) (d : Nat) (bs : List Byte) (code : Byte) : Tile :=
  { data := SMap.putAll 0 t.data d bs, side := SMap.put 0 t.side (d / 32) code, fmt := BitVec.ofNat 4 f.1,
    blk := BitVec.ofNat 2 f.2, acc := false, valid := true,
    bad := t.bad.filter fun x => !(d ≤ 4 * x && 4 * x + 4 ≤ d + bs.length) }

/-- The element has been written. -/
def State.landed (s : State) (j : CopyJob) : State :=
  let j1 := { j with next := j.next + 1 }
  let s1 := s.countCopy j
  let j2 := if elements j1.exts ≤ j1.next then { j1 with landed := true } else j1
  let keep := s1.copyUnits j2 j2.next
  let s2 := { s1 with owned := s1.owned.filter fun o => o.1 != j.id || keep.contains o.2 }
  (if j2.landed then s2.disown j.id else s2).setCopy j2

/-- May the element's accesses be made now? Not while another party holds or an earlier engine owns the units, while
zeroing runs, while a bank wakes, or while earlier requests wait for the line (R256, R257, R276, R314, R318, R394). -/
def State.copyFree (s : State) (j : CopyJob) (a n : Nat) (w : Bool) : Bool :=
  (s.heldByOther 0 a n w).isNone && !s.zeroingAt a n && !s.gatedAt a && !s.queued a n &&
  !(s.owned.any fun o => (if w then o.1 < j.id else o.1 != j.id) && (linesOf a n).contains o.2)

/-- Move one element whose source address is known; `told` says what else leaves for a peer when it lands: its packets leave
once (R373). -/
def State.moveElement (s : State) (j : CopyJob) (va : Nat) (told : State → State) : State :=
  let n := 2 ^ j.esz
  match s.copySpot j j.ssp va n true false with
  | .wait t => t
  | .bad t c _ => t.failCopy j c
  | .spot a key e =>
    if !s.copyFree j a n false then s
    else if s.isPoisoned a n then s.failCopy j 11
    else
      let sent (s : State) : State := (told s).sendPeer a j.harvest (entryCritical e)
      let bs := s.homeRead key a n
      let d := j.dstOf j.next
      if j.dsp = 5 then
        if s.ownedTiles.any fun o => o.1 < j.id && o.2 == 16 * j.workgroup + bits j.dst 19 16 then s
        else match e.bind fun e => (j.segmentOk e va (d / 32)).map fun j' => (e, j') with
        | none => s.failCopy j 8
        | some (e, j') =>
          let sc := e.scaleAddr va
          if e.blk ≠ 0 && s.isPoisoned sc 1 then s.failCopy j 11
          else
            let code : Byte := if e.blk = 0 then 0x7F else s.readByte key sc
            let tile := bits j.dst 19 16
            ((sent s).updWg j.workgroup fun w =>
              { w with tiles := SMap.put {} w.tiles tile ((w.tile tile).copyIn (e.fmt, e.blk) d bs code) }).landed j'
      else match s.copySpot j j.dsp d n false true with
        | .wait t => t
        | .bad t c _ => t.failCopy j c
        | .spot b key' e' =>
          let s1 := (if s.owned.contains (j.id, b / 128) then s else s.ownRest j).yieldAt j.harvest b n
          if s1.copyFree j b n true then (((sent s1).engineWrite key' b bs (entryCritical e') j.harvest).replaceSectors j.id b n).landed j else s1

/-- COPY_ELEMENT_LAND (R158, R159): the next element of a copy lands, or the copy finishes. -/
def execCopyElementLand (o : Nat) (s : State) : Host.Outcome State Fault Refusal :=
  .next <| match s.copies.find? fun j => j.id == o with
  | none => s
  | some j =>
    let stileFree := match j.stile with
      | some a => (s.heldByOther 0 a 16 true).isNone && !s.ownedUnit j.id a 16
      | none => true
    if j.landed then s.finishCopy j 1 0 0
    else if j.failed.isSome then s.endFailed j (j.failed.getD 0)
    else if !stileFree then s
    else if j.gather then
      let i1 := (indices j.exts j.next).getD 1 0
      match s.copySpot j 4 (wrap64 ((j.idxa : Int) + 4 * i1)) 4 true false with
      | .wait t => t
      | .bad t c _ => t.failCopy j c
      | .spot a key e =>
        if !s.copyFree j a 4 false then s
        else s.moveElement j (j.srcOf j.next (some (leNat (s.homeRead key a 4)))) fun s => s.sendPeer a j.harvest (entryCritical e)
    else s.moveElement j (j.srcOf j.next none) id

/-- A copy as its engine takes it over. -/
def CopyDesc.job (c : CopyDesc) (id : Nat) (owner : CopyOwner) (x : Space) (context : Nat) (harvest : Bool)
    (stile : Option Nat) : CopyJob :=
  { id := id, owner := owner, context := context, asid := x.asid, root := x.root, key := x.key, codeKey := x.codeKey, hedge := x.hedge,
    die := x.die, harvest := harvest, src := c.src, dst := c.dst, ssp := c.ssp, dsp := c.dsp, esz := c.esz,
    exts := c.exts.take c.ndim, sstr := c.sstr.take (c.ndim - 1), dstr := c.dstr.take (c.ndim - 1), gather := c.gather,
    idxa := c.idxa, done := if c.doneen then some (bits c.ctl 18 18 = 1, c.donea) else none, stile := stile }

end Sys2Proof.Machine
end

