-- ==== Sys2Proof/Machine/CrossLane.lean ====
section
/-! DEFINITION. Cross-lane instructions (04_lane.md, R108 to R113). -/

namespace Sys2Proof.Machine

/-- Lanes of a segment (R108), and the segments that a set of lanes falls into. -/
def segSize (o : FV3) : Nat := 32 / 2 ^ o.c.toNat
def segLanes (n : Nat) (ls : List Nat) (b : Nat) : List Nat := ls.filter fun l => l / n == b / n

/-- The source lane of LPERM: none outside the segment (R109). -/
def permSource (mode n : Nat) (b : Word32) (l : Nat) : Option Nat :=
  let k := l % n
  let j : Int := match mode with
    | 0 => (b.toNat % n : Nat)
    | 1 => ((k + b.toNat) % n : Nat)
    | 2 => (k : Int) + b.toInt
    | 3 => (k ^^^ (b.toNat % n) : Nat)
    | _ => (n - 1 - k : Nat)
  if 0 ≤ j && j < n then some (l - k + j.toNat) else none

/-- A lane that is not present gives the reader's own value (R108). -/
def State.sourceLane (s : State) (l : Nat) (src : Option Nat) : Nat :=
  match src with
  | some x => if s.present.getLsbD x then x else l
  | none => l

/-- LPERM (R109). -/
def execLperm (o : FV3) (s : State) : Host.Outcome State Fault Refusal :=
  let src (s : State) (l : Nat) : Nat :=
    s.sourceLane l (permSource o.sub.toNat (segSize o) (if o.sub = 4 then 0 else s.opB o l) l)
  if wide o.ty then laneVP (.lperm o) o.guard o.d (fun s l => (s.rvp o.a.toNat (src s l), 0)) s
  else laneV (.lperm o) o.guard o.d (fun s l => (s.rv o.a.toNat (src s l), 0)) s

/-- BCAST (R110). -/
def execBcast (o : FV3) (s : State) : Host.Outcome State Fault Refusal :=
  let src (s : State) (l : Nat) : Nat := s.sourceLane l (some ((s.rg o.b.toNat).toNat % 32))
  if wide o.ty then laneVP (.bcast o) o.guard o.d (fun s l => (s.rvp o.a.toNat (src s l), 0)) s
  else laneV (.bcast o) o.guard o.d (fun s l => (s.rv o.a.toNat (src s l), 0)) s

/-- A fold of a predicate over the active lanes `ls` of a segment, to a predicate (R111). -/
def foldQ (mode : Nat) (ls : List Nat) (q : Nat → Bool) : Bool :=
  match mode with
  | 0 => ls.all q
  | 1 => ls.any q
  | _ => ls.all q || ls.all fun l => !q l

/-- A fold to a value: .mask, .count or .first. -/
def foldV (mode n : Nat) (ls : List Nat) (q : Nat → Bool) : Word32 :=
  match mode with
  | 3 => maskOfList (ls.filter q)
  | 4 => BitVec.ofNat 32 (ls.filter q).length
  | _ => BitVec.ofNat 32 (((ls.find? q).map (· % n)).getD n)

/-- QFOLD (R111). -/
def execQfold (o : FV3) (s : State) : Host.Outcome State Fault Refusal :=
  let seg (s : State) (l : Nat) : List Nat := segLanes (segSize o) (lanesOf (s.active o.guard)) l
  if o.sub.toNat ≤ 2 then
    laneQ (.qfold o) o.guard o.d (fun s l => (foldQ o.sub.toNat (seg s l) (s.rq o.a.toNat), 0)) s
  else laneV (.qfold o) o.guard o.d (fun s l => (foldV o.sub.toNat (segSize o) (seg s l) (s.rq o.a.toNat), 0)) s

/-- One step of an FP32 reduction: 0 add, 1 min, 2 max (R112). -/
def stepF (op rm : Nat) (ftz : Bool) (a b : Word32) : Word32 × BitVec 6 :=
  let x := f32 ftz a; let y := f32 ftz b
  match op with
  | 0 => addF32 rm false ftz x y
  | 1 => ((toF32 (minF x y) 0 false false).1, nvOf [x, y])
  | _ => ((toF32 (maxF x y) 0 false false).1, nvOf [x, y])

/-- The identity of an FP32 operation. -/
def identF (op : Nat) : Word32 := match op with | 0 => 0x80000000 | 1 => 0x7F800000 | _ => 0xFF800000

/-- One level of the pairwise tree. -/
def treeLevel (f : Word32 → Word32 → Word32 × BitVec 6) : List Word32 → List Word32 × BitVec 6
  | a :: b :: xs =>
    let (c, g) := f a b
    let (ys, h) := treeLevel f xs
    (c :: ys, g ||| h)
  | xs => (xs, 0)

/-- `k` levels of the tree over 2^k values. -/
def treeFold (f : Word32 → Word32 → Word32 × BitVec 6) : Nat → List Word32 → Word32 × BitVec 6
  | 0, xs => (xs.headD 0, 0)
  | k + 1, xs =>
    let (ys, g) := treeLevel f xs
    let (z, h) := treeFold f k ys
    (z, g ||| h)

/-- An integer reduction over the values of the active lanes: exact, then modulo 2^32 or clamped (R112). -/
def reduceInt (op : Nat) (sg sat : Bool) (xs : List Word32) : Word32 × BitVec 6 :=
  match op with
  | 0 => narrow sg sat (xs.foldl (fun z x => z + asInt sg x) 0)
  | 1 => (xs.foldl (fun m x => (minTy sg m x).1) (xs.headD 0), 0)
  | 2 => (xs.foldl (fun m x => (maxTy sg m x).1) (xs.headD 0), 0)
  | 3 => (xs.foldl (· &&& ·) (BitVec.allOnes 32), 0)
  | 4 => (xs.foldl (· ||| ·) 0, 0)
  | _ => (xs.foldl (· ^^^ ·) 0, 0)

/-- The reduction of the segment of a lane; over one lane no step acts, and the value passes as an FP32 result (R99). -/
def State.reduce (s : State) (o : FV3) (ls : List Nat) (l : Nat) : Word32 × BitVec 6 :=
  let n := segSize o
  if o.ty = 4 && n = 1 then passF s.ftz (s.rv o.a.toNat l)
  else if o.ty = 4 then
    treeFold (stepF o.sub.toNat (s.rm o) s.ftz) (5 - o.c.toNat)
      ((List.range n).map fun i => let x := l / n * n + i; if ls.contains x then s.rv o.a.toNat x else identF o.sub.toNat)
  else reduceInt o.sub.toNat (signedTy o.ty) o.sat ((segLanes n ls l).map (s.rv o.a.toNat))

/-- REDX (R112). -/
def execRedx (o : FV3) (s : State) : Host.Outcome State Fault Refusal :=
  laneV (.redx o) o.guard o.d (fun s l => s.reduce o (lanesOf (s.active o.guard)) l) s

/-- The identity of a scan (R113). -/
def scanIdent (op ty : Nat) : Word32 :=
  if ty = 4 then identF op
  else match op with
    | 1 => if ty = 0 then 0x7FFFFFFF else 0xFFFFFFFF
    | 2 => if ty = 0 then 0x80000000 else 0
    | _ => 0

/-- One step of a scan. -/
def scanStep (op ty rm : Nat) (sat ftz : Bool) (a b : Word32) : Word32 × BitVec 6 :=
  if ty = 4 then stepF op rm ftz a b
  else
    let sg := ty == 0
    match op with
    | 0 => narrow sg sat (asInt sg a + asInt sg b)
    | 1 => minTy sg a b
    | 2 => maxTy sg a b
    | _ => (a ||| b, 0)

/-- The running value of a segment up to and with each of its active lanes: the value before it, the value after it, and
the step's flags. -/
def scanRun (f : Word32 → Word32 → Word32 × BitVec 6) (x : Nat → Word32) : Word32 → List Nat →
    List (Nat × Word32 × Word32 × BitVec 6)
  | _, [] => []
  | acc, l :: ls =>
    let (y, g) := f acc (x l)
    (l, acc, y, g) :: scanRun f x y ls

/-- SCANX of one lane. -/
def State.scan (s : State) (o : FV3) (ls : List Nat) (l : Nat) : Word32 × BitVec 6 :=
  let op := o.sub.toNat % 4
  let r := scanRun (scanStep op o.ty.toNat (s.rm o) o.sat s.ftz) (s.rv o.a.toNat) (scanIdent op o.ty.toNat)
    (segLanes (segSize o) ls l)
  match lookupKey r l with
  | some (before, after, g) => (if o.sub.getLsbD 2 then before else after, g)
  | none => (0, 0)

/-- SCANX (R113). -/
def execScanx (o : FV3) (s : State) : Host.Outcome State Fault Refusal :=
  laneV (.scanx o) o.guard o.d (fun s l => s.scan o (lanesOf (s.active o.guard)) l) s

end Sys2Proof.Machine
end

