-- ==== Sys2Proof/Machine/Engine.lean ====
section
/-! DEFINITION. Engine instructions (06_wait_engines.md, R155, R161 to R165; 17_dies_network.md, R305, R308;
21_launch.md, R364, R365). -/

namespace Sys2Proof.Machine

/-- A status that lands as a lane result in every present lane. -/
def State.status (s : State) (q : Field) (b : Bool) : State :=
  (s.emit [] (writesQ q.toNat (lanesOf s.present) fun _ => b) 0).advance

/-! ## Reading blocks -/

/-- Consecutive 64-byte blocks in global memory, at device scope. -/
def State.sdBlocks (s : State) (va : Word64) (k : State → List Byte → State) : Nat → List Byte → State
  | 0, acc => k s acc
  | n + 1, acc => s.sdRead (va + BitVec.ofNat 64 acc.length) 64 6 fun s x => s.sdBlocks va k n (acc ++ leBytes 64 x)

/-- A 64-byte aligned block of the gang's memory: in .g, or in the own scratchpad. -/
def State.readBlock (s : State) (va : Word64) (blocks : Nat) (spad : Bool) (k : State → List Byte → State) : State :=
  if spad then
    let n := 64 * blocks
    let t : TrapRec := { code := 8, lanes := s.present, acc := 64 + 8 + 1, size := 6, addr := va }
    let a := spadAddr s.here (s.wg.sbase + va.toNat)
    if va.toNat % 64 ≠ 0 then s.raise { t with aux := 1 }
    else if s.wg.scr < va.toNat + n then s.raise { t with aux := 3 }
    else if s.isPoisoned a n then s.raise { t with code := 0x0B }
    else match s.blocked [{ ua := a }] n false with
      | some w => s.stall w
      | none => k s (overlay s.me.pending a (s.homeRead 0 a n))
  else s.sdBlocks va k blocks []

/-! ## COPY (R155) -/

/-- The stile that a copy counts on: none for B = 0. -/
def State.copyStile (s : State) (o : FX) (k : State → Option Nat → State) : State :=
  if o.b = 0 then k s none
  else s.withStile { o with a := o.b } true true fun s x => k s (some x.ua)

/-- COPY (R155): the earlier accesses of the part come first, and the engine takes ownership at once (R255, R256). DESIGN
CHOICE (log 49): the stile is checked before the engine's queue, which R155 does not order. -/
def execCopy (o : FX) (s : State) : Host.Outcome State Fault Refusal :=
  checked (.copy o) s fun s =>
    if !s.me.levels.isEmpty then s.hwAbort 5
    else if s.me.fenced then s.stall .fence
    else if !s.me.settled then s.stall .hold
    else
      let va := s.rg o.a.toNat
      s.readBlock va 4 (o.qual.getLsbD 1) fun s bs =>
        let c := copyDescOf bs
        if !c.ok (some s.wg.ntiles) then s.raise { code := 8, aux := 7, lanes := s.present, acc := 64, size := 6, addr := va }
        else s.copyStile o fun s stile =>
          let mine := s.copies.filter fun j => match j.owner with | .gang _ _ _ k => k == s.here | .queue .. => false
          if 32 ≤ mine.length then s.status o.d false
          else
            let x : Space := { who := .copy s.nextId, hedge := s.ctx.hedge, die := coreDie s.here, asid := s.ctx.asid, root := s.ctx.root,
                               key := s.ctx.key, codeKey := s.ctx.codeKey, harvest := s.ctx.harvest }
            let j := c.job s.nextId (.gang s.me.id s.gang.id s.wg.id s.here) x s.ctx.id s.ctx.harvest stile
            let s1 := s.release s.here 2
            ({ s1 with copies := s1.copies ++ [j], nextId := s1.nextId + 1 }.own j).status o.d true

/-! ## MSGSEND (R161) -/

/-- MSGSEND: inside a transaction it aborts, in a furrow too: DESIGN CHOICE (log 49), R143 and R154 give no order. The message
leaves with the part's earlier accesses performed (R255); its status lands when the target core
has accepted or refused it. -/
def execMsgsend (o : FX) (s : State) : Host.Outcome State Fault Refusal :=
  checked (.msgsend o) s fun s =>
    if !s.me.levels.isEmpty then s.hwAbort 5
    else if s.me.inFurrow then s.illegal
    else if s.me.fenced then s.stall .fence
    else if !s.me.settled then s.stall .hold
    else
      let h := s.rg o.c.toNat
      if h.toNat % 8 ≠ 0 then s.trapAux 5 1
      else s.landing h o.qual fun s =>
        match coreOfId (bits (s.rg o.a.toNat).toNat 15 8) with
        | none => s.status o.d false
        | some dst =>
          let m : Msg :=
            { context := s.ctx.id, src := s.here, srcId := coreIdOf s.gang s.here, dst := dst, part := s.me.id, res := s.nextId, handler := h,
              payload := (List.range 8).map fun i => s.rg (o.b.toNat + i), harvest := s.ctx.harvest }
          let s1 := s.release s.here 2
          ({ s1 with messages := s1.messages ++ [m] }.emit [] (writesQ o.d.toNat (lanesOf s.present) fun _ => false) 0 1).advance

/-! ## LAUNCH (R163, R364, R365) -/

/-- Packets of a queue that hold its ordinary slots. -/
def State.ordinaryUsed (s : State) (q : Nat) : Nat :=
  let held := (s.getQueue q).floors.filter fun f => s.qRidx q ≤ f.1
  s.qWidx q - s.qRidx q - held.length

/-- Is a level's floor slot of a queue free? -/
def State.floorFree (s : State) (q level : Nat) : Bool :=
  !((s.getQueue q).floors.any fun f => s.qRidx q ≤ f.1 && f.2 == level)

/-- A floor-eligible packet: one paddock of 1 × 1 whose full allotment fits the hedge's floor allotment (R365). -/
def floorFits (h : Hedge) (x : Header) : Bool :=
  x.grid.npad = 1 && x.kernel.padW = 1 && x.kernel.padH = 1 && x.grid.gangs * x.kernel.vfull ≤ h.flblk &&
  x.kernel.tiles ≤ h.fltile && x.kernel.cim ≤ h.flcim && x.kernel.scr ≤ h.flscr

/-- Write a packet into a queue's slot WIDX; the level is the packet's nesting level, `parent` the launch that wrote it,
and `floor` says that it takes a floor slot. -/
def State.enqueue (s : State) (q level parent : Nat) (floor : Bool) (bs : List Byte) (full ok : State → State) : State :=
  let x := s.queueSpace q
  let w := s.qWidx q
  match s.engineSpot x (s.qRing q + 64 * (w % s.qSize q)) 64 false true with
  | .wait t => t
  | .bad t _ _ => full t
  | .got e =>
    let s1 := s.spaceWrite x e (s.qRing q + 64 * (w % s.qSize q)) bs
    let y := s1.getQueue q
    let s2 := s1.setQueue { y with levels := y.levels ++ [(w, level)], parents := y.parents ++ [(w, parent)],
                                   floors := if floor then y.floors ++ [(w, level)] else y.floors }
    ok (s2.takeWidx q (w + 1))

/-- Is the handle of a DEV queue of a hedge and ASID on this device (R346, R364)? -/
def State.devQueue (s : State) (handle hedge asid : Nat) : Bool :=
  handle < 2 ^ 14 && !s.qStopped handle && s.qDev handle && s.qHedge handle == hedge && s.qAsid handle == asid

/-- Offer a packet to a queue at a level (R364, R365); `full` and `ok` go on. A ring that has no slot takes none. -/
def State.offer (s : State) (q level parent : Nat) (bs : List Byte) (full ok : State → State) : State :=
  if s.qRidx q + s.qSize q ≤ s.qWidx q then full s
  else if s.ordinaryUsed q + 4 < s.qSize q then s.enqueue q level parent false bs full ok
  else if level = 0 || 4 < level || !s.floorFree q level then full s
  else
    let words := (List.range 8).map fun i => BitVec.ofNat 64 (field bs (8 * i) 8)
    s.readHeader q words (fun t _ => full t) fun s x =>
      match s.hedge? (s.qHedge q) with
      | some h => if floorFits h x then s.enqueue q level parent true bs full ok else full s
      | none => full s

/-- LAUNCH (R163): inside a transaction it aborts, in a furrow too: DESIGN CHOICE (log 49), R143 and R154 give no order. -/
def execLaunch (o : FX) (s : State) : Host.Outcome State Fault Refusal :=
  checked (.launch o) s fun s =>
    if !s.me.levels.isEmpty then s.hwAbort 5
    else if s.me.inFurrow then s.illegal
    else if s.me.fenced then s.stall .fence
    else if !s.me.settled then s.stall .hold
    else s.readBlock (s.rg o.a.toNat) 1 (o.qual.getLsbD 0) fun s bs =>
      let q := (s.rg o.b.toNat).toNat
      if !s.devQueue q s.ctx.hedge s.ctx.asid || 4 ≤ s.ctx.level then s.status o.d false
      else (s.release s.here 2).offer q (s.ctx.level + 1) s.ctx.id bs (fun t => t.status o.d false) fun t => t.status o.d true

/-! ## The droveway (R164, R165, R308) -/

/-- A die's queued turn requests. -/
def Droveway.of (d : Droveway) (die : Nat) : List TurnReq := d.queue.filter fun t => t.die == die

/-- The status of a DTURN (R164, R166). -/
def State.turnStatus (s : State) (q : Field) (b : Bool) : State :=
  let r : LaneResult := { id := s.nextId, preds := writesQ q.toNat (lanesOf s.present) fun _ => b, turn := true }
  ({ s with me := { s.me with inflight := s.me.inflight ++ [r] }, nextId := s.nextId + 1 } : State).advance

/-- DTURN (R164, R308). -/
def execDturn (o : FX) (s : State) : Host.Outcome State Fault Refusal :=
  checked (.dturn o) s fun s =>
    let n := bits o.qual.toNat 5 0
    let die := coreDie s.here
    let mine := s.drove.of die
    if !s.me.levels.isEmpty then s.hwAbort 5
    else if n < 8 || 56 < n then s.illegal
    else if 16 ≤ mine.length || 4 ≤ (mine.filter fun t => t.hedge == s.ctx.hedge).length ||
        (s.ctx.harvest && 8 ≤ (mine.filter fun t => t.harvest).length) then s.turnStatus o.d false
    else
      let t : TurnReq := { die := die, hedge := s.ctx.hedge, context := s.ctx.id, harvest := s.ctx.harvest,
                           goal := if die = 0 then n else 64 - n, tick := s.tick }
      { s with drove := { s.drove with queue := s.drove.queue ++ [t] } }.turnStatus o.d true

/-- The snapshot of a die (R165, R305). -/
def Droveway.snapshot (d : Droveway) (die : Nat) : Nat :=
  at' 32 (d.of die).length + at' 24 (if die = 0 then d.goal else 64 - d.goal) + at' 16 d.turning +
  at' 8 (if die = 0 then d.in1 else d.in0) + (if die = 0 then d.in0 else d.in1)

/-- DSTAT (R165). -/
def execDstat (o : FX) (s : State) : Host.Outcome State Fault Refusal :=
  checked (.dstat o) s fun s => (s.setG o.d.toNat (BitVec.ofNat 64 (s.drove.snapshot (coreDie s.here)))).advance

end Sys2Proof.Machine
end

