-- ==== Sys2Proof/Machine/Resources.lean ====
section
/-! DEFINITION. The resources of a core: register blocks, gang slots, tiles, banks and scratchpad, the fallow share of
harvest work and the floor reserves (09_execution.md, R194 to R196; 19_classes.md, R326, R327; 21_launch.md, R365). -/

namespace Sys2Proof.Machine

def State.wgIsH (s : State) (w : Workgroup) : Bool := (s.getCtx w.context).harvest

/-- Does a workgroup hold what its core has allotted to it: it runs, or its pre-emption save is not yet written? -/
def State.wgHolds (s : State) (w : Workgroup) : Bool :=
  match w.state with
  | .running | .ended => true
  | .saved => s.saves.any fun x => x.context == w.context && x.pidx == w.pidx && !x.done
  | _ => false

/-- The workgroups whose holdings on a core count: those that `keep` selects. -/
def State.holdersOn (s : State) (core : Nat) (keep : Workgroup → Bool) : List Workgroup :=
  s.allWgs.filter fun w => w.core == core && s.wgHolds w && keep w

/-- Their gangs in a quadrant that have not exited. -/
def State.gangsHeld (s : State) (core quad : Nat) (keep : Workgroup → Bool) : List Gang :=
  (s.holdersOn core keep).flatMap fun w => (s.gangsOfWg w.id).filter fun g => g.quad == quad && !s.gangOver g.id

/-- What a spill has still to write: blocks and slots of a quadrant, and the scratchpad, are held until then (R329). -/
def State.spillLeft (s : State) (core : Nat) : List (Nat × Option Nat) :=
  (s.spills.filter fun x => x.core == core).flatMap (·.left)
def State.spillBlocks (s : State) (core quad : Nat) : Nat :=
  ((s.spillLeft core).filter fun e => e.1 != 0 && e.2.isSome && (s.getGang e.1).quad == quad).length
def State.spillSlots (s : State) (core quad : Nat) : List Nat :=
  ((s.spillLeft core).filter fun e => e.1 != 0 && e.2.isNone && (s.getGang e.1).quad == quad).map fun e => (s.getGang e.1).slot
def State.spillSpads (s : State) (core : Nat) : List (Nat × Nat) :=
  (s.spills.filter fun x => x.core == core && x.left.contains (0, none)).map fun x =>
    ((s.getWg x.workgroup).sbase, (s.getWg x.workgroup).scr)

/-! ## Floor reserves (R365) -/

/-- Blocks that a quadrant keeps so that any floor-eligible workgroup of `n` blocks fits. -/
def floorBlocks (n q : Nat) : Nat := ((List.range n).map fun g => gangsIn (g + 1) q * (n / (g + 1))).foldl max 0
def floorSlots (n q : Nat) : Nat := ((List.range n).map fun g => gangsIn (g + 1) q).foldl max 0

/-- The core that keeps reserve `k` of a hedge: the k-th from the last in COREID order (log 5). -/
def Hedge.reserveCore (h : Hedge) (k : Nat) : Option Nat := h.coreList.reverse[k - 1]?

/-- The reserves that a core keeps against other work than that of `mine`: hedge, level, and the workgroup in it. -/
def State.reserves (s : State) (core mine : Nat) : List (Hedge × Option Workgroup) :=
  s.hedges.flatMap fun h => ([1, 2, 3, 4].filter fun k => h.reserveCore k == some core && k != mine).map fun k =>
    (h, s.allWgs.find? fun w => w.floor == k && w.core == core && s.wgHolds w)

/-- What reserves still keep of a quadrant, of the tiles, banks and scratchpad. -/
def State.keptBlocks (s : State) (core quad mine : Nat) : Nat :=
  sumOf (fun r => floorBlocks r.1.flblk quad - (match r.2 with
    | some w => sumOf (·.vblk) ((s.gangsOfWg w.id).filter fun g => g.quad == quad)
    | none => 0)) (s.reserves core mine)
def State.keptSlots (s : State) (core quad mine : Nat) : Nat :=
  sumOf (fun r => match r.2 with | some _ => 0 | none => floorSlots r.1.flblk quad) (s.reserves core mine)
def State.keptTiles (s : State) (core mine : Nat) : Nat :=
  sumOf (fun r => r.1.fltile - (match r.2 with | some w => w.ntiles | none => 0)) (s.reserves core mine)
def State.keptCim (s : State) (core mine : Nat) : Nat :=
  sumOf (fun r => r.1.flcim - (match r.2 with | some w => countBits w.cim | none => 0)) (s.reserves core mine)
def State.keptScr (s : State) (core mine : Nat) : Nat :=
  sumOf (fun r => r.1.flscr - (match r.2 with | some w => w.scr | none => 0)) (s.reserves core mine)

/-! ## What fits -/

/-- What a request asks of a core: blocks and slots per quadrant, tiles, banks and scratchpad. -/
structure Want where
  blocks : List Nat
  slots : List Nat
  tiles : Nat := 0
  cim : Nat := 0
  /-- The banks that it must have itself. -/
  banks : BitVec 2 := 0
  scr : Nat := 0
  /-- Accepted messages that need entries of the core's mailbox (R317). -/
  msgs : Nat := 0
  /-- What it adds to the harvest images (R327). -/
  image : Nat := 0
  harvest : Bool
  hedge : Nat
  /-- The floor reserve that it may use. -/
  mine : Nat := 0
  deriving DecidableEq, Repr

/-- Scratchpad in use on a core: base and length. -/
def State.spadUsed (s : State) (core : Nat) (keep : Workgroup → Bool) : List (Nat × Nat) :=
  (((s.holdersOn core keep).filter fun w => w.scr != 0).map fun w => (w.sbase, w.scr)) ++ s.spillSpads core

/-- The lowest place for `n` bytes of scratchpad: the start, or the end of an allotment (log 16). -/
def spadFit (used : List (Nat × Nat)) (n : Nat) : Option Nat :=
  (0 :: used.map fun u => u.1 + u.2).foldl (fun best b =>
    if b + n ≤ 524288 && used.all (fun u => b + n ≤ u.1 || u.1 + u.2 ≤ b) then
      (match best with | none => some b | some x => some (min x b)) else best) none

/-- The harvest image of a workgroup (R327). -/
def State.harvestImage (s : State) (w : Workgroup) : Nat :=
  let gs := s.gangsOfWg w.id
  512 * gs.length + 4096 * sumOf (·.vblk) gs + w.scr

/-- What spills on a core have still to write of harvest images. -/
def State.spillImage (s : State) (core : Nat) : Nat :=
  sumOf (fun x => sumOf (fun (e : Nat × Option Nat) => match e with
    | (0, _) => (s.getWg x.workgroup).scr
    | (_, none) => 512
    | _ => 4096) x.left) (s.spills.filter fun x => x.core == core)

/-- The banks that workgroups hold on a core. -/
def State.banksHeld (s : State) (core : Nat) (keep : Workgroup → Bool) : BitVec 2 :=
  (s.holdersOn core keep).foldl (fun m x => m ||| x.cim) 0

/-- Free slots of a quadrant. -/
def State.freeSlots (s : State) (core quad : Nat) (keep : Workgroup → Bool) : List Nat :=
  (List.range 8).filter fun i => !(s.gangsHeld core quad keep).any (fun g => g.slot == i) && !(s.spillSlots core quad).contains i

/-- Would the request fit in what is free once only the holdings that `keep` selects stand? H work leaves the floors
(R326) and keeps within the harvest images (R327); other work leaves the reserves (R365). -/
def State.fits (s : State) (core : Nat) (w : Want) (keep : Workgroup → Bool) : Bool :=
  let h := (s.hedge? w.hedge).getD { n := w.hedge, cores := 0 }
  let hs := fun x => keep x && s.wgIsH x
  let quad (q : Nat) : Bool :=
    let free := 32 - sumOf (·.vblk) (s.gangsHeld core q keep) - s.spillBlocks core q
    let slots := (s.freeSlots core q keep).length
    let b := w.blocks.getD q 0; let n := w.slots.getD q 0
    (b = 0 || b + s.keptBlocks core q w.mine ≤ free) && (n = 0 || n + s.keptSlots core q w.mine ≤ slots) &&
    (!w.harvest || ((b = 0 || b + sumOf (·.vblk) (s.gangsHeld core q hs) + s.spillBlocks core q ≤ 32 - h.gfloor) &&
      (n = 0 || n + (s.gangsHeld core q hs).length + (s.spillSlots core q).length ≤ 8 - h.sfloor)))
  let ws := s.holdersOn core keep
  let used := s.spadUsed core keep
  (List.range 4).all quad &&
  (w.tiles = 0 || w.tiles + s.keptTiles core w.mine + sumOf (·.ntiles) ws ≤ 16) &&
  w.banks &&& s.banksHeld core keep = 0 &&
  (w.cim = 0 || w.cim + s.keptCim core w.mine + sumOf (fun x => countBits x.cim) ws ≤ 2) &&
  (w.scr = 0 || ((spadFit used w.scr).isSome && w.scr + s.keptScr core w.mine + sumOf (·.2) used ≤ 524288)) &&
  (w.msgs = 0 || (s.getCore core).mailbox.length + w.msgs ≤ 64) &&
  (!w.harvest || w.image + sumOf s.harvestImage (s.holdersOn core hs) + s.spillImage core ≤ 524288)

/-- Everything counts. -/
def everyone (_ : Workgroup) : Bool := true

/-- A quadrant's share of a list, for one quadrant alone. -/
def inQuad (q n : Nat) : List Nat := (List.range 4).map fun i => if i = q then n else 0

/-! ## ACQUIRE (R88, R196, R326) -/

/-- What a gang's ACQUIRE asks for. -/
def State.acquireWant (s : State) (g : Gang) : Want :=
  let w := s.getWg g.workgroup
  let c := s.getCtx w.context
  let first := !w.granted
  let blocks := c.vfull - g.vblk
  { blocks := inQuad g.quad blocks, slots := [], tiles := if first then c.tiles else 0, cim := if first then c.cim else 0,
    scr := if first then c.scr else 0, image := 4096 * blocks + (if first then c.scr else 0), harvest := c.harvest,
    hedge := c.hedge, mine := w.floor }

/-- A G need waits on the core: an admission, of a handler too, or an ACQUIRE (R326). -/
def State.gWaits (s : State) (core : Nat) : Bool :=
  (s.getCore core).acquires.any (fun a => !a.harvest) || s.allCtxs.any (fun c => c.live && c.claim.contains core) ||
  ((s.getCore core).mailbox.take 1).any fun m => !m.harvest && (s.getWg m.workgroup).state == .running

/-- Grant a request (R88): blocks, and at the workgroup's first grant its tiles, scratchpad and banks, c0 first. -/
def State.grantAcquire (s : State) (gang : Nat) : State :=
  let g := s.getGang gang
  let w := s.getWg g.workgroup
  let c := s.getCtx w.context
  let want := s.acquireWant g
  let taken := s.banksHeld w.core everyone
  let banks : BitVec 2 := if want.cim = 2 then 3 else if want.cim = 0 then 0 else if taken.getLsbD 0 then 2 else 1
  let base := (spadFit (s.spadUsed w.core everyone) want.scr).getD 0
  let s1 := s.updGang gang fun g => { g with vblk := max g.vblk c.vfull, full := true }
  let s2 := if w.granted then s1 else s1.updWg w.id fun w =>
    { w with granted := true, scr := c.scr, sbase := base, ntiles := c.tiles, cim := banks, tiles := [], banks := [] }
  let s3 := s2.updCore w.core fun k => { k with acquires := k.acquires.filter fun a => a.gang != gang }
  s3.updParts (fun p => p.gang == gang && p.state == .parked .acquire) fun p => { p with state := .ready, pc := p.pc + 8 }

/-- ACQUIRE_GRANT (R196, R326): the head of the G order, or, when no G request waits, of the H order. -/
def execAcquireGrant (core : Nat) (s : State) : Host.Outcome State Fault Refusal :=
  let k := s.getCore core
  let head := match k.acquires.find? fun a => !a.harvest with
    | some a => some a
    | none => if s.gWaits core then none else k.acquires.head?
  .next <| match head with
  | none => s
  | some a => if s.fits core (s.acquireWant (s.getGang a.gang)) everyone then s.grantAcquire a.gang else s

end Sys2Proof.Machine
end

