-- ==== Sys2Proof/Machine/Messages.lean ====
section
/-! DEFINITION. Active messages at their target core (06_wait_engines.md, R161, R162; 17_dies_network.md, R316, R317). -/

namespace Sys2Proof.Machine

/-- The workgroup that a message of a launch reaches on a core (R161). -/
def State.messageTarget (s : State) (m : Msg) : Option Workgroup :=
  s.allWgs.find? fun w => w.context == m.context && w.core == m.dst && w.state == .running

/-- The sender's predicate lands with the answer. -/
def LaneResult.answer (x : LaneResult) (b : Bool) : LaneResult :=
  { x with preds := x.preds.map fun e => (e.1, b), waits := 0 }

/-- MESSAGE_ACCEPT (R161, R316): a target core accepts an arriving message into its mailbox, or refuses it; messages of
one core to another arrive in order. -/
def execMessageAccept (index : Nat) (s : State) : Host.Outcome State Fault Refusal :=
  .next <| match s.messages[index]? with
  | none => s
  | some m =>
    if (s.messages.take index).any fun x => x.src == m.src && x.dst == m.dst then s
    else
      let target := if (s.getCore m.dst).mailbox.length < 64 then s.messageTarget m else none
      let s1 : State := { s with messages := dropAt s.messages index }
      let s2 := match target with
        | some w => s1.updCore m.dst fun k => { k with mailbox := k.mailbox ++ [{ m with workgroup := w.id }] }
        | none => s1
      s2.updPart m.part fun p =>
        { p with inflight := updWhere (fun x => x.id == m.res) (fun x => x.answer target.isSome) p.inflight }

/-- The lowest handler number that no live handler gang of a workgroup holds (R208). -/
def State.handlerNumber (s : State) (w : Nat) : Nat :=
  let held := ((s.gangsOfWg w).filter fun g => g.handler && !s.gangOver g.id).map (·.index)
  ((List.range 33).find? fun n => !held.contains n).getD 32

/-- What a handler gang needs of its core in a quadrant. -/
def handlerWant (c : Context) (w : Workgroup) (q : Nat) : Want :=
  { blocks := inQuad q 1, slots := inQuad q 1, image := 512 + 4096, harvest := c.harvest, hedge := c.hedge, mine := w.floor }

/-- The lowest quadrant that has room for a handler gang. -/
def State.handlerQuad (s : State) (c : Context) (w : Workgroup) : Option Nat :=
  (List.range 4).find? fun q => s.fits w.core (handlerWant c w q) everyone

/-- A handler gang starts (R162, R192). -/
def State.startHandler (s : State) (m : Msg) (quad : Nat) : State :=
  let w := s.getWg m.workgroup
  let c := s.getCtx w.context
  let h := s.handlerNumber w.id
  let member := w.pidx * (c.padW * c.padH) + w.py * c.padW + w.px
  let g : Gang :=
    { id := s.nextId, workgroup := w.id, index := h, handler := true, quad := quad,
      slot := (s.freeSlots w.core quad everyone).headD 0, started := 1, vblk := 1, wid := 2 ^ 63 + (member * 32 + h) * 32 }
  let regs := (m.payload.zipIdx.foldl (fun (v : Vector Word64 64) x => v.setIfInBounds (8 + x.2) x.1)
    (Vector.replicate 64 0))
  let p : Part :=
    { id := s.nextId + 1, gang := g.id, state := .ready, pc := m.handler, slices := 1, restart := m.handler,
      g := ((regs.setIfInBounds 1 c.arg).setIfInBounds 2 c.shapeReg).setIfInBounds 3 (BitVec.ofNat 64 m.srcId) }
  { s with gangs := s.gangs ++ [g], parts := s.parts ++ [p], nextId := s.nextId + 2 }.acquire w.core 2 none

/-- HANDLER_ADMIT (R317): the oldest message of a core's mailbox starts its handler where a slot and a block are free; a
message whose workgroup has ended goes, and one whose workgroup is being saved is saved with it (R162). -/
def execHandlerAdmit (core : Nat) (s : State) : Host.Outcome State Fault Refusal :=
  let k := s.getCore core
  .next <| match k.mailbox with
  | [] => s
  | m :: rest =>
    let w := s.getWg m.workgroup
    let s1 := s.updCore core fun k => { k with mailbox := rest }
    if w.state = .saved then s
    else if w.state ≠ .running then s1
    else match if m.harvest && s.gWaits core then none else s.handlerQuad (s.getCtx w.context) w with
      | some q => s1.startHandler m q
      | none => s

end Sys2Proof.Machine
end

