-- ==== Sys2Proof/Machine/Bale.lean ====
section
/-! DEFINITION. The images of a workgroup in memory: the bale of an evicted workgroup (19_classes.md, R334) and the
register blocks of a save slot (21_launch.md, R363), with the accesses that the spill and save engines make. -/

namespace Sys2Proof.Machine

/-! ## Accesses of the spill and save engines -/

/-- A byte range cut at page boundaries: address and length of each piece. -/
def pagePieces (va n : Nat) : List (Nat × Nat) :=
  (List.range ((va + n + 4095) / 4096 - va / 4096)).map fun i =>
    let lo := max va (4096 * (va / 4096 + i))
    let hi := min (va + n) (4096 * (va / 4096 + i + 1))
    (lo, hi - lo)

/-- Bytes written in a space piece by piece: `bad` when a piece cannot be written. -/
def State.engineStore (s : State) (x : Space) (bad k : State → State) : List (Nat × Nat) → List Byte → State
  | [], _ => k s
  | (va, n) :: rest, bs =>
    match s.engineSpot x va n false true with
    | .wait t => t
    | .bad t _ _ => bad t
    | .got e => (s.spaceWrite x e va (bs.take n)).engineStore x bad k rest (bs.drop n)

/-- Bytes read in a space piece by piece. -/
def State.engineFetch (s : State) (x : Space) (bad : State → State) (k : State → List Byte → State) :
    List (Nat × Nat) → List Byte → State
  | [], acc => k s acc
  | (va, n) :: rest, acc =>
    match s.engineSpot x va n true false with
    | .wait t => t
    | .bad t _ _ => bad t
    | .got e =>
      let (t, got) := s.spaceRead x e va n
      t.engineFetch x bad k rest (acc ++ got)

/-- The space of a context, for the engines of a die. -/
def Context.space (c : Context) (die : Nat) : Space :=
  { who := .context c.id, hedge := c.hedge, die := die, asid := c.asid, root := c.root, key := c.key, codeKey := c.codeKey,
    harvest := c.harvest }

/-- A fault other than PAGE on an image ends the context: the spec names no other outcome (log 21). -/
def State.imageFault (c : Nat) (s : State) : State := s.endContext c 0x08 0 0 0

/-! ## Register blocks and records -/

/-- Block `b` of a gang: register k at byte 128k, lane l at byte 4l (R334). -/
def Gang.blockBytes (g : Gang) (b : Nat) : List Byte :=
  (List.range 1024).flatMap fun i => leBytes 4 (SMap.get 0 g.v (1024 * b + i)).toNat

/-- A gang's registers read back from its blocks. -/
def regsOf (bs : List Byte) (blocks : Nat) : SMap Word32 :=
  (List.range (1024 * blocks)).filterMap fun i =>
    let x := field bs (4 * i) 4
    if x = 0 then none else some (i, BitVec.ofNat 32 x)

/-- The return address of a frame; an evicted stack holds no other frames (R337). -/
def Frame.address : Frame → Nat
  | .ret a => a.toNat
  | .trap a => a.toNat

/-- A list of bytes padded with zeros. -/
def padTo (n : Nat) (bs : List Byte) : List Byte := (bs ++ List.replicate (n - bs.length) 0).take n

/-- The gang record of a bale (R334). `g0` says that the record is gang 0's. -/
def baleRecord (c : Context) (w : Workgroup) (g : Gang) (p : Part) (g0 : Bool) : List Byte :=
  let exited := p.id = 0 || p.state == .exited
  let wf (x : Nat) : Nat := if g0 then x else 0
  leBytes 8 p.restart.toNat ++
  leBytes 1 (1 + at' 1 exited.toNat + at' 2 p.fending.toNat + at' 3 g.full.toNat) ++
  leBytes 1 (if exited then 0 else p.slices.toNat) ++ leBytes 1 g.vblk ++ leBytes 1 p.restack.length ++
  leBytes 4 (min 0xFFFFFFFF g.evicts) ++ leBytes 1 g.fflags.toNat ++ leBytes 1 g.fmode.toNat ++ leBytes 6 0 ++
  leBytes 8 (at' 3 g.tvAddr.toNat + g.tvEn.toNat) ++ leBytes 4 g.hwm ++ leBytes 4 (wf w.scr) ++ leBytes 1 (wf w.ntiles) ++
  leBytes 1 (wf w.cim.toNat) ++ leBytes 1 (wf w.granted.toNat) ++ leBytes 1 (wf c.ngang) ++ leBytes 4 0 ++
  g.q.toList.flatMap (fun m => leBytes 4 m.toNat) ++
  padTo 56 (p.restack.reverse.flatMap fun f => leBytes 8 f.address) ++
  ((List.range 47).flatMap fun i => leBytes 8 (p.g.getD (i + 1) 0).toNat)

/-! ## Places (R334) -/

/-- A gang's part; an exited gang's last part, or none. -/
def State.partOfGang (s : State) (g : Nat) : Part :=
  match s.allParts.find? fun p => p.gang == g && p.state != .exited with
  | some p => p
  | none => (s.allParts.find? fun p => p.gang == g).getD {}

def recordAt (c : Context) (w : Workgroup) (g : Gang) : Nat := baleBase c w + 512 * g.index
def State.blockAt (s : State) (c : Context) (w : Workgroup) (g : Gang) (b : Nat) : Nat :=
  baleBase c w + 512 * c.ngang +
    4096 * (sumOf (·.vblk) ((s.launchGangs w.id).filter fun x => x.index < g.index) + b)

/-- Write one piece of a bale: a record, a block, or the scratchpad (R329, R334). -/
def State.writePiece (s : State) (w : Workgroup) (e : Nat × Option Nat) (k : State → State) : State :=
  let c := s.getCtx w.context
  let x := c.space (coreDie w.core)
  let g := s.getGang e.1
  let (va, bs) := match e with
    | (0, _) => (s.spadAt c w, s.homeRead 0 (spadAddr w.core w.sbase) w.scr)
    | (_, none) => (recordAt c w g, baleRecord c w g (s.partOfGang g.id) (g.index == 0))
    | (_, some b) => (s.blockAt c w g b, g.blockBytes b)
  s.engineStore x (State.imageFault c.id) k (pagePieces va bs.length) bs

/-- Late results go into the bale at their places (R330): what has been written of the gang is brought up to date. -/
def State.baleLate (s : State) (w : Workgroup) (g : Gang) (r : LaneResult) (k : State → State) : State :=
  match s.spills.find? fun x => x.workgroup == w.id with
  | none => k s
  | some x =>
    let blocks := distinct (r.writes.map fun e => e.1 / 1024)
    let todo := ((g.id, none) :: blocks.map fun b => (g.id, some b)).filter fun e => !x.left.contains e
    todo.foldr (fun e k s => s.writePiece w e k) k s

/-! ## The save slot (R363)

DESIGN CHOICE (log 47): what the bytes of a part of the slot encode. -/

/-- A gang's record in a save slot: 1 KiB with the state of the gang and of its first part. -/
def saveRecord (g : Gang) (p : Part) : List Byte :=
  let frame (f : Frame) : Nat := match f with | .ret a => a.toNat | .trap a => a.toNat + 1
  padTo 1024 (leBytes 8 p.pc.toNat ++ leBytes 8 p.xstat.toNat ++ leBytes 8 p.fstat.toNat ++ leBytes 8 p.trapinfo.toNat ++
    leBytes 8 g.sheafn.toNat ++ leBytes 8 (at' 3 g.tvAddr.toNat + g.tvEn.toNat) ++ leBytes 4 g.hwm ++ leBytes 1 g.vblk ++
    leBytes 1 p.slices.toNat ++ leBytes 1 g.fflags.toNat ++ leBytes 1 g.fmode.toNat ++
    g.q.toList.flatMap (fun m => leBytes 4 m.toNat) ++ ((List.range 63).flatMap fun i => leBytes 8 (p.g.getD (i + 1) 0).toNat) ++
    leBytes 8 p.stack.length ++ p.stack.flatMap fun f => leBytes 8 (frame f))

/-- A gang, and its first part, as their record in a save slot gives them; the return stack below the 53 entries that the
record holds stays. -/
def Gang.fromSlot (g : Gang) (r : List Byte) : Gang :=
  { g with shOpen := field r 36 4, shDone := BitVec.ofNat 16 (field r 34 2), shNext := BitVec.ofNat 16 (field r 32 2),
           tvAddr := BitVec.ofNat 54 (field r 40 8 / 8), tvEn := field r 40 8 % 2 = 1, hwm := field r 48 4,
           fflags := BitVec.ofNat 6 (field r 54 1), fmode := BitVec.ofNat 3 (field r 55 1),
           q := Vector.ofFn fun i => BitVec.ofNat 32 (field r (56 + 4 * i.val) 4) }
def Part.fromSlot (p : Part) (r : List Byte) : Part :=
  let frame (x : Nat) : Frame := if x % 2 = 1 then .trap (BitVec.ofNat 64 (x - 1)) else .ret (BitVec.ofNat 64 x)
  let x := field r 8 4
  { p with pc := BitVec.ofNat 64 (field r 0 8), xcode := BitVec.ofNat 8 x, xlevel := BitVec.ofNat 3 (bits x 10 8),
           consec := BitVec.ofNat 3 (bits x 22 20),
           tiCode := BitVec.ofNat 8 (field r 24 1), tiAux := BitVec.ofNat 8 (field r 25 1), tiLanes := BitVec.ofNat 32 (field r 28 4),
           g := Vector.ofFn fun i => if i.val = 0 then 0 else BitVec.ofNat 64 (field r (88 + 8 * (i.val - 1)) 8),
           stack := ((List.range (min 53 (field r 592 8))).map fun i => frame (field r (600 + 8 * i) 8)) ++ p.stack.drop 53 }

/-- A tile in 17 KiB: data, sidecar, descriptor. -/
def Tile.slotBytes (t : Tile) : List Byte :=
  padTo 17408 (SMap.getAll 0 t.data 0 16384 ++ SMap.getAll 0 t.side 0 512 ++ leBytes 1 t.fmt.toNat ++ leBytes 1 t.blk.toNat ++
    leBytes 1 t.acc.toNat ++ leBytes 1 t.valid.toNat)
def tileOfSlot (r : List Byte) : Tile :=
  { data := SMap.putAll 0 [] 0 (r.take 16384), side := SMap.putAll 0 [] 0 ((r.drop 16384).take 512),
    fmt := BitVec.ofNat 4 (field r 16896 1), blk := BitVec.ofNat 2 (field r 16897 1), acc := field r 16898 1 % 2 = 1,
    valid := field r 16899 1 % 2 = 1 }

/-- A CIM bank in 136 KiB: data, exponents, descriptor. -/
def Bank.slotBytes (b : Bank) : List Byte :=
  padTo 139264 (SMap.getAll 0 b.data 0 131072 ++ SMap.getAll 0 b.side 0 4096 ++ leBytes 4 b.w ++ leBytes 1 b.fmt.toNat ++
    leBytes 1 b.loaded.toNat)
def bankOfSlot (r : List Byte) : Bank :=
  { data := SMap.putAll 0 [] 0 (r.take 131072), side := SMap.putAll 0 [] 0 ((r.drop 131072).take 4096), w := field r 135168 4,
    fmt := BitVec.ofNat 4 (field r 135172 1), loaded := BitVec.ofNat 8 (field r 135173 1) }

/-- An accepted message in 80 bytes, and a parked lane's fault record read back. -/
def Msg.slotBytes (m : Msg) : List Byte :=
  padTo 80 (leBytes 8 m.handler.toNat ++ (m.payload.flatMap fun x => leBytes 8 x.toNat) ++ leBytes 2 m.srcId)
def Msg.fromSlot (m : Msg) (r : List Byte) : Msg :=
  { m with handler := BitVec.ofNat 64 (field r 0 8), srcId := field r 72 2,
           payload := (List.range 8).map fun i => BitVec.ofNat 64 (field r (8 + 8 * i) 8) }
def ParkedRec.fromSlot (x : ParkedRec) (r : List Byte) : ParkedRec :=
  let lanes := BitVec.ofNat 32 (field r 4 4)
  let pc := BitVec.ofNat 64 (field r 8 8)
  { x with pc := pc, lanes := lanes
           info := { x.info with aux := field r 1 1, acc := field r 2 1, lanes := lanes, pc := pc,
                                 addr := BitVec.ofNat 64 (field r 16 8) } }

/-- The slot of a workgroup in its save area. -/
def saveSlot (c : Context) (w : Workgroup) : Nat :=
  c.saveArea.toNat + 2 ^ 21 * (w.pidx * (c.padW * c.padH) + w.py * c.padW + w.px)

/-- The gangs of a workgroup that are saved: those that have not exited, in gang order, handler gangs last. A core has slots
for as many as the slot has records (R194). -/
def State.savedGangs (s : State) (w : Nat) : List Gang :=
  (s.launchGangs w ++ (s.gangsOfWg w).filter (·.handler)).filter fun g => !s.gangOver g.id

/-- The banks that a workgroup holds, and the fault records of its parts. -/
def Workgroup.bankList (w : Workgroup) : List Nat := [0, 1].filter w.cim.getLsbD
def State.parkedRecs (s : State) (w : Nat) : List (Part × ParkedRec) :=
  (s.partsOfWg w).flatMap fun p => p.parked.map fun r => (p, r)

/-- The parts of a workgroup's slot, with their lengths: records, blocks, scratchpad, tiles, banks, messages, fault
records. -/
def State.slotParts (s : State) (c : Context) (w : Workgroup) (ms : List Msg) : List (Nat × Nat) :=
  let gs := s.savedGangs w.id
  let slot := saveSlot c w
  [(slot, 1024 * gs.length), (slot + 32 * 1024, 4096 * sumOf (·.vblk) gs), (slot + 544 * 1024, w.scr),
   (slot + 1056 * 1024, 17408 * w.ntiles), (slot + 1328 * 1024, 139264 * w.bankList.length),
   (slot + 1600 * 1024, 80 * ms.length), (slot + 1608 * 1024, 64 * (s.parkedRecs w.id).length)]

/-- What the parts of a workgroup's slot hold, one after another. -/
def State.slotBytes (s : State) (c : Context) (w : Workgroup) (ms : List Msg) : List Byte :=
  let gs := s.savedGangs w.id
  (gs.flatMap fun g => saveRecord g (s.partOfGang g.id)) ++
  (gs.flatMap fun g => (List.range g.vblk).flatMap g.blockBytes) ++ s.homeRead 0 (spadAddr w.core w.sbase) w.scr ++
  ((List.range w.ntiles).flatMap fun t => ((lookupKey w.tiles t).getD {}).slotBytes) ++
  (w.bankList.flatMap fun b => ((lookupKey w.banks b).getD {}).slotBytes) ++ ms.flatMap Msg.slotBytes ++
  (s.parkedRecs w.id).flatMap fun x => x.2.bytes c w (s.getGang x.1.gang) x.1

/-- Write a workgroup's slot. -/
def State.writeSlot (s : State) (c : Context) (w : Workgroup) (k : State → State) : State :=
  let ms := (s.getCore w.core).mailbox.filter fun m => m.workgroup == w.id
  s.engineStore (c.space (coreDie w.core)) (State.imageFault c.id) k
    ((s.slotParts c w ms).flatMap fun x => pagePieces x.1 x.2) (s.slotBytes c w ms)

/-- Bytes cut into pieces of given lengths. -/
def cutBytes : List Nat → List Byte → List (List Byte)
  | [], _ => []
  | n :: ns, bs => bs.take n :: cutBytes ns (bs.drop n)

/-- The parts of a saved workgroup with the fault records that their slot holds. -/
def State.readParked (s : State) (w : Nat) (bs : List Byte) : State :=
  ((s.partsOfWg w).foldl (fun (a : State × List Byte) p =>
    let recs := p.parked.zipIdx.map fun (r, i) => r.fromSlot ((a.2.drop (64 * i)).take 64)
    (a.1.updPart p.id fun p => { p with parked := recs }, a.2.drop (64 * recs.length))) (s, bs)).1

/-- A saved workgroup as the bytes of its slot encode it, but for its scratchpad. -/
def State.readSlot (s : State) (w : Workgroup) (bs : List (List Byte)) : State :=
  let gs := s.savedGangs w.id
  let part (i : Nat) : List Byte := bs.getD i []
  let s1 := gs.zipIdx.foldl (fun s (g, i) =>
    let r := ((part 0).drop (1024 * i)).take 1024
    let first := sumOf (·.vblk) (gs.take i)
    (s.updGang g.id fun g => { g.fromSlot r with v := regsOf ((part 1).drop (4096 * first)) g.vblk }).updPart
      (s.partOfGang g.id).id fun p => if p.state = .exited then p else p.fromSlot r) s
  let s2 := s1.updWg w.id fun w =>
    { w with tiles := (List.range w.ntiles).map fun t => (t, { tileOfSlot ((part 3).drop (17408 * t)) with bad := ((lookupKey w.tiles t).getD {}).bad })
             banks := w.bankList.zipIdx.map fun (b, i) => (b, { bankOfSlot ((part 4).drop (139264 * i)) with
               bad := ((lookupKey w.banks b).getD {}).bad }) }
  s2.readParked w.id (part 6)

end Sys2Proof.Machine
end

