-- ==== Sys2Proof/Machine/Furrow.lean ====
section
/-! DEFINITION. Furrows (06_wait_engines.md, R152, R153) and the release of their deferred effects (05_memory_ops.md,
R130). -/

namespace Sys2Proof.Machine

/-- FBEGIN (R152, R337). -/
def execFbegin (o : FX) (s : State) : Host.Outcome State Fault Refusal :=
  checked (.fbegin o) s fun s => s.afterResults fun s =>
    if s.me.inFurrow || !s.me.levels.isEmpty then s.illegal
    else if s.ctx.harvest && (7 < s.me.stack.length || s.me.inHandler) then s.illegal
    else
      { s with me := { s.me with inFurrow := true, deferred := [], restart := s.me.pc, restack := s.me.stack } }.advance

/-! ## Release (R130) -/

/-- What an entry's accesses need. -/
def Deferred.need (e : Deferred) : Need :=
  let red := e.kind == .red
  { space := e.space, size := sizeBytes e.size, r := red, w := true, scope := e.scope, sizeCode := e.size,
    atomic := if red then some e.mop else none }

/-- The recorded address and data of a lane. -/
def Deferred.va (e : Deferred) (l : Nat) : Word64 := ((e.lanes.find? fun x => x.lane == l).map (·.va)).getD 0
def Deferred.data (e : Deferred) (l : Nat) : Nat := ((e.lanes.find? fun x => x.lane == l).map (·.data)).getD 0

/-- The request of a lane of an entry, as the instruction would have made it (R130). -/
def State.entryReq (s : State) (e : Deferred) (xs : List (Nat × Spot)) (x : Nat × Spot) : Req :=
  let kind : ReqKind := if e.kind == .red then .atomic e.mop e.unsigned none s.nextId else .write
  let r := s.request kind s.nextId (sizeBytes e.size) (if e.kind == .rst then 4 else e.scope) 0 (2 ≤ e.ord) e.need.acc e.size e.va x
    (e.data x.1)
  { r with acq := e.ord % 2 = 1, pass := if e.kind == .red then passOf xs x else 0 }

/-- Lanes of an entry leave for their points, in ascending order, with its ordering qualifier. -/
def State.sendEntry (s : State) (e : Deferred) (xs : List (Nat × Spot)) : State := s.sendReqs (xs.map (s.entryReq e xs))

/-- The part parks at FEND for the pages of some lanes. -/
def State.parkFend (s : State) (e : Deferred) (pages : List (Nat × Nat)) : State :=
  let first := pages.headD (0, 0)
  let t : TrapRec := { code := 7, lanes := s.present, acc := e.need.acc, size := e.size, aux := first.2, addr := e.va first.1 }
  let va (l : Nat) : Nat :=
    if e.space = 0 then s.privVa l (e.va l).toNat
    else if e.space = 1 then s.spadAt s.ctx s.wg + (e.va l).toNat else (e.va l).toNat
  let vps := pages.foldl (fun acc p => let v := va p.1 / 4096
    if acc.any (fun q => q.1 == v) then acc else acc ++ [(v, p.2)]) []
  if s.recordsFull then s.stall .faultBuffer
  else
    let s1 := (vps.foldl (fun s p => s.clearWalkFault (4096 * p.1)) s).park t vps
    { s1 with me := { s1.me with state := .faultParked } }

/-- A fault at release traps at FEND, and the furrow stays open. -/
def State.fendTrap (s : State) (t : TrapRec) : State := { s.toldOwn with me := { s.me with fending := false } }.raise t

/-- Release an entry of ST or RED, and go on. -/
def State.releaseEntry (s : State) (e : Deferred) (k : State → State) : State :=
  let ps := e.lanes.map fun x => (x.lane, s.place e.need none x.lane x.va)
  let walks := ps.filterMap fun (_, p) => match p with | .walk va => some va | _ => none
  let pages := ps.filterMap fun (l, p) => match p with | .fault 7 a => some (l, a) | _ => none
  if !walks.isEmpty then (walks.foldl State.startWalk s).stall .walk
  else if ps.any fun (_, p) => p == .hold then s.stall .hold
  else match placesTrap false e.need e.va (ps.filter fun p => !pages.any fun q => q.1 == p.1) with
    | some t => (ps.foldl (fun s p => s.clearWalkFault (e.va p.1).toNat) s).fendTrap t
    | none =>
      if !pages.isEmpty then s.parkFend e pages
      else
        let xs := passSpots ps
        match s.sendWait (xs.map (·.2)) (sizeBytes e.size) with
        | some w => s.stall w
        | none => k (s.sendEntry e xs)

/-- Release an RST entry pass by pass: what is left of it stays recorded. -/
def State.releasePasses (s : State) (e : Deferred) (k : State → State) : List (List Nat) → State
  | [] => k s
  | ls :: rest =>
    let left : Deferred := { e with lanes := e.lanes.filter fun x => (ls ++ rest.flatten).contains x.lane }
    let keep (s : State) : State := { s with me := { s.me with deferred := left :: s.me.deferred.tail } }
    let ps := ls.map fun l => (l, s.peerPlace e.need (e.va l))
    let held := (ps.filter fun p => p.2 == .hold).map (·.1)
    if !held.isEmpty then
      (held.foldl (fun s l => s.askPass e.need (e.va l)) (keep s)).stall .hold
    else match placesTrap true e.need e.va ps with
      | some t => (keep s).fendTrap t
      | none =>
        match s.sendWait ((passSpots ps).map (·.2)) (sizeBytes e.size) with
        | some w => (keep s).stall w
        | none => (s.sendEntry e (passSpots ps)).releasePasses e k rest

/-- Release every entry in order; each leaves the record as it is sent. -/
def State.releaseAll (k : State → State) : List Deferred → State → State
  | [], s => k s
  | e :: rest, s =>
    let next (s : State) : State := State.releaseAll k rest { s with me := { s.me with deferred := rest } }
    match e.kind with
    | .rst => s.releasePasses e next (peerPasses e.va (e.lanes.map (·.lane)))
    | _ => s.releaseEntry e next

/-- The furrow closes once every released entry has been accepted at its point (R153). -/
def State.closeFurrow (s : State) : State :=
  if s.me.pending.isEmpty then { s with me := { s.me with inFurrow := false, restarted := false, fending := false } }.advance
  else s.stall .hold

/-- FEND (R153): while its release waits the part is Parked (R197). -/
def execFend (o : FX) (s : State) : Host.Outcome State Fault Refusal :=
  checked (.fend o) s fun s => s.afterResults fun s =>
    if !s.me.inFurrow || !s.me.levels.isEmpty then s.illegal
    else if !s.me.fending && !s.me.settled then (s.stall .hold).parkHeld
    else (State.releaseAll State.closeFurrow s.me.deferred { s with me := { s.me with fending := true } }).parkHeld

end Sys2Proof.Machine
end

