-- ==== Sys2Proof/Machine/PartEvents.lean ====
section
/-! DEFINITION. Steps without a word that a gang part waits for: results landing (02_encoding.md, R47), walks and faults
(09_execution.md, R203 to R205; 11_memory.md, R229), waits (14_waiting.md, R274 to R283), and accesses reaching their
points (12_ordering.md, R242, R253; 17_dies_network.md, R314). Each changes nothing when what it names does not stand
(log 9). -/

namespace Sys2Proof.Machine

/-! ## Results (R47, R118, R330) -/

/-- Poisoned data has landed (R118): the trap takes the place of any that a later word raised, and waits as R204 and
R205 say. -/
def State.poisonPart (s : State) (p : Nat) (t : TrapRec) : State :=
  let s1 := s.takeUp p
  let me := s1.me
  match me.state with
  | .exited => s1
  | .evicted => if me.ending then s1 else s1.endHere t t.pc
  | _ =>
    let s2 := { s1 with me := { me with replay := none } }
    if !(me.parked.filter fun r => r.pc.toNat < t.pc.toNat).isEmpty then
      { s2 with me := { s2.me with trap := some t, state := .faultParked } }
    else if !me.inflight.isEmpty then { s2 with me := { s2.me with trap := some t, state := .parked .trap, drain := false } }
    else s2.deliver t

/-- A result lands in its gang's registers, or, for an evicted gang, in its bale as well. -/
def State.landAt (s : State) (p : Part) (index : Nat) (r : LaneResult) : State :=
  let w := s.getWg (s.getGang p.gang).workgroup
  let land (s : State) : State :=
    let s1 := s.updPart p.id fun x =>
      let rest := dropAt x.inflight index
      { x with inflight := rest, drain := x.drain && !rest.isEmpty }
    match r.poison with
    | some t => s1.poisonPart p.id t
    | none => s1.settleWg w.id
  let s1 := s.updGang p.gang fun g =>
    { g.land r with badV := g.badV.filter fun k => !r.writes.any fun e => e.1 == k }
  if w.state = .evicted then s1.baleLate w (s1.getGang p.gang) r land else land s1

/-- LANE_RESULT_LAND (R47). -/
def execLaneResultLand (part index : Nat) (s : State) : Host.Outcome State Fault Refusal :=
  let p := s.getPart part
  .next <| match p.inflight[index]? with
  | some r => if r.waits = 0 then s.landAt p index r else s
  | none => s

/-! ## Walks and faults -/

/-- PAGE_WALK (R223, R225, R229): the oldest walk of a sector ends at every core that waits for it. -/
def execPageWalk (sector : Nat) (s : State) : Host.Outcome State Fault Refusal :=
  .next <| match s.walks.find? fun w => w.sector == sector with
  | none => s
  | some w =>
    let s0 := { s with walks := s.walks.filter fun x => !(x.sector == w.sector && x.asid == w.asid && x.page == w.page) }
    let (s1, out) := s0.sectorWalk sector w.root w.asid (4096 * w.page)
    match out with
    | .leaf e => w.quads.foldl (fun s q => s.updCore (q / 4) fun k => k.fillTlb (q % 4) e) s1
    | .fault code aux =>
      { s1 with walkFaults := s1.walkFaults ++ (distinct (w.quads.map (· / 4))).map fun c =>
          { core := c, asid := w.asid, page := w.page, code := code, aux := aux } }

/-- The trap of a word that parked whole and whose page the driver refused (R203, R233). -/
def ParkedRec.refusal (r : ParkedRec) : TrapRec := { r.info with code := 8, aux := 9, pc := r.pc }

/-- The part in hand replays the lanes that parked before its stop point, or goes on at it (R203, R204). -/
def State.startReplay (s : State) : State :=
  let stop := match s.me.trap with | some t => t.pc | none => s.me.pc
  let held := match s.me.trap with
    | some t => some t
    | none => (s.me.parked.find? fun r => r.pc == stop && !r.refused.isEmpty).map ParkedRec.refusal
  let recs := s.me.parked.filter fun r => r.pc.toNat < stop.toNat
  let me := { s.me with parked := [], trap := none, state := .ready }
  match recs with
  | r :: _ => { s with me := { me with pc := r.pc, replay := some { stop := stop, recs := recs, held := held } } }
  | [] =>
    match held with
    | none => { s with me := me }
    | some t =>
      if me.inflight.isEmpty then { s with me := me }.deliver t
      else { s with me := { me with trap := some t, state := .parked .trap } }

/-- A part of a saved workgroup stands as it was saved until it is restored (R197, R212). -/
def State.savedPart (s : State) (p : Part) : Bool := (s.getWg (s.getGang p.gang).workgroup).state == .saved

/-- FAULT_REPLAY (R203): once every record of the part has been served. -/
def execFaultReplay (part : Nat) (s : State) : Host.Outcome State Fault Refusal :=
  let p := s.getPart part
  .next <| if p.state = .faultParked && !s.savedPart p && p.parked.all (fun r => r.pages.isEmpty)
    then (s.takeUp part).startReplay else s

/-- TRAP_DELIVERY (R205): once the part's lane results have landed. A part whose context has ended still owes its record
(R209). -/
def execTrapDelivery (part : Nat) (s : State) : Host.Outcome State Fault Refusal :=
  let p := s.getPart part
  .next <| match p.state, p.trap with
  | .parked .trap, some t => if p.inflight.isEmpty && !s.savedPart p then (s.takeUp part).deliver t else s
  | .exited, some t => if p.ending then (s.takeUp part).deliver t else s
  | _, _ => s

/-! ## Waits -/

/-- SERIAL_TOKEN_GRANT (R276): G before H, each class in order of arrival. -/
def execSerialTokenGrant (hedge : Nat) (s : State) : Host.Outcome State Fault Refusal :=
  .next <| match s.hedge? hedge with
  | none => s
  | some h =>
    match (h.waiters.find? fun w => !w.1).or h.waiters.head? with
    | some w =>
      if h.token.isSome then s
      else
        (s.updHedge hedge fun h => { h with token := some w.2, waiters := h.waiters.filter fun x => x.2 != w.2 }).updPart w.2
          fun p => { p with state := .ready, serial := true }
    | none => s

/-- Does a notice for a line wake a sleeper on the core that receives it (R279)? -/
def Sleep.wakesAt (x : Sleep) (line : Nat) : Bool :=
  x.lines.any (fun r => r.line == line) ||
  match x.form with
  | .regions => (regionsOf x.lines).contains (line / 32)
  | _ => false

/-- What a notice does to a part (R274, R279): it dooms an open attempt that read the line, unless the attempt runs
under the serial token, and it wakes a sleeper. -/
def State.notePart (s : State) (core line : Nat) (p : Part) : Part :=
  let w := s.getWg (s.getGang p.gang).workgroup
  if w.state ≠ .running then p
  else match p.state, p.sleep with
    | .asleep, some x =>
      let c := s.getCtx w.context
      let pulse := x.form == .hedgeWide && coreDie w.core == coreDie core &&
        ((s.hedge? c.hedge).map fun h => h.coreList.contains core) == some true
      if (w.core = core && x.wakesAt line) || pulse then p.wake else p
    | _, _ =>
      if w.core = core && !p.levels.isEmpty && !p.serial && p.readLines.any (fun r => r.line == line)
      then { p with doomed := true } else p

/-- NOTICE (R274): a notice in flight reaches its core. -/
def execNotice (index : Nat) (s : State) : Host.Outcome State Fault Refusal :=
  .next <| match s.notices[index]? with
  | none => s
  | some (core, line) => { s with notices := dropAt s.notices index }.updParts (fun _ => true) (s.notePart core line)

/-- REGISTER_ANSWER (R278): the home of a line that a sleeper watches adds the core to its watchers and answers. -/
def execRegisterAnswer (part index : Nat) (s : State) : Host.Outcome State Fault Refusal :=
  let p := s.getPart part
  .next <| match p.state, p.sleep with
  | .asleep, some x =>
    match x.unanswered[index]? with
    | none => s
    | some r =>
      let w := s.getWg (s.getGang p.gang).workgroup
      if w.state ≠ .running then s
      else
        let s1 := s.watchLine (s.getCtx w.context).hedge w.core r.line
        s1.updPart part fun p =>
          if s1.versionOf r.line ≠ r.version then p.wake
          else { p with sleep := some { x with unanswered := dropAt x.unanswered index } }
  | _, _ => s

/-- POLL_INTERVAL (R145): a polled wait polls again. -/
def execPollInterval (part : Nat) (s : State) : Host.Outcome State Fault Refusal :=
  .next (s.updPart part fun p => if p.state = .polling then { p with state := .ready } else p)

/-! ## The deadlock watchdog (R283, R284) -/

/-- A part parked at ACQUIRE waits only on its own context: what other contexts hold, or are still spilling, would not be
enough, and no G need of another context goes before it. -/
def State.stuckAcquire (s : State) (p : Part) : Bool :=
  let g := s.getGang p.gang
  let w := s.getWg g.workgroup
  let c := s.getCtx w.context
  let k := s.getCore w.core
  let own : State := { s with spills := s.spills.filter fun x => (s.getWg x.workgroup).context == c.id }
  let before := (k.acquires.takeWhile fun a => a.gang != g.id).filter fun a => a.harvest == c.harvest
  let ahead := if c.harvest then (k.acquires.filter fun a => !a.harvest) ++ before else before
  !own.fits w.core (s.acquireWant g) (fun x => x.context == c.id) &&
  ahead.all (fun a => s.ctxOfGang a.gang == c.id) &&
  (!c.harvest || (s.allCtxs.all (fun x => x.id == c.id || !(x.live && x.claim.contains w.core)) &&
    !(k.mailbox.take 1).any fun m => !m.harvest && m.context != c.id))

/-- A part that counts as waiting for ever; one whose registrations are unanswered is not asleep yet (R278). -/
def State.stuckPart (s : State) (p : Part) : Bool :=
  !p.drain &&
  match p.state with
  | .exited => true
  | .asleep => p.sleep.any fun x => x.unanswered.isEmpty
  | .parked (.regang _) => true
  | .parked .acquire => s.stuckAcquire p
  | _ => false

/-- A launch that a context wrote and that has not completed. -/
def State.childOpen (s : State) (c : Nat) : Bool :=
  s.queues.any fun q => q.parents.any fun x =>
    x.2 == c && s.qRidx q.handle ≤ x.1 && !(q.packets.any fun p => p.seq == x.1 && p.completed)

/-- The three conditions of R283. -/
def State.deadlocked (s : State) (c : Nat) : Bool :=
  let ps := s.allParts.filter fun p => s.ctxOfPart p == c
  ps.all s.stuckPart &&
  ps.all (fun p => match p.sleep with | some x => !(p.state == .asleep && x.lines.any (·.ext)) | none => true) &&
  s.copies.all (fun j => !(j.context == c && (match j.owner with | .gang .. => true | .queue .. => false))) &&
  s.allCores.all (fun k => (k.matq ++ k.running.toList).all (fun o => s.ctxOfGang o.gang != c) &&
    k.mailbox.all fun m => m.context != c) &&
  s.allGangs.all (fun g => g.stores.isEmpty || s.ctxOfGang g.id != c) &&
  s.saves.all (fun v => v.messages.all fun m => m.context != c) &&
  s.messages.all (fun m => m.context != c) && !s.childOpen c

/-- WATCHDOG_EXPIRY (R283, R284): the context ends, and no fault record is written. -/
def execWatchdogExpiry (context : Nat) (s : State) : Host.Outcome State Fault Refusal :=
  .next (if (s.getCtx context).live && s.deadlocked context then s.endContext context 0x40 0 0 0 else s)

/-! ## Accesses reach their points (R242, R253) -/

/-- What stands against an access outside the device. -/
def State.lost (s : State) (r : Req) : Option (Nat × Nat) :=
  s.outsideFault r.addr (r.isRead || r.isAtomic) (!r.isRead)

/-- A request of a part has been performed, or has been lost: its part waits for it no more. -/
def State.doneReq (s : State) (r : Req) : State :=
  (s.updPart r.part fun p => { p with pending := p.pending.erase r }).settleWg (s.getGang (s.getPart r.part).gang).workgroup

/-- A .k access whose target has ended since it issued: its scratchpad is no longer the target's (R218). -/
def State.targetGone (s : State) (p : Part) (r : Req) : Bool :=
  let w := s.getWg (s.getGang p.gang).workgroup
  r.acc % 8 == 2 && isSpad r.addr && !(s.allWgs.any fun x => x.context == w.context && x.pidx == w.pidx && x.state != .ended &&
    x.state != .released && overlaps r.addr r.size (spadAddr x.core x.sbase) x.scr)

/-- An H holder of the serial token yields to a G request that meets its hold (R276). -/
def State.meetHold (s : State) (r : Req) : State :=
  match s.heldByOther r.part r.addr r.size (!r.isRead) with
  | some h => s.yieldHolder r.harvest h
  | none => s

/-- A request reaches its point: it is lost outside the device or with its target, an owner or a holder keeps it waiting, it
waits for its line or its bank, or it is performed. -/
def State.reach (s : State) (p : Part) (r : Req) : State :=
  match if s.targetGone p r then some (0x0A, 1) else s.lost r with
  | some (code, aux) => (s.loseAccess r code aux).doneReq r
  | none =>
    let s1 := s.meetHold r
    if s1.ownedUnit 0 r.addr r.size || (s1.heldByOther r.part r.addr r.size (!r.isRead)).isSome then s1
    else if s1.needsFill (s1.coreOfPart p) (s1.levelOf p r.scope) r.addr then (s1.joinMiss r).getD s1
    else if s1.reqFree r then (s1.performReq r).doneReq r else s1

/-- A request held in ingress goes on where the tables have room for it: it is seated, or performed where its line is
resident. One of a line whose earlier request is still held stays behind it (R314). -/
def State.admitReq (s : State) (r : Req) : State :=
  let line := r.addr / 128
  if (s.ingress.takeWhile (· != r)).any fun x => x.addr / 128 == line then s
  else
    let s1 := s.meetHold r
    let t : State := { s1 with ingress := s1.ingress.erase r }
    if isHbm r.addr && (s1.misses.any (fun m => m.line == line) || !s1.resident.any (fun x => x.line == line))
    then (t.seat r).getD s1
    else if s1.reqFree r then (t.performReq r).doneReq r else s1

/-- ACCESS_PERFORMED (R242, R131): an access of a part reaches the point that its scope names; indices past the part's own
accesses name the stores of its gang's TSTs (R174). -/
def execAccessPerformed (part index : Nat) (s : State) : Host.Outcome State Fault Refusal :=
  let p := s.getPart part
  .next <| match p.pending[index]? with
  | none =>
    match (s.getGang p.gang).stores[index - p.pending.length]? with
    | some r =>
      let core := s.coreOfPart p
      if s.wayTaken core 2 r.addr r.id r.harvest || s.gFirst core 2 r then s
      else (s.unitStore p.gang r).settleWg (s.getGang p.gang).workgroup
    | none => s
  | some r =>
    if r.kind == .fence then
      let earlier := p.pending.take index
      if earlier.all (fun x => x.kind != .fence) && fenceReady r.data earlier p.reading then
        (s.fenceEffect (s.coreOfPart p) (s.levelOf p r.scope) r.data).doneReq r
      else s
    else if s.ingress.contains r then s.admitReq r
    else if s.joined r || !p.mayGo index r || s.behind p r || s.gFirst (s.coreOfPart p) (s.levelOf p r.scope) r then s
    else s.reach p r

/-- INVALIDATION_ACKNOWLEDGED (R133): the part goes on once the last core of the hedge has answered. -/
def execInvalidationAcknowledged (part core : Nat) (s : State) : Host.Outcome State Fault Refusal :=
  .next (s.updPart part fun p =>
    let rest := p.acks.filter (· != core)
    if p.state = .parked .icinv && rest.isEmpty then { p with acks := [], state := .ready, pc := p.pc + 8 }
    else { p with acks := rest })

/-- Serve requests that waited for a line, in order of arrival, up to one that a holder keeps waiting; with those that are
left. -/
def State.serveAll : State → List Req → State × List Req
  | s, [] => (s, [])
  | s, r :: rs =>
    let t := s.meetHold r
    if t.reqFree r then State.serveAll ((t.performReq r).doneReq r) rs else (t, r :: rs)

/-- The requests held in ingress, G before H, each class in order of arrival (R314, R319). -/
def State.admitAll (s : State) : State :=
  (s.ingress.filter (fun r => !r.harvest) ++ s.ingress.filter fun r => r.harvest).foldl State.admitReq s

/-- A slice has a G line in flight that has not arrived: G fetches go before H ones (R319). -/
def State.gMiss (s : State) (slice : Nat) : Bool :=
  s.misses.any fun m => m.slice == slice && !m.harvest && !s.resident.any fun x => x.line == m.line

/-- MISS_FILL (R314): a line arrives at its slice, which serves the line's waiters, and goes on with its ingress queues. A
slice without an awake way serves nothing (R318), and H waits for G (R319). -/
def execMissFill (slice line : Nat) (s : State) : Host.Outcome State Fault Refusal :=
  .next <| match s.misses.find? fun m => m.slice == slice && m.line == line with
  | none => s
  | some m =>
    if s.ways slice = 0 || (m.harvest && s.gMiss slice) then s
    else
      let rest := s.misses.filter fun x => !(x.slice == slice && x.line == line)
      let s1 := ({ s with misses := rest }).addResident { harvest := m.harvest, hedge := m.hedge } line
      let (s2, left) := s1.serveAll m.waiters
      let s3 : State := if left.isEmpty then s2 else { s2 with misses := s2.misses ++ [{ m with waiters := left }] }
      s3.admitAll

/-- ZEROING_COMPLETE (R394): a released buffer reads zero. -/
def execZeroingComplete (index : Nat) (s : State) : Host.Outcome State Fault Refusal :=
  .next <| match s.zeroing[index]? with
  | none => s
  | some z =>
    { s.zeroRange (spadAddr z.core z.base) z.length with zeroing := dropAt s.zeroing index }

end Sys2Proof.Machine
end

