-- ==== Sys2Proof/Machine/Harvest.lean ====
section
/-! DEFINITION. Eviction and restart of harvest work (19_classes.md, R328 to R334; 01_state.md, R30, R31). -/

namespace Sys2Proof.Machine

/-! ## The needs of a core (R328) -/

/-- What the admission of a workgroup asks of a core (R195). -/
def admitWant (c : Context) (mine : Nat) : Want :=
  let per (n : Nat) : List Nat := (List.range 4).map fun q => gangsIn c.ngang q * n
  { blocks := per c.vpro, slots := per 1, image := 512 * c.ngang + 4096 * (c.ngang * c.vpro), harvest := c.harvest,
    hedge := c.hedge, mine := mine }

/-- The workgroups of a saved paddock. -/
def State.savedWgs (s : State) (v : SavedPaddock) : List Workgroup :=
  s.allWgs.filter fun w => w.context == v.context && w.pidx == v.pidx

/-- What a saved workgroup needs of its new core. -/
def State.restoreWant (s : State) (c : Context) (w : Workgroup) : Want :=
  let gs := s.savedGangs w.id
  let quad (q : Nat) (f : Gang → Nat) : Nat := sumOf f (gs.filter fun g => g.quad == q)
  if w.state ≠ .saved then { blocks := [], slots := [], harvest := c.harvest, hedge := c.hedge }
  else
    { blocks := (List.range 4).map fun q => quad q (·.vblk), slots := (List.range 4).map fun q => quad q fun _ => 1,
      tiles := w.ntiles, cim := countBits w.cim, scr := w.scr,
      msgs := ((s.saves.flatMap (·.messages)).filter fun m => m.workgroup == w.id).length,
      image := if c.harvest then s.harvestImage w else 0, harvest := c.harvest, hedge := c.hedge }

/-- The members of a saved paddock in member order. -/
def State.savedMembers (s : State) (v : SavedPaddock) : List Workgroup :=
  let c := s.getCtx v.context
  (List.range (c.padW * c.padH)).filterMap fun m => (s.savedWgs v).find? fun w => w.py * c.padW + w.px == m

/-- The G needs that wait on a core, each as the requests of which one would do. -/
def State.needs (s : State) (core : Nat) : List (List Want) :=
  let k := s.getCore core
  let acq := (k.acquires.find? fun a => !a.harvest).map fun a => [s.acquireWant (s.getGang a.gang)]
  let adm := (s.allCtxs.filter fun c => c.live && c.claim.contains core).map fun c =>
    match s.saves.filter fun v => v.context == c.id && v.done with
    | [] => [admitWant c 0]
    | vs => vs.filterMap fun v => ((s.savedMembers v)[c.claim.idxOf core]?).map (s.restoreWant c)
  let msg := match k.mailbox with
    | m :: _ =>
      let w := s.getWg m.workgroup
      if !m.harvest && w.state == .running then [(List.range 4).map (handlerWant (s.getCtx w.context) w)] else []
    | [] => []
  acq.toList ++ adm ++ msg

/-- The H workgroup that an unmet need evicts next: the most recently started, and of those of one cycle the one whose
gang 0 holds the higher slot. One under a pre-emption save may be ordered out too (R31). -/
def State.evictNext (s : State) (core : Nat) : Option Workgroup :=
  let slot0 (w : Workgroup) : Nat := ((s.launchGangs w.id).head?.map (·.slot)).getD 0
  (s.allWgs.filter fun w => w.core == core && (w.state == .running || w.state == .saved) && s.wgHolds w && !w.ordered &&
    s.wgIsH w).foldl (fun best w => match best with
    | none => some w
    | some b => if b.startTick < w.startTick || (b.startTick == w.startTick && slot0 b < slot0 w) then some w else best) none

/-- A need that does not fit, counting what evictions already ordered will free, and would fit without the H holdings. -/
def State.unmet (s : State) (core : Nat) : Bool :=
  let t := { s with spills := [] }
  (s.needs core).any fun ws => !(ws.any fun w => t.fits core w fun x => !x.ordered) &&
    ws.any fun w => t.fits core w fun x => !s.wgIsH x

/-! ## The order (R329 to R331, R166, R188) -/

/-- A part that is evicted: what the bale does not keep is discarded, the status of a DTURN too; a release in progress keeps
its entries. -/
def Part.evict (p : Part) : Part :=
  if p.state = .exited then p
  else { p with state := .evicted, drain := false, levels := [], doomed := false, lastStart := none, xcode := 0, xlevel := 0,
                consec := 0, serial := false, parked := [], replay := none, trap := none, sleep := none, acks := [],
                inflight := p.inflight.filter (fun r => !r.turn), recording := none, got := []
                deferred := if p.fending then p.deferred else [] }

/-- Land every result of a part that only waits to land. -/
def State.landReady (s : State) (p : Nat) : Nat → State
  | 0 => s
  | n + 1 =>
    let x := s.getPart p
    match x.inflight.zipIdx.find? fun r => r.1.waits == 0 with
    | some (r, i) => (s.landAt x i r).landReady p n
    | none => s

/-- What is still to be written of a bale, in order (R329). -/
def State.baleOrder (s : State) (w : Workgroup) : List (Nat × Option Nat) :=
  let gs := s.launchGangs w.id
  gs.map (fun g => (g.id, none)) ++ gs.flatMap (fun g => (List.range g.vblk).map fun b => (g.id, some b)) ++
  if w.scr = 0 then [] else [(0, none)]

/-- Sheaf numbering restarts (R30). -/
def Gang.evict (g : Gang) : Gang :=
  { g with evicts := g.evicts + 1, shOpen := 0, shDone := 0, shNext := 1, opsIssued := 0, opsRetired := 0, sheaves := [],
           stores := [] }

/-- An H workgroup is evicted. -/
def State.evict (s : State) (w : Workgroup) : State :=
  let gs := (s.gangsOfWg w.id).map (·.id)
  let ps := (s.partsOfWg w.id).map (·.id)
  let k := s.getCore w.core
  let ops := ((k.matq ++ k.running.toList).filter fun o => o.workgroup == w.id).map (·.id)
  let gone := (s.copies.filter fun j => j.workgroup == w.id).map (·.id) ++
    (s.gangsOfWg w.id).flatMap fun g => g.stores.map (·.id)
  let s1 := ps.foldl State.releaseToken s
  let s2 := s1.updCore w.core fun k =>
    { k with matq := k.matq.filter fun o => o.workgroup != w.id
             running := k.running.filter fun o => o.workgroup != w.id
             acquires := k.acquires.filter fun a => !gs.contains a.gang }
  let s3 := (gone ++ ops).foldl State.disown
    { s2 with copies := s2.copies.filter fun j => j.workgroup != w.id
              hedges := s2.hedges.map fun h => { h with waiters := h.waiters.filter fun x => !ps.contains x.2 }
              spills := s2.spills ++ [{ workgroup := w.id, core := w.core, left := s.baleOrder w }] }
  let s4 := ((s3.updParts (fun p => ps.contains p.id) Part.evict).updGangs (fun g => gs.contains g.id) Gang.evict).updWg w.id
    fun w => { w with state := .evicted, ordered := false, tiles := [], banks := [], offer := none }
  ps.foldl (fun s p => s.landReady p (s.getPart p).inflight.length) s4

/-- EVICTION_ORDER (R328, R329): a core that has an unmet G need evicts one H workgroup. An order for one under a
pre-emption save waits for the save to finish (R31). -/
def execEvictionOrder (core : Nat) (s : State) : Host.Outcome State Fault Refusal :=
  .next <| match if s.unmet core then s.evictNext core else none with
  | none => s
  | some w => if w.state = .saved then s.updWg w.id fun w => { w with ordered := true } else s.evict w

/-- Stores to the scratchpad of a workgroup that have issued and have not been performed: they come before the scratchpad is
written (R120, R330). -/
def State.spadStores (s : State) (w : Workgroup) : Bool :=
  s.allParts.any fun p => p.pending.any fun r => overlaps r.addr r.size (spadAddr w.core w.sbase) w.scr

/-- SPILL_BLOCK_WRITTEN (R329): the next piece of a bale is in memory, and returns to the core. -/
def execSpillBlockWritten (workgroup : Nat) (s : State) : Host.Outcome State Fault Refusal :=
  .next <| match s.spills.find? fun x => x.workgroup == workgroup with
  | none => s
  | some x =>
    let w := s.getWg workgroup
    match x.left with
    | [] => s
    | e :: rest => if e = (0, none) && s.spadStores w then s else s.writePiece w e fun s =>
      { s with
        spills := updWhere (fun x => x.workgroup == workgroup) (fun x => { x with left := rest }) s.spills
        zeroing := if e = (0, none) then s.zeroing ++ [{ core := w.core, base := w.sbase, length := w.scr }] else s.zeroing }

/-! ## Completion (R329, R331) -/

/-- Go on with the FEND release of an evicted part, once the driver has served the pages that it waits for: a fault other
than PAGE, or a page that the driver has refused, ends its context. What was refused is known until the release is over. -/
def State.finishFend (s : State) (p : Nat) : State :=
  let s1 := s.takeUp p
  let ps := s1.me.parked
  if ps.any fun r => !r.pages.isEmpty then s1
  else
    let en := s1.gang.tvEn
    let old := (s1.me.replay.map (·.recs)).getD []
    let again : Option Replay := if (old ++ ps).isEmpty then none else some { stop := s1.me.pc, recs := old ++ ps }
    let s2 := { s1 with me := { s1.me with parked := [], replay := again }, gang := { s1.gang with tvEn := false } }
    let s3 := State.releaseAll (fun s => { s with me := { s.me with fending := false } }) s2.me.deferred s2
    if !s3.ctx.live then s3
    else if s3.me.trap.isSome then { s3 with me := { s3.me with ending := true }, gang := { s3.gang with tvEn := en } }
    else
      let left := if s3.me.fending then s3.me.replay else none
      { s3 with me := { s3.me with state := .evicted, replay := left }, gang := { s3.gang with tvEn := en } }

/-- BALE_COMPLETE (R329 to R331): once the bale is written, late results and accesses have landed, and every release is
finished, the workgroup joins its hedge's restart queue. -/
def execBaleComplete (workgroup : Nat) (s : State) : Host.Outcome State Fault Refusal :=
  let ps := s.partsOfWg workgroup
  .next <| match s.spills.find? fun x => x.workgroup == workgroup with
  | none => s
  | some x =>
    if !x.left.isEmpty then s
    else match ps.find? (·.fending) with
      | some p => s.finishFend p.id
      | none =>
        if ps.any fun p => !p.inflight.isEmpty || !p.pending.isEmpty || p.trap.isSome then s
        else
          let w := s.getWg workgroup
          let c := s.getCtx w.context
          let s1 := { s with spills := s.spills.filter fun y => y.workgroup != workgroup }.release w.core 2
          s1.updHedge c.hedge fun h => { h with restarts := h.restarts ++
            [{ workgroup := workgroup, context := c.id, address := BitVec.ofNat 64 (baleBase c w) }] }

/-! ## Restart (R333) -/

/-- What a bale's record of a gang says. -/
structure BaleGang where
  index : Nat
  bytes : List Byte
  /-- Where its blocks lie, counted in blocks. -/
  first : Nat
  deriving DecidableEq, Repr

def BaleGang.exited (b : BaleGang) : Bool := bits (field b.bytes 8 1) 1 1 = 1
def BaleGang.vblk (b : BaleGang) : Nat := if b.exited then 0 else max 1 (min 16 (field b.bytes 10 1))

/-- The records of a bale, with the places of their blocks. -/
def baleGangs (bs : List Byte) : Nat → Nat → Nat → List BaleGang
  | 0, _, _ => []
  | n + 1, j, first =>
    let b : BaleGang := { index := j, bytes := (bs.drop (512 * j)).take 512, first := first }
    b :: baleGangs bs n (j + 1) (first + b.vblk)

/-- The resources that a bale records. -/
def baleWant (c : Context) (w : Workgroup) (gs : List BaleGang) : Want :=
  let live := gs.filter fun b => !b.exited
  let b0 := (gs.headD { index := 0, bytes := [], first := 0 }).bytes
  let held := field b0 42 1 ≠ 0
  let quad (q : Nat) (f : BaleGang → Nat) : Nat := sumOf f (live.filter fun b => b.index % 4 == q)
  let scr := if held then field b0 36 4 else 0
  { blocks := (List.range 4).map fun q => quad q BaleGang.vblk, slots := (List.range 4).map fun q => quad q fun _ => 1,
    tiles := if held then field b0 40 1 else 0, cim := if held then countBits (BitVec.ofNat 2 (field b0 41 1)) else 0,
    banks := if held then BitVec.ofNat 2 (field b0 41 1) else 0, scr := scr,
    image := 512 * gs.length + 4096 * sumOf BaleGang.vblk gs + scr, harvest := true, hedge := c.hedge, mine := w.floor }

/-- A gang as its bale gives it. -/
def Gang.fromBale (g : Gang) (b : BaleGang) (blocks : List Byte) (quad slot : Nat) : Gang :=
  let r := b.bytes
  { g with quad := quad, slot := slot, vblk := b.vblk, full := bits (field r 8 1) 3 3 = 1, evicts := field r 12 4,
           fflags := BitVec.ofNat 6 (field r 16 1), fmode := BitVec.ofNat 3 (field r 17 1),
           tvAddr := BitVec.ofNat 54 (field r 24 8 / 8), tvEn := field r 24 8 % 2 = 1, hwm := field r 32 4,
           q := Vector.ofFn fun i => BitVec.ofNat 32 (field r (48 + 4 * i.val) 4),
           v := regsOf blocks b.vblk }

/-- A part as its bale gives it: at its restart point, outside a furrow, with FSTAT.RESTARTED = 1. -/
def Part.fromBale (p : Part) (b : BaleGang) : Part :=
  let r := b.bytes
  let stack := ((List.range (min 7 (field r 11 1))).map fun i => Frame.ret (BitVec.ofNat 64 (field r (80 + 8 * i) 8))).reverse
  let pc := BitVec.ofNat 64 (field r 0 8)
  { id := p.id, gang := p.gang, state := .ready, pc := pc, restart := pc, slices := BitVec.ofNat 8 (field r 9 1),
    stack := stack, restack := stack, restarted := true,
    g := Vector.ofFn fun i => if 1 ≤ i.val && i.val ≤ 47 then BitVec.ofNat 64 (field r (136 + 8 * (i.val - 1)) 8) else 0 }

/-- One gang of a bale comes back on a core. -/
def State.restoreGang (s : State) (w : Workgroup) (core : Nat) (blocks : List Byte) (b : BaleGang) : State :=
  if b.exited then s
  else match (s.launchGangs w.id).find? fun g => g.index == b.index with
    | none => s
    | some g =>
      let quad := b.index % 4
      let slot := (s.freeSlots core quad fun x => x.id != w.id).find? fun i =>
        !(s.launchGangs w.id).any fun x => x.index < b.index && x.quad == quad && x.slot == i && !s.gangOver x.id
      let mine := (blocks.drop (4096 * b.first)).take (4096 * b.vblk)
      (s.updGang g.id fun g => g.fromBale b mine quad (slot.getD 0)).updPart (s.partOfGang g.id).id fun p => p.fromBale b

/-- Work of a launch goes onto cores: they have run it, and packets of its queue (R255, R359). -/
def State.ranOn (s : State) (c : Nat) (cores : List Nat) : State :=
  let q := s.getQueue (s.getCtx c).queue
  (s.setQueue { q with ran := distinct (q.ran ++ cores) }).updCtx c fun c => { c with ran := distinct (c.ran ++ cores) }

/-- A workgroup comes back on a core with what its bale holds. -/
def State.restoreBale (s : State) (w : Workgroup) (core : Nat) (want : Want) (gs : List BaleGang) (blocks spad : List Byte) :
    State :=
  let base := (spadFit (s.spadUsed core everyone) want.scr).getD 0
  let held := field ((gs.headD { index := 0, bytes := [], first := 0 }).bytes) 42 1 ≠ 0
  let s1 := gs.foldl (fun s b => s.restoreGang w core blocks b) s
  let s2 := s1.updWg w.id fun w =>
    { w with core := core, state := .running, startTick := s.tick, scr := want.scr, sbase := base, ntiles := want.tiles,
             cim := want.banks, granted := held, tiles := [], banks := [], offer := none }
  let s3 := ((s2.putBytes (spadAddr core base) spad).bumpRange (spadAddr core base) spad.length).ranOn w.context [core]
  s3.acquire core 2 none

/-- BALE_RESTART (R333): the bale at the head of a hedge's queue goes to the first core that has room for it and no G
need waiting. -/
def execBaleRestart (hedge : Nat) (s : State) : Host.Outcome State Fault Refusal :=
  .next <| match (s.hedge? hedge).bind fun h => h.restarts.head?.map fun b => (h, b) with
  | none => s
  | some (h, b) =>
    let w := s.getWg b.workgroup
    let c := s.getCtx w.context
    let x := c.space (coreDie w.core)
    let base := b.address.toNat
    let bad := State.imageFault c.id
    s.engineFetch x bad (fun s rs =>
      let gs := baleGangs rs c.ngang 0 0
      let want := baleWant c w gs
      match (h.coreList.filter s.coreEnabled).find? fun k => !s.gWaits k && s.fits k want everyone with
      | none => s
      | some core =>
        let n := 4096 * sumOf BaleGang.vblk gs
        s.engineFetch x bad (fun s bs =>
          (s.restoreBale w core want gs (bs.take n) (bs.drop n)).updHedge hedge fun h => { h with restarts := h.restarts.tail })
          (pagePieces (base + 512 * c.ngang) (n + want.scr)) [])
      (pagePieces base (512 * c.ngang)) []

end Sys2Proof.Machine
end

