-- ==== Sys2Proof/Machine/Placement.lean ====
section
/-! DEFINITION. Placement, pre-emption and restore of paddocks (21_launch.md, R359 to R363, R365; 09_execution.md, R192 to
R195; 01_state.md, R15, R30). -/

namespace Sys2Proof.Machine

/-! ## Where a paddock goes (R361, R362) -/

/-- What the dispatcher does for a paddock. -/
inductive Placing
  | none
  /-- Place it on these cores, with the floor reserve that it uses (0 for none). -/
  | on (cores : List Nat) (floor : Nat)
  /-- Keep these cores for it while evictions free them; with none, an earlier choice no longer stands. -/
  | claim (cores : List Nat)
  /-- Save these paddocks (context and PIDX) and keep the cores for it. -/
  | save (cores : List Nat) (victims : List (Nat × Nat))
  deriving DecidableEq, Repr, Inhabited

/-- Holdings that stay once the H work of a core has been evicted and saves in progress are written. -/
def State.stays (s : State) (x : Workgroup) : Bool := !s.wgIsH x && x.state != .saved

/-- Does every core of a rectangle admit its member, counting the holdings that `keep` selects? -/
def State.admits (s : State) (cores : List Nat) (wants : List Want) (keep : Workgroup → Bool) : Bool :=
  (cores.zip wants).all fun (k, w) => s.fits k w keep

/-- The rectangles of a hedge in scan order, the queue's die first, less those with a core kept for another launch. -/
def State.scanOrder (s : State) (c : Context) (h : Hedge) : List (List Nat) :=
  let die := bits c.queue 13 13
  let taken := s.allCtxs.flatMap fun x => if x.id ≠ c.id && x.live then x.claim else []
  ((s.rectangles h die c.padW c.padH ++ s.rectangles h (1 - die) c.padW c.padH).map fun r => r.2.2).filter fun r =>
    r.all fun k => !taken.contains k

/-- A paddock by context and PIDX. -/
def Workgroup.paddock (w : Workgroup) : Nat × Nat := (w.context, w.pidx)

/-- Distinct pairs, first occurrences in order. -/
def distinctPairs (xs : List (Nat × Nat)) : List (Nat × Nat) :=
  xs.foldl (fun a x => if a.contains x then a else a ++ [x]) []

/-- The paddocks whose removal would make a rectangle placeable: the G paddocks of lower priority on those of its cores
that do not admit their members; none when that is not enough (R362). -/
def State.victims (s : State) (c : Context) (cores : List Nat) (wants : List Want) : Option (List (Nat × Nat)) :=
  let t := { s with spills := [] }
  let blocked := ((cores.zip wants).filter fun (k, w) => !t.fits k w s.stays).map (·.1)
  let vs := distinctPairs ((s.allWgs.filter fun w =>
    let x := s.getCtx w.context
    blocked.contains w.core && w.state == .running && !x.harvest && x.live && x.hedge == c.hedge && x.priority < c.priority).map
      Workgroup.paddock)
  if !vs.isEmpty && t.admits cores wants (fun w => s.stays w && !vs.contains w.paddock) then some vs else none

/-- The cores that a set of paddocks covers. -/
def State.coversCores (s : State) (vs : List (Nat × Nat)) : Nat :=
  (distinct ((s.allWgs.filter fun w => vs.contains w.paddock).map (·.core))).length

/-- The origin whose set covers the fewest cores. -/
def State.preempt (s : State) (c : Context) (rs : List (List Nat)) (wants : List Want) : Placing :=
  let best := rs.foldl (fun (b : Option (List Nat × List (Nat × Nat))) r => match s.victims c r wants with
    | some vs => (match b with
      | some (_, us) => if s.coversCores vs < s.coversCores us then some (r, vs) else b
      | .none => some (r, vs))
    | .none => b) .none
  match best with
  | some (r, vs) => .save r vs
  | .none => .none

/-- A floor-eligible launch of a level (R365). -/
def floorLaunch (h : Hedge) (c : Context) : Bool :=
  1 ≤ c.level && c.level ≤ 4 && c.npad = 1 && c.padW = 1 && c.padH = 1 && c.ngang * c.vfull ≤ h.flblk && c.tiles ≤ h.fltile &&
  c.cim ≤ h.flcim && c.scr ≤ h.flscr

/-- The reserve of the launch's level, when nothing else has room. -/
def State.onReserve (s : State) (c : Context) (h : Hedge) (wants : List Want) : Placing :=
  match wants, h.reserveCore c.level with
  | [w], some k =>
    if floorLaunch h c && s.coreEnabled k && s.fits k { w with mine := c.level } everyone && (!c.harvest || !s.gWaits k)
    then .on [k] c.level else .none
  | _, _ => .none

/-- The dispatcher's choice for a paddock of a launch whose members want `wants`. -/
def State.choose (s : State) (c : Context) (wants : List Want) : Placing :=
  match s.hedge? c.hedge with
  | .none => .none
  | some h =>
    let rs := s.scanOrder c h
    if c.harvest then
      if !h.restarts.isEmpty then .none
      else match rs.find? fun r => s.admits r wants everyone && r.all (fun k => !s.gWaits k) with
        | some r => .on r 0
        | .none => s.onReserve c h wants
    else
      let t := { s with spills := [] }
      if !c.claim.isEmpty then
        if s.admits c.claim wants everyone then .on c.claim 0
        else if t.admits c.claim wants s.stays then .none else .claim []
      else match rs.find? fun r => t.admits r wants s.stays with
        | some r => if s.admits r wants everyone then .on r 0 else .claim r
        | .none =>
          match s.onReserve c h wants with
          | .none => s.preempt c rs wants
          | p => p

/-! ## Padding (R193, R360) -/

/-- Is lane identifier `n` padding? -/
def paddingLane (c : Context) (n : Nat) : Bool :=
  (List.range 6).any fun k =>
    let src := c.padsel.toNat / 16 ^ k % 16
    let low := sumOf id (c.widths.take k)
    let v := n / 2 ^ low % 2 ^ c.widths.getD k 0
    src < 8 && k < c.widths.length && 0 < c.widths.getD k 0 && (c.shapes.getD src 0).toNat ≤ v

/-- The slices that a gang starts with. -/
def startSlices (c : Context) (wid : Nat) : BitVec 8 :=
  sliceMask ((List.range (min 8 c.nslice)).filter fun i => !(sliceLanes i).all fun l => paddingLane c (wid + l))

/-! ## Admission (R15, R192, R194, R195) -/

/-- A gang of a workgroup starts, in the lowest free slot of its quadrant. -/
def State.startGang (s : State) (c : Context) (w : Workgroup) (j : Nat) : State :=
  let place := w.pidx * (c.padW * c.padH) + w.py * c.padW + w.px
  let wid := (place * c.ngang + j) * 32
  let m := startSlices c wid
  let g : Gang :=
    { id := s.nextId, workgroup := w.id, index := j, quad := j % 4, slot := (s.freeSlots w.core (j % 4) everyone).headD 0,
      started := m, vblk := if m = 0 then 0 else c.vpro, privLimit := c.privLimit, wid := wid }
  let p : Part :=
    { id := s.nextId + 1, gang := g.id, state := .ready, pc := c.entry, slices := m, restart := c.entry,
      g := ((Vector.replicate 64 0).setIfInBounds 1 c.arg).setIfInBounds 2 c.shapeReg }
  { s with gangs := s.gangs ++ [g], parts := if m = 0 then s.parts else s.parts ++ [p], nextId := s.nextId + 2 }

/-- The lines of a launch's edge regions are discarded on the cores where it is placed (R261, R359). -/
def State.edgeInval (s : State) (c : Context) (cores : List Nat) : State :=
  c.regions.foldl (fun s r =>
    let fs := s.framesIn c.root c.asid r.1 r.2
    s.cleanLines cores (distinct (cores.map coreSector)) true fun l => onRange fs r.1 r.2 (128 * l) 128) s

/-- The member of a paddock at index m is admitted on a core. -/
def State.startMember (s : State) (c : Context) (pidx floor : Nat) (m core : Nat) : State :=
  let w : Workgroup :=
    { id := s.nextId, context := c.id, core := core, pidx := pidx, px := m % c.padW, py := m / c.padW, state := .running,
      floor := floor, startTick := s.tick }
  let s1 := { s with wgs := s.wgs ++ [w], nextId := s.nextId + 1 }
  let s2 := (List.range c.ngang).foldl (fun s j => s.startGang c w j) s1
  (s2.acquire core 2 none).settleWg w.id

/-- A launch's packet starts with its first paddock (R353). -/
def State.startPacket (s : State) (q seq : Nat) : State :=
  let x := s.getQueue q
  let start (p : Packet) : Packet := { p with started := some s.tick }
  s.setQueue { x with packets := updWhere (fun p => p.seq == seq && p.started.isNone) start x.packets }

/-- A context whose packet has completed, or never started, is no more. -/
def State.forget (s : State) (c : Nat) : State :=
  let s1 := s.putBack
  let gs := (s1.allGangs.filter fun g => s1.ctxOfGang g.id == c).map (·.id)
  let ws := (s1.wgsOfCtx c).map (·.id)
  { s1 with parts := s1.parts.filter fun p => !gs.contains p.gang
            gangs := s1.gangs.filter fun g => !gs.contains g.id
            wgs := s1.wgs.filter fun w => !ws.contains w.id
            ctxs := s1.ctxs.filter (·.id != c) }.dropHedges

/-- A launch that has been offered and has placed nothing comes to its end with no context. -/
def State.endOffered (s : State) (q seq c : Nat) (f : Packet → Packet) : State :=
  let s1 := s.forget c
  let y := s1.getQueue q
  s1.setQueue { y with packets := updWhere (fun z => z.seq == seq) (fun p => { f p with context := none }) y.packets }

/-- Writes and atomics of a context that their homes have accepted and not performed (R209). -/
def State.accepted (s : State) (c : Nat) : Bool :=
  (s.misses.flatMap (·.waiters) ++ s.ingress).any fun r => s.ctxOfPart (s.getPart r.part) == c

/-- How a packet ended, if it has: its own end, or that of its launch, once every part that ends it has written its record
and what its parts had accepted is performed (R209, R353). -/
def State.packetEnd (s : State) (p : Packet) : Option (Nat × Nat) :=
  match p.ended, p.context with
  | some e, _ => some e
  | none, some c =>
    let x := s.getCtx c
    if x.live || (s.wgsOfCtx c).any (fun w => w.state != .released) ||
      s.allParts.any (fun p => p.ending && p.trap.isSome && s.ctxOfPart p == c) || s.accepted c then none
    else match x.report with
      | some r => some (r.status, r.aux)
      | none => some (0, 0)
  | none, none => none

/-- A launch offered for placement that has placed no paddock has not started (R353). -/
def Packet.offered (p : Packet) : Bool := p.context.isSome && p.started.isNone && p.ended.isNone

/-- Such a launch is skipped when its queue aborts (R356). -/
def State.skipOffered (s : State) (q : Nat) (v : Word64) (p : Packet) : State :=
  s.endOffered q p.seq (p.context.getD 0) fun p => { p with skipped := true, ended := some (0x42, 0), abortv := v }

/-- A queue aborts with a value, unless it has aborted already (R356). -/
def State.abortQueue (s : State) (q : Nat) (v : Word64) : State :=
  if s.qAborted q then s
  else
    let s1 : State := { s with engineWaits := s.engineWaits.filter fun w => w.who != .queue q
                               refusals := s.refusals.filter fun w => w.who != .queue q }
    (((s1.getQueue q).packets.filter Packet.offered).foldl (fun s p => s.skipOffered q v p) s1).wr (queueAddr s q + 44) 4 1
      |>.wr (queueAddr s q + 104) 8 v.toNat

/-- A packet that has come to a bad end aborts its queue at once (R356). -/
def State.judge (s : State) (q : Nat) : State :=
  let new := (s.getQueue q).packets.filter fun p => !p.judged && (s.packetEnd p).isSome
  if new.isEmpty then s
  else
    let y := s.getQueue q
    let s1 := s.setQueue { y with packets := y.packets.map fun p => { p with judged := p.judged || (s.packetEnd p).isSome } }
    new.foldl (fun s p => match s.packetEnd p with
      | some (status, _) =>
        if status = 0 || status = 0x42 then s else s.abortQueue q (BitVec.ofInt 64 (-(status : Int)))
      | none => s) s1

/-- A launch starts with its first paddock, and its ASID's entry is read then (R353, R387): what it says governs the
context, and an entry that fails its check rejects the launch. -/
def State.startCtx (s : State) (c : Context) (k : State → Context → State) : State :=
  if c.placed ≠ 0 then k s c
  else match s.asidFault c.queue with
    | some aux => s.endOffered c.queue c.seq c.id fun p => { p with started := some s.tick, ended := some (0x41, aux) }
    | none =>
      let e := s.readAsid c.asid
      let y := { c with mask := BitVec.ofNat 9 e.mask, root := e.root, key := e.key, codeKey := e.codeKey, session := e.session }
      k (s.updCtx c.id fun _ => y) y

/-- The next paddock of a launch is placed on a rectangle. -/
def State.placeOn (s : State) (c : Context) (cores : List Nat) (floor : Nat) : State :=
  s.startCtx c fun s c =>
    let s2 := (((s.edgeInval c cores).startPacket c.queue c.seq).ranOn c.id cores).updCtx c.id fun c =>
      { c with placed := c.placed + 1, claim := [] }
    (cores.zipIdx.foldl (fun s km => s.startMember c c.placed floor km.2 km.1) s2).settleCtx c.id

/-! ## Pre-emption (R30, R166, R188, R212, R362) -/

/-- A part of a paddock that is to be saved: its open levels abort with the pre-emption code, unless it sleeps; a part held
in issue is Ready again, and every other one stays as it stood (R30, R197). -/
def Part.save (p : Part) : Part :=
  match p.state with
  | .exited | .asleep => p
  | .issued _ => { p.hwAbort 6 with state := .ready, got := [] }
  | _ => if p.levels.isEmpty then p else { p.hwAbort 6 with state := .ready, drain := false }

/-- A pre-emption save begins. -/
def State.beginSave (s : State) (v : Nat × Nat) : State :=
  let ws := (s.allWgs.filter fun w => w.paddock == v && w.state == .running).map (·.id)
  let ps := (ws.flatMap s.partsOfWg).map (·.id)
  let gs := (ws.flatMap s.gangsOfWg).map (·.id)
  let cores := distinct (ws.map fun w => (s.getWg w).core)
  let s1 := (ps.filter fun p => (s.getPart p).serial).foldl State.releaseToken s
  let s2 := cores.foldl (fun s k => s.updCore k fun x =>
    { x with acquires := x.acquires.filter fun a => !gs.contains a.gang }) s1
  let s3 := (s2.updParts (fun p => ps.contains p.id) Part.save).updWgs (fun w => ws.contains w.id) fun w =>
    { w with state := .saved }
  { s3 with hedges := s3.hedges.map fun h => { h with waiters := h.waiters.filter fun x => !ps.contains x.2 }
            saves := s3.saves ++ [{ context := v.1, pidx := v.2, done := false }] }

/-- The H paddocks on some cores that are saved rather than left to an eviction. R30 saves workgroups of either class, and
R362 says of G launches alone when: a free value decides for the others (log 50). -/
def State.harvestVictims (s : State) (c : Context) (cores : List Nat) : List (Nat × Nat) :=
  distinctPairs ((s.allWgs.filter fun w => cores.contains w.core && w.state == .running && s.wgIsH w &&
    (s.getCtx w.context).live && (s.getCtx w.context).hedge == c.hedge && Config.savesHarvest s.tick w.id).map Workgroup.paddock)

/-- Carry out a choice for a launch: `place` places it. -/
def State.carryOut (s : State) (c : Context) (place : List Nat → Nat → State) : Placing → State
  | .none => s
  | .on cores floor => place cores floor
  | .claim cores => s.updCtx c.id fun c => { c with claim := cores }
  | .save cores vs => (vs ++ s.harvestVictims c cores).foldl State.beginSave (s.updCtx c.id fun c => { c with claim := cores })

/-- Everything that a save waits for has ended: matrix operations, copies, results, accesses (R166, R188). -/
def State.saveReady (s : State) (ws : List Workgroup) : Bool :=
  ws.all fun w => !s.wgBusy w &&
    (s.allCores.all fun k => k.running.all fun o => match o.kind with
      | .mma _ _ _ _ _ _ (some (f, _)) => f != w.id
      | _ => true) &&
    (s.partsOfWg w.id).all fun p => p.acks.isEmpty

/-- A save that an eviction order has waited for is over: the order acts on what the slot holds (R31). -/
def State.evictSaved (s : State) (v : SavedPaddock) (ws : List Workgroup) : State :=
  let same (x : SavedPaddock) : Bool := x.context == v.context && x.pidx == v.pidx
  (ws.filter fun w => w.state == .saved).foldl (fun s w =>
    let t := s.updWg w.id fun w => { w with state := .running }
    t.evict (t.getWg w.id)) { s with saves := s.saves.filter fun x => !same x }

/-- PREEMPTION_SAVE_DONE (R362): a save has been written, and its cores are free. -/
def execPreemptionSaveDone (index : Nat) (s : State) : Host.Outcome State Fault Refusal :=
  .next <| match s.saves[index]? with
  | .none => s
  | some v =>
    let ws := s.savedWgs v
    let c := s.getCtx v.context
    if v.done || !s.saveReady ws then s
    else
      let finish (s : State) : State :=
        let ids := ws.map (·.id)
        let cores := distinct (ws.map (·.core))
        let msgs := cores.flatMap fun k => (s.getCore k).mailbox.filter fun m => ids.contains m.workgroup
        let s1 := cores.foldl (fun s k => (s.updCore k fun x =>
          { x with mailbox := x.mailbox.filter fun m => !ids.contains m.workgroup }).release k 2) s
        let s2 := s1.updGangs (fun g => ids.contains g.workgroup) fun g => { g with v := [] }
        { s2 with
          saves := updWhere (fun x => x.context == v.context && x.pidx == v.pidx)
            (fun x => { x with done := true, messages := msgs }) s2.saves
          zeroing := s2.zeroing ++ (ws.filter fun w => w.scr != 0).map fun w =>
            { core := w.core, base := w.sbase, length := w.scr } }
      (ws.filter fun w => w.state == .saved).foldr (fun w k s => s.writeSlot c w k)
        (if ws.any (·.ordered) then fun s => s.evictSaved v ws else finish) s

/-! ## Restore (R361, R362) -/

/-- A gang's slot on its new core. -/
def State.reslot (s : State) (w : Workgroup) (g : Gang) : State :=
  s.updGang g.id fun g => { g with slot := (s.freeSlots w.core g.quad fun x => x.id != w.id).find? (fun i =>
    !(s.savedGangs w.id).any fun x => x.id < g.id && x.quad == g.quad && x.slot == i && !s.gangOver x.id) |>.getD 0 }

/-- Where a line of the paddock's scratchpads lies now: old place, length and new place of each member's allotment. -/
def movedLine (moves : List (Nat × Nat × Nat)) (line : Nat) : Nat :=
  match moves.find? fun m => m.1 ≤ 128 * line && 128 * line < m.1 + m.2.1 with
  | some m => (128 * line - m.1 + m.2.2) / 128
  | none => line

/-- The sleepers of a restored paddock register their lines again, each where it lies now (R30, R279). -/
def State.rewake (s : State) (moves : List (Nat × Nat × Nat)) (ps : List Part) : State :=
  let sleepers := ps.filterMap fun p => if p.state = .asleep then p.sleep.map fun x => (p.id, x) else none
  let s1 := s.updParts (fun p => sleepers.any fun x => x.1 == p.id) fun p => { p with sleep := none }
  sleepers.foldl (fun s (id, x) =>
    let ls := x.lines.map fun r => { r with line := movedLine moves r.line }
    let form := s.warrenForm (s.coreOfPart (s.getPart id)) ls
    s.updPart id fun p => { p with sleep := some { lines := ls, unanswered := ls, form := form } }) s1

/-- The banks that a workgroup takes on its new core, and its banks' contents under their new numbers. -/
def State.rebank (s : State) (w : Workgroup) (core : Nat) : Workgroup :=
  let taken := (s.holdersOn core fun x => x.id != w.id).foldl (fun m x => m ||| x.cim) (0 : BitVec 2)
  if w.cim &&& taken = 0 || countBits w.cim ≠ 1 then w
  else { w with cim := ~~~w.cim, banks := w.banks.map fun b => (1 - b.1, b.2), offer := w.offer.map (1 - ·) }

/-- A part parked for the serial token asks for it again. -/
def State.askToken (s : State) (hedge : Nat) (harvest : Bool) (p : Part) : State :=
  if p.state = .parked .serial then
    s.updHedge hedge fun h => { h with waiters := h.waiters ++ [(harvest, p.id)] }
  else s

/-- The accepted messages of a saved workgroup, as its slot holds them. -/
def State.readMessages (s : State) (w : Workgroup) (bs : List Byte) : State :=
  let mine (m : Msg) : Bool := m.workgroup == w.id
  let read (ms : List Msg) : List Msg :=
    ((ms.filter mine).zipIdx.map fun (m, i) => m.fromSlot ((bs.drop (80 * i)).take 80)) ++ ms.filter fun m => !mine m
  { s with
    saves := updWhere (fun v => v.context == w.context && v.pidx == w.pidx) (fun v => { v with messages := read v.messages })
      s.saves }

/-- A saved member resumes on a core with what its slot holds, on the floor reserve that it uses. -/
def State.restoreMember (s : State) (c : Context) (w : Workgroup) (ms : List Msg) (core floor : Nat) (k : State → State) :
    State :=
  if w.state = .evicted then k s
  else if w.state ≠ .saved then k (s.updWg w.id fun w => { w with core := core })
  else
    let areas := s.slotParts c w (ms.filter fun m => m.workgroup == w.id)
    s.engineFetch (c.space (coreDie core)) (State.imageFault c.id) (fun s bytes =>
      let bs := cutBytes (areas.map (·.2)) bytes
      let base := (spadFit (s.spadUsed core everyone) w.scr).getD 0
      let s1 := (s.readSlot w bs).readMessages w (bs.getD 5 [])
      let s2 := s1.updWg w.id fun w =>
        { s1.rebank w core with core := core, sbase := base, state := .running, floor := floor }
      let gs := s2.savedGangs w.id
      let s3 := (gs.filter fun g => !s2.gangOver g.id).foldl (fun s g => s.reslot { w with core := core } g) s2
      let asks := gs.filter fun g => s3.allParts.any fun p => p.gang == g.id && p.state == .parked .acquire
      let s4 := s3.updCore core fun x =>
        { x with acquires := x.acquires ++ asks.map fun g => { gang := g.id, harvest := c.harvest } }
      let s5 := ((s4.partsOfWg w.id).foldl (fun s p => s.askToken c.hedge c.harvest p) s4).updParts
        (fun p => gs.any fun g => g.id == p.gang) fun p => { p with lastIssue := 0 }
      let s6 := (s5.putBytes (spadAddr core base) (bs.getD 2 [])).bumpRange (spadAddr core base) w.scr
      k (gs.foldl (fun s g => s.rendezvous g.id) (s6.acquire core 2 none)))
      (areas.flatMap fun x => pagePieces x.1 x.2) []

/-- A saved paddock goes onto a rectangle. -/
def State.restoreOn (s : State) (v : SavedPaddock) (cores : List Nat) (floor : Nat) : State :=
  let c := s.getCtx v.context
  let ws := s.savedMembers v
  let same (x : SavedPaddock) : Bool := x.context == v.context && x.pidx == v.pidx
  let finish (s : State) : State :=
    let ms := ((s.saves.find? same).map (·.messages)).getD []
    let s1 := ({ s with saves := s.saves.filter fun x => !same x }.updCtx c.id fun c => { c with claim := [] }).ranOn c.id cores
    let s2 := ms.foldl (fun s m => s.updCore (s.getWg m.workgroup).core fun x => { x with mailbox := x.mailbox ++ [m] }) s1
    let moves := ws.map fun w => (spadAddr w.core w.sbase, w.scr, spadAddr (s2.getWg w.id).core (s2.getWg w.id).sbase)
    s2.rewake moves (ws.flatMap fun w => s2.partsOfWg w.id)
  (ws.zip cores).foldr (fun wk k s => s.restoreMember c wk.1 v.messages wk.2 floor k) finish s

/-- The choice for a saved paddock. -/
def State.chooseSaved (s : State) (v : SavedPaddock) : Placing :=
  let c := s.getCtx v.context
  if v.done then s.choose c ((s.savedMembers v).map (s.restoreWant c)) else .none

/-! ## The dispatcher (R361) -/

/-- G before H, then the higher priority. -/
def ranksAbove (a b : Context) : Bool :=
  if a.harvest != b.harvest then !a.harvest else b.priority < a.priority

/-- Launches with paddocks to place, of the queues of a die: of each queue the first, unless a saved paddock of the queue
comes before it. -/
def State.candidates (s : State) (die : Nat) : List Context :=
  s.allCtxs.filter fun c => c.live && c.placed < c.npad && bits c.queue 13 13 == die &&
    !(s.allCtxs.any fun x => x.queue == c.queue && x.live && x.placed < x.npad && x.seq < c.seq) &&
    !(s.saves.any fun v => (s.getCtx v.context).queue == c.queue && (s.getCtx v.context).seq ≤ c.seq)

/-- Insertion in the dispatcher's order: rank, then the order in which launches became placeable. -/
def insertCtx (c : Context) : List Context → List Context
  | [] => [c]
  | x :: xs => if ranksAbove c x || (!ranksAbove x c && c.id < x.id) then c :: x :: xs else x :: insertCtx c xs

/-- A saved paddock that the dispatcher would serve before a launch. -/
def State.restoreFirst (s : State) (die : Nat) (c : Context) : Bool :=
  s.saves.any fun v =>
    let x := s.getCtx v.context
    bits x.queue 13 13 == die && !ranksAbove c x && s.chooseSaved v != .none

/-- The members of a launch's paddock all want the same. -/
def admitWants (c : Context) : List Want := List.replicate (c.padW * c.padH) (admitWant c 0)

/-- The dispatcher would serve a launch or a saved paddock of a higher rank before work of a launch. -/
def State.outranked (s : State) (c : Context) : Bool :=
  let die := bits c.queue 13 13
  (s.candidates die).any (fun x => ranksAbove x c && s.choose x (admitWants x) != .none) ||
  s.saves.any fun v =>
    let x := s.getCtx v.context
    bits x.queue 13 13 == die && ranksAbove x c && s.chooseSaved v != .none

/-- PADDOCK_RESTORE (R361, R362): a saved paddock resumes as it stood, when its turn has come. -/
def execPaddockRestore (index : Nat) (s : State) : Host.Outcome State Fault Refusal :=
  .next <| match s.saves[index]? with
  | .none => s
  | some v =>
    if s.outranked (s.getCtx v.context) then s
    else s.carryOut (s.getCtx v.context) (fun cores floor => s.restoreOn v cores floor) (s.chooseSaved v)

/-- PADDOCK_PLACE (R361): the dispatcher of a die serves the first launch for which it can do something. -/
def execPaddockPlace (die : Nat) (s : State) : Host.Outcome State Fault Refusal :=
  let s := ((s.queues.map (·.handle)).filter fun q => bits q 13 13 == die).foldl State.judge s
  let order := (s.candidates die).foldl (fun a c => insertCtx c a) []
  .next <| match order.find? fun c => s.choose c (admitWants c) != .none with
  | .none => s
  | some c =>
    if s.restoreFirst die c then s
    else s.carryOut c (fun cores floor => s.placeOn c cores floor) (s.choose c (admitWants c))

end Sys2Proof.Machine
end

