-- ==== Sys2Proof/Machine/Packets.lean ====
section
/-! DEFINITION. Queue packets: taking up, checks, the packets that need no script, their completion records and signals,
and aborts (21_launch.md, R348 to R359, R405; 11_memory.md, R230; 23_tenancy.md, R386, R387). -/

namespace Sys2Proof.Machine

/-! ## Signals (R354, R405) -/

/-- A signal of a queue: where it lies, or REJECTED's AUX. Its check asks for both rights; `w` says that the access is to
write (R405). -/
def State.signalSpot (s : State) (x : Space) (va : Nat) (w : Bool := true) : Got TlbEntry :=
  if va % 8 ≠ 0 then .bad s 0 0x0B
  else match s.engineSpot x va 8 true true w with
    | .got e => if e.ext then .got e else .bad s 0 0x0B
    | .wait t => .wait t
    | .bad t _ _ => .bad t 0 7

/-- A signal's new value, in one indivisible step (R252): `bad` when it is no signal or cannot be reached; while another
party holds its line nothing happens. -/
def State.signalWrite (s : State) (x : Space) (va : Nat) (f : Word64 → Word64) (bad k : State → State) :
    State :=
  match s.signalSpot x va with
  | .wait t => t
  | .bad t _ _ => bad t
  | .got e =>
    let t := s.promoteAt (e.phys va) 8
    let old := t.homeRead (t.entryKey x e) (e.phys va) 8
    k (t.spaceWrite x e va (leBytes 8 (f (BitVec.ofNat 64 (leNat old))).toNat))

/-! ## Taking up packets (R349, R353, R387, R405) -/

/-- The level of a packet and the launch that wrote it (R364). -/
def State.packetLevel (s : State) (q n : Nat) : Nat := (lookupKey (s.getQueue q).levels n).getD 0
def State.packetParent (s : State) (q n : Nat) : Nat := (lookupKey (s.getQueue q).parents n).getD 0

/-- A word of a packet. -/
def Packet.word (p : Packet) (i : Nat) : Nat := (p.words.getD i 0).toNat
/-- The completion signal, unless none is named or it failed its check (R354, R405); 0 for none. -/
def Packet.endSignal (p : Packet) : Nat := if p.mute then 0 else p.word 1
def Packet.type (p : Packet) : Nat := p.word 0 % 256

/-- The packet joins those that its queue has taken up, and the queue is the last that its engine has served. -/
def State.addPacket (s : State) (q : Nat) (p : Packet) : State :=
  let x := s.getQueue q
  { s with queues := (s.queues.filter fun y => y.handle != q) ++ [{ x with taken := p.seq + 1, packets := x.packets ++ [p] }] }

/-- A packet that ends at its start (R357). -/
def State.rejectPacket (s : State) (q : Nat) (p : Packet) (status aux : Nat) : State :=
  s.addPacket q { p with started := some s.tick, ended := some (status, aux) }

/-- The reserved fields of a packet are 0, and its fields within their ranges (R349). -/
def Packet.fieldsOk (p : Packet) : Bool :=
  let zero (is : List Nat) : Bool := is.all fun i => p.word i == 0
  let top (n : Nat) : Bool := p.word 0 / 2 ^ n == 0
  match p.type with
  | 0 => top 9 && zero [2, 3, 4, 5, 6, 7]
  | 1 => top 13
  | 2 => top 9 && zero [3, 4, 5, 6, 7]
  | 3 => top 9
  | 4 => top 10 && zero [4, 5, 6, 7]
  | 5 => top 12 && bits (p.word 0) 11 9 ≤ 1
  | 6 => top 9 && zero [5, 6, 7]
  | _ => false

/-- The signals that a BARRIER waits on, in order; a signal of 0 is unused (R349). -/
def Packet.watched (p : Packet) : List Nat := ((List.range 5).map fun i => p.word (i + 2)).filter (· != 0)

/-- The signals that a packet names (R405). -/
def Packet.signals (p : Packet) : List Nat :=
  (if p.word 1 = 0 then [] else [p.word 1]) ++
  match p.type with
  | 3 => p.watched
  | 4 => [p.word 2]
  | _ => []

/-- Check each signal in turn; `bad` gets the signal that fails. -/
def State.checkSignals (s : State) (x : Space) (bad : State → Nat → Nat → State) (k : State) : List Nat → State
  | [] => k
  | va :: rest =>
    match s.signalSpot x va false with
    | .got _ => s.checkSignals x bad k rest
    | .wait t => t
    | .bad t _ aux => bad t va aux

/-- May the next packet start: after every earlier one with BAR, else after the one before it; not past a BARRIER that has
not completed, and not while a completion is held (R353, R358). A packet has completed before its signal is updated (R354). -/
def State.mayStart (s : State) (q n : Nat) (bar : Bool) : Bool :=
  let ps := (s.getQueue q).packets.filter fun p => p.seq < n
  ps.all (fun p => p.completed || (s.packetEnd p).isSome || (p.type != 3 && (!bar && (p.seq + 1 != n || p.started.isSome)))) &&
  !(s.qCwidx q - s.qCridx q == s.qCrsize q && ps.any fun p => (s.packetEnd p).isSome && !p.completed)

/-- The slot of a packet in its queue's ring, 64 bytes at a virtual address of the queue's ASID. -/
def State.slotVa (s : State) (q n : Nat) : Nat := s.qRing q + 64 * (n % s.qSize q)

/-- BAR of a queue's next packet, as its ring holds it; 1 where the slot cannot be read at once. -/
def State.nextBar (s : State) (q : Nat) : Bool :=
  let x := s.queueSpace q
  let va := s.slotVa q (s.nextSeq q)
  match s.translateNow x.root x.asid va with
  | .leaf e => bits (leNat (s.homeRead (s.entryKey x e) (e.phys va) 8)) 8 8 == 1
  | .fault .. => true

/-- A queue of the same engine whose next packet can start comes before `q`: it has a higher priority, or the same and has
waited longer since it was served (R346). -/
def State.servedFirst (s : State) (q : Nat) : Bool :=
  let served := s.queues.map (·.handle)
  let before (y : Nat) : Bool := (served.takeWhile (· != q)).contains y || (served.contains q && !served.contains y)
  s.rungQueues.any fun y => y != q && y / 128 == q / 128 && !s.qStopped y && s.nextSeq y < s.qWidx y &&
    (s.qPriority q < s.qPriority y || (s.qPriority q == s.qPriority y && before y)) &&
    !s.engineWaits.any (fun w => w.who == .queue y) && (s.qAborted y || s.mayStart y (s.nextSeq y) (s.nextBar y))

/-- Take up the next packet of a queue, if its type is among those of the step: skipped when the queue has aborted,
rejected when a check fails, else `k`. -/
def State.withPacket (s : State) (q : Nat) (mine : Nat → Bool) (k : State → Packet → State) : State :=
  let s := s.judge q
  let n := s.nextSeq q
  if s.qStopped q || s.qWidx q ≤ n || s.servedFirst q then s
  else
    let x := s.queueSpace q
    let p0 : Packet := { seq := n, words := List.replicate 8 0, level := s.packetLevel q n }
    let start (s : State) (p : Packet) : State :=
      if s.qAborted q then
        s.addPacket q { p with skipped := true, ended := some (0x42, 0), abortv := BitVec.ofNat 64 (s.qAbortv q) }
      else if !s.mayStart q n (bits (p.word 0) 8 8 == 1) then s
      else if !p.fieldsOk then s.rejectPacket q p 0x41 1
      else if !mine p.type then s
      else if p.type = 6 && !s.qPriv q then s.rejectPacket q p 0x41 8
      else s.checkSignals x (fun t va aux => t.rejectPacket q { p with mute := va = p.word 1 } 0x41 aux) (k s p) p.signals
    match s.asidFault q with
    | some aux =>
      if s.qAborted q then start s p0 else if s.mayStart q n true then s.rejectPacket q p0 0x41 aux else s
    | none =>
      match s.engineSpot x (s.slotVa q n) 64 true false with
      | .wait t => t
      | .bad t _ _ =>
        if t.qAborted q then start t p0 else if t.mayStart q n true then t.rejectPacket q p0 0x41 7 else t
      | .got e =>
        let (s, bs) := s.spaceRead x e (s.slotVa q n) 64
        start s { p0 with words := (List.range 8).map fun i => BitVec.ofNat 64 (field bs (8 * i) 8) }

/-- The packet starts, and has come to its end with a status. -/
def State.ranPacket (s : State) (q : Nat) (p : Packet) (status aux : Nat) : State :=
  s.addPacket q { p with started := some s.tick, ended := some (status, aux) }

/-! ## NOP, COPY, SIGNAL (R353, R354) -/

/-- NOP_PACKET (R353). -/
def execNopPacket (queue : Nat) (s : State) : Host.Outcome State Fault Refusal :=
  .next (s.withPacket queue (· == 0) fun s p => s.ranPacket queue p 0 0)

/-- COPY_PACKET (R353): the copy is handed to the engine's copy channel. -/
def execCopyPacket (queue : Nat) (s : State) : Host.Outcome State Fault Refusal :=
  .next <| s.withPacket queue (· == 2) fun s p =>
    let x := s.queueSpace queue
    let va := p.word 2
    if va % 64 ≠ 0 then s.rejectPacket queue p 0x41 1
    else s.loadTable x va (fun t => t.rejectPacket queue p 0x41 7) (fun s bs =>
      let c := copyDescOf bs.flatten
      if !c.ok none then s.rejectPacket queue p 0x41 1
      else
        let j := c.job s.nextId (.queue queue p.seq) x 0 (s.qHarvest queue) none
        let s1 := s.addPacket queue { p with started := some s.tick }
        { s1 with copies := s1.copies ++ [j], nextId := s1.nextId + 1 }.own j) 4 []

/-- SIGNAL_PACKET (R354). -/
def execSignalPacket (queue : Nat) (s : State) : Host.Outcome State Fault Refusal :=
  .next <| s.withPacket queue (· == 4) fun s p =>
    let v := BitVec.ofNat 64 (p.word 3)
    let new (x : Word64) : Word64 := if bits (p.word 0) 9 9 = 1 then v else x + v
    s.signalWrite (s.queueSpace queue) (p.word 2) new (fun t => t.rejectPacket queue p 0x41 7) fun s =>
      s.ranPacket queue p 0 0

/-! ## LAUNCH (R350 to R352, R386, R387) -/

/-- The launch's context, as its packet, its header and its ASID give it. -/
def State.newContext (s : State) (q : Nat) (p : Packet) (x : Header) : Context :=
  let e := s.readAsid (s.qAsid q)
  let k := x.kernel
  { id := s.nextId, queue := q, seq := p.seq, level := p.level, parent := s.packetParent q p.seq,
    priority := s.qPriority q, asid := s.qAsid q, hedge := s.qHedge q, harvest := s.qHarvest q,
    mask := BitVec.ofNat 9 e.mask, root := e.root, key := e.key, codeKey := e.codeKey, session := e.session,
    entry := BitVec.ofNat 64 k.entry, arg := BitVec.ofNat 64 (p.word 3), trapArea := BitVec.ofNat 64 (p.word 6),
    privBase := x.ext.privBase, privLimit := x.ext.privLimit, saveArea := BitVec.ofNat 64 x.ext.saveArea,
    baleArea := BitVec.ofNat 64 x.ext.baleArea, shapeReg := BitVec.ofNat 64 x.ext.shapeReg, npad := x.grid.npad,
    ngang := x.grid.gangs, nslice := x.grid.slices, padW := k.padW, padH := k.padH, widths := k.widths,
    padsel := BitVec.ofNat 64 x.ext.padsel, shapes := x.shapes.map (BitVec.ofNat 64), vpro := k.vpro, vfull := k.vfull,
    tiles := k.tiles, cim := k.cim, scr := k.scr, bucket := x.bucket, live := true, regions := (s.getQueue q).regions }

/-- A hedge becomes live with its first context: its cores wake (R386, R399). -/
def State.activate (s : State) (h : Hedge) : State :=
  if (s.hedge? h.n).isSome then s
  else h.coreList.foldl (fun s c => s.updCore c fun k => { k with gated := 0 }) { s with hedges := s.hedges ++ [h] }

/-- LAUNCH_PACKET (R352): the header is checked, a bucket chosen, and the launch's paddocks offered for placement. -/
def execLaunchPacket (queue : Nat) (s : State) : Host.Outcome State Fault Refusal :=
  .next <| s.withPacket queue (· == 1) fun s p =>
    let n := s.qHedge queue
    let h := (s.hedge? n).getD (s.readHedge n)
    if 48 ≤ n || ((s.hedge? n).isNone && !s.hedgeOk h) then s.rejectPacket queue p 0x41 1
    else if h.cores = 0 then s.rejectPacket queue p 0x41 6
    else s.readHeader queue p.words (fun t e => match e with
      | .reject aux => t.rejectPacket queue p 0x41 aux
      | .noBucket => t.rejectPacket queue p 0x43 0) fun s x =>
        match s.headerFault h (s.qHarvest queue) x.kernel x.grid with
        | some aux => s.rejectPacket queue p 0x41 aux
        | none =>
          let c := s.newContext queue p x
          let s1 := (s.activate h).addPacket queue { p with context := some c.id, bucket := x.bucket }
          { s1 with ctxs := s1.ctxs ++ [c], nextId := s1.nextId + 1 }

/-! ## BARRIER (R355, R356, R359) -/

/-- The region list: sixteen-byte entries up to one of length 0, at most 32 of them. -/
def State.regionList (s : State) (x : Space) (bad : State → Nat → State) (k : State → List (Nat × Nat) → State) :
    Nat → Nat → List (Nat × Nat) → State
  | 0, _, _ => bad s 1
  | n + 1, va, acc =>
    s.engineLoad x va 8 (fun t => bad t 7) fun s a => s.engineLoad x (va + 8) 8 (fun t => bad t 7) fun s b =>
      if leNat b = 0 then k s acc else s.regionList x bad k n (va + 16) (acc ++ [(leNat a, leNat b)])

/-- Read every named signal with acquire. -/
def State.readSignals (s : State) (x : Space) (bad : State → Nat → State) (k : State → List (Word64 × Bool) → State) :
    List Nat → List (Word64 × Bool) → State
  | [], acc => k s acc
  | va :: rest, acc =>
    match s.signalSpot x va false with
    | .got e =>
      let (t, v) := s.spaceRead x e va 8
      t.readSignals x bad k rest (acc ++ [(BitVec.ofNat 64 (leNat v), e.mt != 0)])
    | .wait t => t
    | .bad t _ aux => bad t aux

/-- A barrier's edge (R261, R359): its regions are cleaned in the cores that ran earlier packets of the queue, and later
launches discard them. -/
def State.barrierEdge (s : State) (q : Nat) (x : Space) (regions : List (Nat × Nat)) : State :=
  let y := s.getQueue q
  let s1 := regions.foldl (fun s r =>
    let fs := s.framesIn x.root x.asid r.1 r.2
    s.cleanLines y.ran (distinct (y.ran.map coreSector)) false fun l => onRange fs r.1 r.2 (128 * l) 128) s
  s1.setQueue { s1.getQueue q with regions := regions }

/-- Evaluate the waiting barrier of a queue: it fails, is satisfied, or keeps waiting (R355). -/
def State.evaluate (s : State) (q : Nat) (p : Packet) : State :=
  let x := s.queueSpace q
  s.readSignals x (fun t aux => t.endPacket q p.seq 0x41 aux) (fun s vs =>
    match vs.find? fun v => v.1.msb with
    | some (v, _) =>
      let y := s.getQueue q
      let fail (p : Packet) : Packet := { p with ended := some (0x42, 0), abortv := v }
      (s.setQueue { y with packets := updWhere (fun z => z.seq == p.seq) fail y.packets }).abortQueue q v
    | none => if vs.all (fun v => v.1 == 0) then (s.barrierEdge q x p.regions).endPacket q p.seq 0 0 else s)
    p.watched []

/-- The barrier that a queue waits on. -/
def State.waitingBarrier (s : State) (q : Nat) : Option Packet :=
  (s.getQueue q).packets.find? fun p => p.type == 3 && p.started.isSome && p.ended.isNone

/-- BARRIER_PACKET (R355): a BARRIER starts and evaluates its signals once. -/
def execBarrierPacket (queue : Nat) (s : State) : Host.Outcome State Fault Refusal :=
  .next <| s.withPacket queue (· == 3) fun s p =>
    let go (s : State) (rs : List (Nat × Nat)) : State :=
      let p1 := { p with started := some s.tick, regions := rs }
      (s.addPacket queue p1).evaluate queue p1
    if p.word 7 = 0 then go s []
    else if p.word 7 % 8 ≠ 0 then s.rejectPacket queue p 0x41 1
    else s.regionList (s.queueSpace queue) (fun t aux => t.rejectPacket queue p 0x41 aux) go 33 (p.word 7) []

/-- BARRIER_EVALUATE (R355): a write to a watched signal has reached the barrier. -/
def execBarrierEvaluate (queue : Nat) (s : State) : Host.Outcome State Fault Refusal :=
  let s := s.judge queue
  .next <| match s.waitingBarrier queue with
  | some p => s.evaluate queue p
  | none => s

/-- BARRIER_POLL (R355): signals in host or peer memory are read again every 1 µs. -/
def execBarrierPoll (queue : Nat) (s : State) : Host.Outcome State Fault Refusal :=
  let s := s.judge queue
  .next <| match s.waitingBarrier queue with
  | none => s
  | some p =>
    s.readSignals (s.queueSpace queue) (fun t aux => t.endPacket queue p.seq 0x41 aux)
      (fun s vs => if vs.any (·.2) then s.evaluate queue p else s) p.watched []

/-! ## TLBINV (R230, R235) -/

/-- Does an entry of an ASID translate bytes of the range? -/
def Span.inRange (x : Span) (asid start len : Nat) : Bool := x.1 == asid && overlaps x.2.1 x.2.2 start len
def TlbEntry.inRange (e : TlbEntry) (asid start len : Nat) : Bool := Span.inRange e.span asid start len

/-- The frame of a translation. -/
def TlbEntry.frame (e : TlbEntry) : Nat × Nat := (e.phys (4096 * e.page), 2 ^ e.lg)

/-- The frames of the range's leaves that are being migrated. -/
def State.migrating (s : State) (root asid start len : Nat) : List (Nat × Nat) :=
  ((s.leavesOf root asid start len).filter (·.2)).map fun x => x.1.frame

/-- Does an access touch one of the frames? -/
def onFrames (fs : List (Nat × Nat)) (a n : Nat) : Bool := fs.any fun f => overlaps f.1 f.2 a n

/-- The part's write set holds bytes whose stores were translated in a range. -/
def Part.wroteIn (asid start len : Nat) (p : Part) : Bool :=
  p.levels.any fun l => l.writes.any fun b => b.spans.any fun x => Span.inRange x asid start len

/-- A copy's element waits for the driver to serve a page (R159). -/
def State.copyWaits (s : State) (j : CopyJob) : Bool := s.engineWaits.any fun w => w.who == .copy j.id

/-- Accesses that were translated in a range have all been accepted (R230), those that the holder of the serial token has
buffered too, unless migration ends its attempt (R276). A copy has finished the lines that it owns on migrating frames
(R235); one that itself waits for a page cannot, and stalls (R159). -/
def State.drained (s : State) (asid start len : Nat) (moving : List (Nat × Nat)) : Bool :=
  let mine (xs : List Span) : Bool := xs.any fun x => Span.inRange x asid start len
  s.allParts.all (fun p => p.pending.all (fun r => !mine r.spans) &&
    !(moving.isEmpty && p.serial && p.wroteIn asid start len)) &&
  s.misses.all (fun m => m.waiters.all fun r => !mine r.spans) && s.ingress.all (fun r => !mine r.spans) &&
  s.allGangs.all (fun g => g.stores.all fun r => !mine r.spans) &&
  s.copies.all (fun j => s.copyWaits j || !s.owned.any fun o => o.1 == j.id && onFrames moving (128 * o.2) 128) &&
  s.allCores.all fun k => (k.matq ++ k.running.toList).all fun o => match o.kind with
    | .tld _ _ _ _ _ cs | .tst _ _ _ _ _ _ _ _ cs => !cs.any fun c => mine c.spans
    | _ => true

/-- A part whose transaction holds a line of a migrating page aborts with the conflict code, and a sleeper that watches one
wakes (R235). -/
def Part.migrate (fs : List (Nat × Nat)) (p : Part) : Part :=
  let hit (l : Nat) : Bool := onFrames fs (128 * l) 128
  match p.state, p.sleep with
  | .asleep, some x => if x.lines.any (fun r => hit r.line) then p.wake else p
  | _, _ => if p.readLines.any (fun r => hit r.line) || p.writeLines.any hit then { p with doomed := true } else p

/-- A part whose write set was translated under an old entry aborts: its commit would write the old frame. DEDUCED (log 48):
R230 lets no such access be accepted later. -/
def Part.retranslate (asid start len : Nat) (p : Part) : Part :=
  if p.wroteIn asid start len then { p with doomed := true } else p

/-- A cached table for the range of an ASID. -/
def WalkEntry.inRange (e : WalkEntry) (asid start len : Nat) : Bool :=
  let size := 2 ^ (12 + 9 * e.level)
  e.asid == asid && overlaps (e.range * size) size start len

/-- The range's translations go from every TLB and walk cache. -/
def State.dropEntries (s : State) (asid start len : Nat) : State :=
  let keep (e : TlbEntry) : Bool := !e.inRange asid start len
  let s1 := (s.allCores.map fun k => k.id - 1).foldl (fun s c => s.updCore c fun k =>
    { k with tlb := k.tlb.filter keep, qtlb := k.qtlb.filter fun e => keep e.2 }) s
  { s1 with walkCache := s1.walkCache.filter fun e => !e.inRange asid start len
            walkFaults := s1.walkFaults.filter fun f => !(f.asid == asid && overlaps (4096 * f.page) 4096 start len) }

/-- TLBINV (R230): the range's entries go, once every access translated under them has been accepted. -/
def execTlbinv (queue : Nat) (s : State) : Host.Outcome State Fault Refusal :=
  .next <| s.withPacket queue (· == 6) fun s p =>
    let asid := p.word 2; let start := p.word 3; let len := p.word 4
    let root := (s.readAsid asid).root
    let moving := s.migrating root asid start len
    if !s.drained asid start len moving then s
    else
      let s1 := (s.dropEntries asid start len).updParts (fun p => p.state != .exited) (Part.retranslate asid start len)
      let s2 := if moving.isEmpty then s1 else s1.updParts (fun p => p.state != .exited) (Part.migrate moving)
      let ids := s.copies.map (·.id)
      let s3 : State := { s2 with
        owned := s2.owned.filter fun o => !(ids.contains o.1 && onFrames moving (128 * o.2) 128) }
      s3.ranPacket queue p 0 0

/-! ## Completion (R353, R354, R358) -/

/-- A completion record (R358). -/
def State.completionRecord (s : State) (p : Packet) (status aux : Nat) : List Byte :=
  let r := match p.context with | some c => (s.getCtx c).report | none => none
  leBytes 8 p.seq ++ leBytes 1 p.type ++ leBytes 1 status ++ leBytes 1 aux ++ leBytes 1 p.level ++
  leBytes 4 (p.bucket.getD 0xFFFFFFFF) ++ leBytes 8 (if p.skipped then 0 else Config.elapsed s.tick) ++
  leBytes 8 (if status = 0x42 then p.abortv.toNat else 0) ++ leBytes 8 ((r.map fun r => r.pc.toNat).getD 0) ++
  leBytes 8 ((r.map fun r => r.slot.toNat).getD 0) ++ leBytes 16 0

/-- Write 64 bytes for a queue where they can be written (log 21). -/
def State.queueStore (s : State) (x : Space) (va : Nat) (bs : List Byte) (k : State → State) : State :=
  match s.engineSpot x va bs.length false true with
  | .wait t => t
  | .bad t _ _ => k t
  | .got e => k (s.spaceWrite x e va bs)

/-- The update of a signal at a packet's end (R354); a signal that cannot be reached is not updated (R405). -/
def State.endSignal (s : State) (q : Nat) (p : Packet) (status va : Nat) (k : State → State) : State :=
  if va = 0 then k s
  else
    let v : Word64 := if status = 0x42 then p.abortv else BitVec.ofInt 64 (-(status : Int))
    s.signalWrite (s.queueSpace q) va (fun x => if status = 0 then x - 1 else v) k k

/-- RIDX passes every completed packet in slot order. -/
def State.retire (s : State) (q : Nat) : Nat → State
  | 0 => s
  | n + 1 =>
    let x := s.getQueue q
    let r := s.qRidx q
    if x.packets.any fun p => p.seq == r && p.completed then
      ((s.setQueue { x with packets := x.packets.filter (·.seq != r), levels := x.levels.filter (·.1 != r),
                            parents := x.parents.filter (·.1 != r), floors := x.floors.filter (·.1 != r) }).wr
        (queueAddr s q + 16) 8 (r + 1)).retire q n
    else s

/-- The packet is marked complete, its context goes, and RIDX moves on. -/
def State.closePacket (s : State) (q : Nat) (p : Packet) : State :=
  let x := s.getQueue q
  let done (p : Packet) : Packet := { p with completed := true }
  let s1 := s.setQueue { x with packets := updWhere (fun z => z.seq == p.seq) done x.packets }
  let s2 := match p.context with | some c => s1.forget c | none => s1
  s2.retire q ((s2.getQueue q).packets.length)

/-- What keeps a packet's signal updates waiting, if anything: record and updates come about in one step. -/
def State.signalWait (s : State) (q : Nat) (p : Packet) : Option State :=
  let vas := ([p.endSignal] ++ if p.skipped && p.type = 4 then [p.word 2] else []).filter (· != 0)
  let x := s.queueSpace q
  vas.findSome? fun va => match s.signalSpot x va with
    | .wait t => some t
    | .got _ | .bad .. => none

/-- A packet that has come to its end writes its record, then updates its signals. -/
def State.complete (s : State) (q : Nat) (p : Packet) : State :=
  let (status, aux) := (s.packetEnd p).getD (0, 0)
  let w := s.qCwidx q
  let va := s.qCring q + 64 * (w % s.qCrsize q)
  s.queueStore (s.queueSpace q) va (s.completionRecord p status aux) fun s =>
    let s1 := s.wr (queueAddr s q + 56) 8 (w + 1)
    s1.endSignal q p status p.endSignal fun s =>
      if p.skipped && p.type = 4 then s.endSignal q p status (p.word 2) fun s => s.closePacket q p
      else s.closePacket q p

/-- The first of some packets whose signals can be updated now completes; one that must wait lets later ones go first, since
their order is not promised. -/
def State.completeFirst (s : State) (q : Nat) : List Packet → State
  | [] => s
  | p :: ps => match s.signalWait q p with
    | some t => t.completeFirst q ps
    | none => s.complete q p

/-- Of packets that have come to their end any may complete first (log 37). -/
def anyOrder (n : Nat) (ps : List Packet) : List Packet :=
  if ps.length < 2 then ps else ps.drop (Config.firstComplete n % ps.length) ++ ps.take (Config.firstComplete n % ps.length)

/-- PACKET_COMPLETE (R358): a packet that has come to its end completes; a full completion ring holds it. -/
def execPacketComplete (queue : Nat) (s : State) : Host.Outcome State Fault Refusal :=
  let s := s.judge queue
  .next <| if s.qCwidx queue - s.qCridx queue = s.qCrsize queue then s
  else s.completeFirst queue
    (anyOrder s.tick ((s.getQueue queue).packets.filter fun p => !p.completed && (s.packetEnd p).isSome))

/-! ## Faults of pages (R232, R233) -/

/-- FAULT_NOTIFICATION (R232): a notification is posted to its hedge's fault ring when the ring has room. -/
def execFaultNotification (index : Nat) (s : State) : Host.Outcome State Fault Refusal :=
  .next <| match s.notifications[index]? with
  | none => s
  | some n =>
    let h := s.lastRead n.hedge
    let i := s.rd h.fring 8
    if n.posted || h.fring = 0 || h.frsize ≤ i - s.rd (h.fring + 8) 8 then s
    else
      let a := h.fring + 64 + 16 * (i % h.frsize)
      let bs := leBytes 8 (4096 * n.page) ++ leBytes 2 n.asid ++ leBytes 1 n.aux ++ leBytes 1 n.acc ++
        leBytes 2 (min 0xFFFF n.cores.length) ++
        leBytes 2 0
      let s1 := (s.homeWriteAll (s.keyTag 0) a bs).wr h.fring 8 (i + 1)
      { s1 with notifications := s1.notifications.zipIdx.map fun (x, j) => if j = index then { x with posted := true } else x }

/-- A record with a page answered for faults of some AUX values. -/
def ParkedRec.answer (page : Nat) (auxes : List Nat) (refuse : Bool) (r : ParkedRec) : ParkedRec :=
  let hit (x : Nat × Nat) : Bool := x.1 == page && auxes.contains x.2
  if r.pages.any hit then
    { r with pages := r.pages.filter (fun x => !hit x), refused := if refuse then r.refused ++ [page] else r.refused }
  else r

/-- Parts that wait for the page of their record slot (R206, R209), on the dies that asked for it. -/
def State.slotWaiters (s : State) (asid page : Nat) (dies : List Nat) : List Part :=
  s.allParts.filter fun p =>
    let g := s.getGang p.gang; let w := s.getWg g.workgroup; let c := s.getCtx w.context
    (p.state == .parked .trap || p.ending) && p.trap.isSome && p.inflight.isEmpty && c.asid == asid &&
    dies.contains (coreDie w.core) && (recordSlot c w g p).toNat / 4096 == page

/-- The context of a part whose slot's page the driver refuses ends without the part's record (R206, R209). -/
def State.endRefused (s : State) (p : Part) : State :=
  let t := p.trap.getD { code := 0 }
  (s.updPart p.id fun p => { p with ending := false, trap := none }).endContext (s.ctxOfPart p) t.code t.aux t.pc 0

/-- The driver's answer to posted notifications of a page (R233). -/
def State.answerPage (s : State) (asid page : Nat) (refuse : Bool) (ns : List Notification) : State :=
  let auxes (die : Nat) : List Nat := (ns.filter (·.die == die)).map (·.aux)
  let hit (die aux : Nat) : Bool := (auxes die).contains aux
  let s1 := ns.foldl (fun s n =>
    let on := (s.allParts.filter fun p => (s.getCtx (s.ctxOfPart p)).asid == asid && coreDie (s.coreOfPart p) == n.die).map (·.id)
    s.updParts (fun p => on.contains p.id) fun p => { p with parked := p.parked.map (ParkedRec.answer page [n.aux] refuse) }) s
  let mine (w : EngineWait) : Bool := w.asid == asid && w.page == page && hit w.die w.aux
  let s2 := { s1 with
    notifications := s1.notifications.filter fun n => !ns.contains n
    walkFaults := s1.walkFaults.filter fun f => !(f.asid == asid && f.page == page && hit (coreDie f.core) f.aux)
    engineWaits := s1.engineWaits.filter fun w => !mine w
    refusals := if refuse then s1.refusals ++ s1.engineWaits.filter mine else s1.refusals }
  if refuse then (s.slotWaiters asid page (ns.map (·.die))).foldl State.endRefused s2 else s2.ownServed

/-- FAULT_RESPONSE (R233): the next entry of a hedge's response ring is read by both dies. -/
def execFaultResponse (hedge : Nat) (s : State) : Host.Outcome State Fault Refusal :=
  let h := s.lastRead hedge
  let i := s.rd h.fresp 8
  .next <| if h.fresp = 0 || s.rd (h.fresp + 8) 8 ≤ i then s
  else
    let (s0, bs) := s.engineAcquire (s.keyTag 0) (h.fresp + 64 + 16 * (i % h.frrsize)) 16
    let page := bits (field bs 0 8) 56 12
    let asid := field bs 8 2
    let ruling := field bs 10 1
    let s1 := s0.wr h.fresp 8 (i + 1)
    let ns := s1.notifications.filter fun n => n.asid == asid && n.page == page && n.posted && n.hedge == hedge
    if 1 < ruling || field bs 11 5 ≠ 0 || ns.isEmpty then s1 else s1.answerPage asid page (ruling == 1) ns

/-- DOORBELL_WRITE (R348): a write from outside reaches a doorbell aperture. -/
def execDoorbellWrite (address : Nat) (data : List Byte) (s : State) : Host.Outcome State Fault Refusal :=
  .next (if isDoorbell address then s.doorbell address data else s)

end Sys2Proof.Machine
end

