-- ==== Sys2Proof/Machine/Fabric.lean ====
section
/-! DEFINITION. The fabric, seen from this device as exporter and as the owner of its ports (22_fabric_host.md, R371 to
R379). -/

namespace Sys2Proof.Machine

/-! ## Requests that arrive (R371, R373, R379) -/

/-- The plane of a request's line: bits 9:7 of its address (R372). -/
def requestPlane (r : PeerReq) : Nat := bits r.offset 9 7

/-- A request as a packet can carry it: within one line, naturally aligned for an atomic, with its data (R373, R379). -/
def requestOk (r : PeerReq) : Bool :=
  r.device < 1024 && r.plane < 8 && r.asid < 8192 && r.offset < 2 ^ 54 && 1 ≤ r.size && r.offset % 128 + r.size ≤ 128 &&
  match r.op with
  | .read => true
  | .write => r.data.length == r.size
  | .atomic mop _ =>
    (r.size == 4 || r.size == 8) && r.offset % r.size == 0 && r.data.length == r.size &&
    (mop != 7 || r.data2.length == r.size) && mop.toNat ≤ 12 && (mop.toNat ≤ 7 || r.size == 4)
  | .close p => p < 8

def requestReads (r : PeerReq) : Bool := match r.op with | .read | .atomic .. => true | _ => false
def requestWrites (r : PeerReq) : Bool := match r.op with | .write | .atomic .. => true | _ => false

def State.send (s : State) (r : Reply) : State := { s with outbox := s.outbox ++ [r] }

/-- A response returns on the plane of its request, in the critical class on both planes that live (R372, R378). -/
def State.answerPlanes (s : State) (r : PeerReq) (critical : Bool) : List Nat :=
  if critical then sendPlanes s.dead r.device r.offset true else [r.plane]

def State.answer (s : State) (r : PeerReq) (critical : Bool) (f : Nat → Reply) : State :=
  (s.answerPlanes r critical).foldl (fun s p => s.send (f p)) s

/-- What has become of a request offered to its window. -/
inductive Served
  | done (s : State)
  /-- A page fault: the page's hedge, ASID, page and AUX. -/
  | page (hedge asid page aux : Nat)
  /-- The line is held or owned (R256, R276), or an earlier request of the device for it waits. -/
  | wait (s : State)

/-- One operation of a port's atomic unit, indivisible at the line's home (R379). -/
def State.portAtomic (s : State) (key a size : Nat) (f : Nat → Nat) : State × Nat :=
  let s1 := (s.promote (a / 128)).recallBut none (a / 128)
  let old := leNat (s1.homeRead key a size)
  (s1.engineWrite key a (leBytes size (f old)), old)

/-- A request has been applied: it counts on its plane (R376). -/
def State.count (s : State) (r : PeerReq) : State := { s with applied := countUp s.applied r.device r.plane }

/-- Perform a request at its home, under a hold of its line (R242, R252, R379, R382). -/
def State.servePeer (s : State) (r : PeerReq) (critical : Bool) (x : Spot) : State :=
  let read (s : State) : State × List Byte := let t := s.promote (x.ua / 128); (t, t.homeRead x.key x.ua r.size)
  let s := s.count r
  if (requestReads r) && s.isPoisoned x.ua r.size then s.answer r critical fun p => .peerFault r.device p r.harvest 0x0B 0
  else match r.op with
    | .read => let (t, bs) := read s; t.answer r critical fun p => .peer r.device p r.harvest bs
    | .write => (s.engineWrite x.key x.ua r.data).answer r critical fun p => .peer r.device p r.harvest []
    | .close _ => s
    | .atomic mop u =>
      let (t, old) := s.portAtomic x.key x.ua r.size fun v =>
        atomNew mop.toNat (8 * r.size) u v (leNat r.data) (leNat r.data2)
      t.answer r critical fun p => .peer r.device p r.harvest (leBytes r.size old)

/-- Who waits when a request meets a page fault: requests for one line wait together. -/
def requestAsker (r : PeerReq) : Asker := .peer r.device r.asid (r.offset / 128)

/-- Offer a request to its window (R371). A page that the driver has refused gives PROT with AUX 0x09. -/
def State.offerPeer (s : State) (r : PeerReq) (critical : Bool) : Served :=
  let fail (s : State) (c a : Nat) : Served := .done ((s.count r).answer r critical fun p => .peerFault r.device p r.harvest c a)
  match s.exportPlace (requestAsker r) r.device r.asid r.offset (requestReads r) (requestWrites r) with
  | .fault c a => fail { s with refusals := s.refusals.filter (·.who != requestAsker r) } c a
  | .spot x =>
    let s1 := if (requestWrites r) then s.yieldAt r.harvest x.ua r.size else s
    if s1.homeHeld 0 x.ua r.size (requestWrites r) then .wait s1 else .done (s1.servePeer r critical x)
  | _ =>
    match s.exportMiss r.device r.asid r.offset with
    | none => .wait s
    | some (h, asid, page, aux) =>
      .page h asid page aux

/-- Requests for one line keep their order (R372): does an earlier request of the device wait for the line? -/
def State.lineQueued (fs : List FabricReq) (r : PeerReq) : Bool :=
  fs.any fun f => f.req.device == r.device && f.req.asid == r.asid && f.req.offset / 128 == r.offset / 128

/-- A request that stalls asks the exporter's driver for its page, and a stall notice goes out for it (R371). The
notification is of the die of the request's port. -/
def State.stallPeer (s : State) (r : PeerReq) (critical : Bool) (hedge asid page aux : Nat) : State :=
  let acc := (requestReads r).toNat + 2 * (requestWrites r).toNat
  (s.notifyEngine (requestAsker r) hedge (requestPlane r / 4) asid page aux acc).answer r critical fun p => .stall r.device p r.harvest

/-- A peer closes a plane: later arrivals on it are dropped, and the peer learns how many were applied (R376). A query that
travels a plane closed before says that that plane lives again, and what had moved from it moves back. -/
def State.closePlane (s : State) (r : PeerReq) (plane : Nat) : State :=
  let shut := if s.closed.contains (r.device, r.plane) then s.closed.filter (· != (r.device, r.plane))
    else s.closed ++ [(r.device, plane)]
  ({ s with closed := shut } : State).send (.closed r.device plane r.plane (SMap.get 0 s.applied (8 * r.device + plane)))

/-- A request comes on its line's plane while that is open, and on another once it is closed (R372, R376). -/
def State.dropped (s : State) (r : PeerReq) : Bool :=
  s.closed.contains (r.device, requestPlane r) == (r.plane == requestPlane r)

/-- An H request waits where a G request that nothing keeps back waits at its port (R325, R374). -/
def State.portFirst (s : State) (r : PeerReq) : Bool :=
  r.harvest && s.fabric.zipIdx.any fun (f, i) => !f.req.harvest && f.req.plane == r.plane &&
    !State.lineQueued (s.fabric.take i) f.req &&
    match s.offerPeer f.req f.critical with | .done _ => true | _ => false

/-- Receive a request. One that waits behind another of its line stalls as well where its page faults. -/
def State.receivePeer (s : State) (r : PeerReq) (critical : Bool) : State :=
  let wait (s : State) (n : Nat) : State := { s with fabric := s.fabric ++ [{ req := r, critical := critical, notices := n }] }
  match r.op with
  | .close p => if requestOk r then s.closePlane r p else s
  | _ =>
    if !requestOk r || (!critical && s.dropped r) then s
    else match s.offerPeer r critical with
      | .page h asid page aux => wait (s.stallPeer r critical h asid page aux) 1
      | .done t => if State.lineQueued s.fabric r || s.portFirst r then wait s 0 else t
      | .wait t => wait (if State.lineQueued s.fabric r then s else t) 0

/-! ## The critical class (R378) -/

/-- Apply critical requests of a device that have waited for their turn, while none before them stalls. -/
def State.criticalNext (s : State) (device : Nat) : Nat → State
  | 0 => s
  | n + 1 =>
    let seq := SMap.get 0 s.critical device
    if s.fabric.any fun f => f.critical && f.req.device == device then s
    else match s.criticalHeld.find? fun h => h.2.device == device && h.1 == seq with
      | none => s
      | some (_, r) =>
        ({ s with
            criticalHeld := s.criticalHeld.filter fun h => !(h.2.device == device && h.1 == seq)
            critical := SMap.put 0 s.critical device ((seq + 1) % 2 ^ 32) }.receivePeer r true).criticalNext device n

/-- CRITICAL_REQUEST (R378): the first copy of a request is kept until its turn, and a later copy dropped. Numbers less
than 1,024 ahead are new, as at most 1,024 are outstanding. -/
def execCriticalRequest (plane sequence : Nat) (r : PeerReq) (s : State) : Host.Outcome State Fault Refusal :=
  let ahead := (sequence + 2 ^ 32 - SMap.get 0 s.critical r.device) % 2 ^ 32
  .next <| if 8 ≤ plane || !(requestOk r) || 2 ^ 32 ≤ sequence || 1024 ≤ ahead ||
      s.criticalHeld.any (fun h => h.1 == sequence && h.2.device == r.device) then s
    else ({ s with criticalHeld := s.criticalHeld ++ [(sequence, r)] } : State).criticalNext r.device
      (s.criticalHeld.length + 1)

/-- FABRIC_REQUEST (R371). -/
def execFabricRequest (r : PeerReq) (s : State) : Host.Outcome State Fault Refusal := .next (s.receivePeer r false)

/-- STALL_NOTICE (R371): a waiting request is looked at again, and either answered or noticed once more. -/
def execStallNotice (index : Nat) (s : State) : Host.Outcome State Fault Refusal :=
  .next <| match s.fabric[index]? with
  | none => s
  | some f =>
    let again (s : State) : State :=
      { s with fabric := s.fabric.zipIdx.map fun (x, i) => if i = index then { x with notices := x.notices + 1 } else x }
    let behind := State.lineQueued (s.fabric.take index) f.req || s.portFirst f.req
    match s.offerPeer f.req f.critical with
    | .done t =>
      if behind then s
      else (({ t with fabric := dropAt t.fabric index } : State).criticalNext f.req.device t.criticalHeld.length)
    | .page h asid page aux => again (s.stallPeer f.req f.critical h asid page aux)
    | .wait t => if behind then s else t

/-! ## Ports and planes (R375, R376) -/

def State.updPort (s : State) (p : Nat) (f : Port → Port) : State :=
  { s with ports := s.ports.setIfInBounds p (f (s.ports.getD p {})) }

/-- FLIT_CRC_FAIL (R375): the sender replays the packet; nothing is applied twice or in part. -/
def execFlitCrcFail (port : Nat) (s : State) : Host.Outcome State Fault Refusal :=
  .next (s.updPort port fun p => { p with replays := p.replays + 1 })

/-- LINK_RETRAIN (R375): a port runs at 8, 4 or 2 lanes, and is up when it has trained. -/
def execLinkRetrain (port lanes : Nat) (s : State) : Host.Outcome State Fault Refusal :=
  .next (if lanes = 8 || lanes = 4 || lanes = 2
    then s.updPort port fun p => { p with lanes := lanes, up := true, retrains := p.retrains + 1 } else s)

/-- LINK_DOWN (R376). -/
def execLinkDown (port : Nat) (s : State) : Host.Outcome State Fault Refusal :=
  .next (s.updPort port fun p => { p with up := false })

/-- The remap plane: the lowest plane above p, modulo 8, that is live to the peer. -/
def remapPlane (ds : List DeadPlane) (peer plane : Nat) : Option Nat :=
  ((List.range 7).map fun i => (plane + 1 + i) % 8).find? (planeLive ds peer)

/-- Every dead plane of a peer has a live plane to carry its traffic, if one stands. -/
def remapAll (ds : List DeadPlane) (peer : Nat) : List DeadPlane :=
  ds.map fun d =>
    if d.peer = peer && !((d.remap.map (planeLive ds peer)).getD false) then { d with remap := remapPlane ds peer d.plane } else d

/-- The requests of this device that have left for a peer, travel one plane alone, and are of lines that `mine` marks by
their plane. -/
def State.onPlane (s : State) (peer plane : Nat) (mine : Nat → Bool) : List Req :=
  s.allParts.flatMap fun p => (p.pending.zipIdx.filter fun (r, i) =>
    isPeer r.addr && (r.addr - 2 ^ 80) / 2 ^ 67 == peer && sendPlanes s.dead peer (r.addr % 2 ^ 54) r.critical == [plane] &&
      mine (r.addr % 2 ^ 54 / 128 % 8) && p.mayGo i r).map (·.1)

/-- The peer has applied an atomic whose response is lost: the location has its new value, and the lane takes PEER_GONE
with AUX 0x03 (R376, R377). -/
def State.loseAnswer (s : State) (r : Req) : State :=
  match r.kind with
  | .atomic mop u _ _ =>
    let p := s.getPart r.part
    let s1 := (s.atomicAt r.alloc (s.coreOfPart p) r.key r.addr r.size fun v => atomNew mop (8 * r.size) u v r.data r.data2).1
    (s1.loseAccess r 10 3).doneReq r
  | _ => s

/-- Traffic moves from one plane to another: the close query goes out on the new one. Of the outstanding requests an atomic
that the peer had applied is lost to its lane (log 7), and every other one is performed later, from the new plane. -/
def State.moveTraffic (s : State) (peer plane : Nat) (fresh : Option Nat) (rs : List Req) (dead : List DeadPlane) : State :=
  let s1 := (rs.filter fun r => r.isAtomic && Config.atomicApplied s.tick r.id).foldl State.loseAnswer s
  let s2 : State := { s1 with dead := dead }
  match fresh with
  | some q => s2.send (.close peer plane q)
  | none => s2

/-- The plane that carries the traffic of a dead plane. -/
def remapOf (ds : List DeadPlane) (peer plane : Nat) : Option Nat :=
  (ds.find? fun d => d.peer == peer && d.plane == plane).bind (·.remap)

/-- PLANE_DEAD (R376): the plane's traffic moves to the remap plane. -/
def execPlaneDead (peer plane : Nat) (s : State) : Host.Outcome State Fault Refusal :=
  let ds := remapAll (s.dead ++ [{ peer := peer, plane := plane, remap := none }]) peer
  .next (if plane < 8 && peer < 1024 && planeLive s.dead peer plane
    then s.moveTraffic peer plane (remapOf ds peer plane) (s.onPlane peer plane fun _ => true) ds else s)

/-- PLANE_RESTORE (R376): the same steps with the planes exchanged, for the lines of the plane that lives again. -/
def execPlaneRestore (peer plane : Nat) (s : State) : Host.Outcome State Fault Refusal :=
  let ds := remapAll (s.dead.filter fun d => !(d.peer == peer && d.plane == plane)) peer
  .next <| if planeLive s.dead peer plane then s
  else match remapOf s.dead peer plane with
    | some q => s.moveTraffic peer q (some plane) (s.onPlane peer q (· == plane)) ds
    | none => { s with dead := ds }

end Sys2Proof.Machine
end

