-- ==== Sys2Proof/Machine/Gang.lean ====
section
/-! DEFINITION. Gang arithmetic (03_control.md, R63 to R67). -/

namespace Sys2Proof.Machine

/-- A gang instruction reads its sources and writes gD as one step (R67). -/
def gangOp (i : Instr) (d : Field) (x : State → Word64) (s : State) : Host.Outcome State Fault Refusal :=
  checked i s fun s => (s.setG d.toNat (x s)).advance

/-- The sources of a G word, and the immediate of a GI word (R63). -/
def srcG (o : FG) (f : Word64 → Word64 → Word64) (s : State) : Word64 := f (s.rg o.a.toNat) (s.rg o.b.toNat)
def srcGI (o : FGI) (f : Word64 → Word64 → Word64) (s : State) : Word64 := f (s.rg o.a.toNat) (o.imm.signExtend 64)

/-- The .u bit (R63). -/
def uG (o : FG) : Bool := o.sub.getLsbD 0
def uGI (o : FGI) : Bool := o.sub.getLsbD 0

/-- Bits 127:64 of the product (R63). -/
def mulHigh (u : Bool) (a b : Word64) : Word64 :=
  if u then BitVec.ofNat 64 (a.toNat * b.toNat / 2 ^ 64) else BitVec.ofInt 64 (a.toInt * b.toInt / 2 ^ 64)

/-- GDIV with its borderline cases (R63, R65). -/
def gangDiv (u : Bool) (a b : Word64) : Word64 :=
  if b = 0 then BitVec.allOnes 64 else if u then a / b else a.sdiv b

/-- GREM with its borderline cases (R63, R65). -/
def gangRem (u : Bool) (a b : Word64) : Word64 := if b = 0 then a else if u then a % b else a.srem b

/-- The smaller and the larger (R63). -/
def gangMin (u : Bool) (a b : Word64) : Word64 := if (if u then b.ult a else b.slt a) then b else a
def gangMax (u : Bool) (a b : Word64) : Word64 := if (if u then a.ult b else a.slt b) then b else a

/-- The shift amount (R64). -/
def shl64 (a b : Word64) : Word64 := a <<< (b.toNat % 64)
def shr64 (a b : Word64) : Word64 := a >>> (b.toNat % 64)
def sar64 (a b : Word64) : Word64 := a.sshiftRight (b.toNat % 64)

/-- The condition codes of GSET (R66). -/
def gangCond (cc : Nat) (a b : Word64) : Bool :=
  match cc with
  | 0 => a == b
  | 1 => a != b
  | 2 => a.slt b
  | 3 => a.sle b
  | 4 => a.ult b
  | 5 => a.ule b
  | 6 => b.slt a
  | 7 => b.sle a
  | 8 => b.ult a
  | _ => b.ule a

/-- GMOVI (R66). -/
def execGmovi (o : FE) (s : State) : Host.Outcome State Fault Refusal :=
  gangOp (.gmovi o) o.d (fun _ => o.imm.signExtend 64) s

/-- GMOVH (R66). -/
def execGmovh (o : FE) (s : State) : Host.Outcome State Fault Refusal :=
  gangOp (.gmovh o) o.d (fun s => o.imm.append ((s.rg o.d.toNat).truncate 32)) s

/-- GLEA (R66). -/
def execGlea (o : FG) (s : State) : Host.Outcome State Fault Refusal :=
  gangOp (.glea o) o.d (fun s => s.rg o.a.toNat + (s.rg o.b.toNat <<< o.sub.toNat) + s.rg o.c.toNat) s

/-- GSEL (R66). -/
def execGsel (o : FG) (s : State) : Host.Outcome State Fault Refusal :=
  gangOp (.gsel o) o.d (fun s => if s.rg o.c.toNat ≠ 0 then s.rg o.a.toNat else s.rg o.b.toNat) s

/-- GSET (R66). -/
def execGset (o : FG) (s : State) : Host.Outcome State Fault Refusal :=
  gangOp (.gset o) o.d (srcG o fun a b => if gangCond o.sub.toNat a b then 1 else 0) s

/-- GADD (R63). -/
def execGadd (o : FG) (s : State) : Host.Outcome State Fault Refusal :=
  gangOp (.gadd o) o.d (srcG o (fun a b => a + b)) s

/-- GSUB (R63). -/
def execGsub (o : FG) (s : State) : Host.Outcome State Fault Refusal :=
  gangOp (.gsub o) o.d (srcG o (fun a b => a - b)) s

/-- GMUL (R63). -/
def execGmul (o : FG) (s : State) : Host.Outcome State Fault Refusal :=
  gangOp (.gmul o) o.d (srcG o (fun a b => a * b)) s

/-- GMULH (R63). -/
def execGmulh (o : FG) (s : State) : Host.Outcome State Fault Refusal :=
  gangOp (.gmulh o) o.d (srcG o (mulHigh (uG o))) s

/-- GDIV (R65). -/
def execGdiv (o : FG) (s : State) : Host.Outcome State Fault Refusal :=
  gangOp (.gdiv o) o.d (srcG o (gangDiv (uG o))) s

/-- GREM (R65). -/
def execGrem (o : FG) (s : State) : Host.Outcome State Fault Refusal :=
  gangOp (.grem o) o.d (srcG o (gangRem (uG o))) s

/-- GAND (R63). -/
def execGand (o : FG) (s : State) : Host.Outcome State Fault Refusal :=
  gangOp (.gand o) o.d (srcG o (fun a b => a &&& b)) s

/-- GOR (R63). -/
def execGor (o : FG) (s : State) : Host.Outcome State Fault Refusal :=
  gangOp (.gor o) o.d (srcG o (fun a b => a ||| b)) s

/-- GXOR (R63). -/
def execGxor (o : FG) (s : State) : Host.Outcome State Fault Refusal :=
  gangOp (.gxor o) o.d (srcG o (fun a b => a ^^^ b)) s

/-- GSHL (R64). -/
def execGshl (o : FG) (s : State) : Host.Outcome State Fault Refusal :=
  gangOp (.gshl o) o.d (srcG o shl64) s

/-- GSHR (R64). -/
def execGshr (o : FG) (s : State) : Host.Outcome State Fault Refusal :=
  gangOp (.gshr o) o.d (srcG o shr64) s

/-- GSAR (R64). -/
def execGsar (o : FG) (s : State) : Host.Outcome State Fault Refusal :=
  gangOp (.gsar o) o.d (srcG o sar64) s

/-- GMIN (R63). -/
def execGmin (o : FG) (s : State) : Host.Outcome State Fault Refusal :=
  gangOp (.gmin o) o.d (srcG o (gangMin (uG o))) s

/-- GMAX (R63). -/
def execGmax (o : FG) (s : State) : Host.Outcome State Fault Refusal :=
  gangOp (.gmax o) o.d (srcG o (gangMax (uG o))) s

/-- GADD with an immediate (R63). -/
def execGaddImm (o : FGI) (s : State) : Host.Outcome State Fault Refusal :=
  gangOp (.gaddImm o) o.d (srcGI o (fun a b => a + b)) s

/-- GSUB with an immediate (R63). -/
def execGsubImm (o : FGI) (s : State) : Host.Outcome State Fault Refusal :=
  gangOp (.gsubImm o) o.d (srcGI o (fun a b => a - b)) s

/-- GMUL with an immediate (R63). -/
def execGmulImm (o : FGI) (s : State) : Host.Outcome State Fault Refusal :=
  gangOp (.gmulImm o) o.d (srcGI o (fun a b => a * b)) s

/-- GMULH with an immediate (R63). -/
def execGmulhImm (o : FGI) (s : State) : Host.Outcome State Fault Refusal :=
  gangOp (.gmulhImm o) o.d (srcGI o (mulHigh (uGI o))) s

/-- GDIV with an immediate (R65). -/
def execGdivImm (o : FGI) (s : State) : Host.Outcome State Fault Refusal :=
  gangOp (.gdivImm o) o.d (srcGI o (gangDiv (uGI o))) s

/-- GREM with an immediate (R65). -/
def execGremImm (o : FGI) (s : State) : Host.Outcome State Fault Refusal :=
  gangOp (.gremImm o) o.d (srcGI o (gangRem (uGI o))) s

/-- GAND with an immediate (R63). -/
def execGandImm (o : FGI) (s : State) : Host.Outcome State Fault Refusal :=
  gangOp (.gandImm o) o.d (srcGI o (fun a b => a &&& b)) s

/-- GOR with an immediate (R63). -/
def execGorImm (o : FGI) (s : State) : Host.Outcome State Fault Refusal :=
  gangOp (.gorImm o) o.d (srcGI o (fun a b => a ||| b)) s

/-- GXOR with an immediate (R63). -/
def execGxorImm (o : FGI) (s : State) : Host.Outcome State Fault Refusal :=
  gangOp (.gxorImm o) o.d (srcGI o (fun a b => a ^^^ b)) s

/-- GSHL with an immediate (R64). -/
def execGshlImm (o : FGI) (s : State) : Host.Outcome State Fault Refusal :=
  gangOp (.gshlImm o) o.d (srcGI o shl64) s

/-- GSHR with an immediate (R64). -/
def execGshrImm (o : FGI) (s : State) : Host.Outcome State Fault Refusal :=
  gangOp (.gshrImm o) o.d (srcGI o shr64) s

/-- GSAR with an immediate (R64). -/
def execGsarImm (o : FGI) (s : State) : Host.Outcome State Fault Refusal :=
  gangOp (.gsarImm o) o.d (srcGI o sar64) s

/-- GMIN with an immediate (R63). -/
def execGminImm (o : FGI) (s : State) : Host.Outcome State Fault Refusal :=
  gangOp (.gminImm o) o.d (srcGI o (gangMin (uGI o))) s

/-- GMAX with an immediate (R63). -/
def execGmaxImm (o : FGI) (s : State) : Host.Outcome State Fault Refusal :=
  gangOp (.gmaxImm o) o.d (srcGI o (gangMax (uGI o))) s

end Sys2Proof.Machine
end

