-- ==== Sys2Proof/Machine/HostPort.lean ====
section
/-! DEFINITION. What the host does through its port (22_fabric_host.md, R380 to R382). The host's address is a virtual
address of the connection's ASID; an access that its page table does not allow is refused (log 7). -/

namespace Sys2Proof.Machine

/-- A reliable connection of the host port: as the driver last bound it, or as it bound it before the state tells (R380,
R381, R383, log 7). -/
def State.connection (s : State) (n : Nat) : Connection :=
  (s.connections.find? fun c => c.n == n).getD { n := n, asid := Config.hostAsid n % 8192, rkey := Config.hostRkey n % 2 ^ 32, queue := Config.hostQueue n }

/-- The class and the hedge of a connection: those of its queue, or else of its ASID (R383). An ASID that is not harvest only
is G (log 29). -/
def State.connectionHarvest (s : State) (c : Connection) : Bool :=
  match c.queue with
  | some q => s.qHarvest q
  | none => (s.readAsid c.asid).harvestOnly
def State.connectionHedge (s : State) (c : Connection) : Nat :=
  match c.queue with
  | some q => s.qHedge q
  | none => (s.readAsid c.asid).hedge

/-- List a connection as failed, or as bound again. -/
def State.setConnection (s : State) (n : Nat) (failed : Bool) : State :=
  let c : Connection := { s.connection n with failed := failed }
  { s with connections := s.connections.filter (fun x => x.n != n) ++ [c] }

/-- Where a host's access to one page goes. -/
inductive HostPlace
  | at (s : Spot)
  | refused
  /-- The line is held or owned, or its bank sleeps (R256, R276, R318). -/
  | busy
  deriving DecidableEq, Repr

/-- The place of an access that lies in one page. -/
def State.hostPlace (s : State) (c : Connection) (va n : Nat) (r w : Bool) : HostPlace :=
  let e := s.readAsid c.asid
  match s.translateNow e.root c.asid va with
  | .leaf l =>
    if (r && !l.r) || (w && !l.w) || l.mt ≠ 0 || (r && s.isPoisoned (l.phys va) n) then .refused
    else
      let ua := l.phys va
      if (if w then s.yieldAt (s.connectionHarvest c) ua n else s).homeHeld 0 ua n w then .busy
      else .at { ua := ua, key := s.pageKey e.key e.codeKey l, mt := 0, entry := some l }
  | .fault _ _ => .refused

/-- The places of an access, page by page. -/
def State.hostPlaces (s : State) (c : Connection) (va n : Nat) (r w : Bool) : List (HostPlace × Nat) :=
  (pagePieces va n).map fun p => (s.hostPlace c p.1 p.2 r w, p.2)

/-- Write bytes at consecutive places. -/
def State.hostWrites (s : State) : List (Spot × Nat) → List Byte → State
  | [], _ => s
  | (x, n) :: xs, bs => (s.engineWrite x.key x.ua (bs.take n)).hostWrites xs (bs.drop n)

/-- Read bytes at consecutive places. -/
def State.hostReads (s : State) : List (Spot × Nat) → State × List Byte
  | [] => (s, [])
  | (x, n) :: xs =>
    let (s1, bs) := s.engineAcquire x.key x.ua n
    let (s2, rest) := s1.hostReads xs
    (s2, bs ++ rest)

/-- Perform an operation of the host at its places: a write with release at .sy, a read that acquires at .sy, or an atomic
of the port's unit (R379, R382). -/
def State.hostDo (s : State) (o : HostOp) (xs : List (Spot × Nat)) : State :=
  match o.cas, o.write, xs with
  | some (cas, a, b), _, (x, _) :: _ =>
    let (t, old) := s.portAtomic x.key x.ua 8 fun v => atomNew (if cas then 7 else 0) 64 true v a.toNat b.toNat
    t.send (.rdma o.connection (leBytes 8 old))
  | some _, _, [] => s
  | none, true, _ => (s.hostWrites xs o.data).send (.rdma o.connection [])
  | none, false, _ => let (t, bs) := s.hostReads xs; t.send (.rdma o.connection bs)

def HostOp.reads (o : HostOp) : Bool := !o.write || o.cas.isSome

/-- Offer an operation to its places: refused as a whole, performed, or none while something stands against it there. -/
def State.offerHost (s : State) (o : HostOp) : Option State :=
  let c := s.connection o.connection
  if 2 ^ 57 < o.address + o.length || (o.cas.isSome && o.address % 8 ≠ 0) then some (s.send (.rdmaNak o.connection))
  else
    let ps := s.hostPlaces c o.address o.length o.reads o.write
    if ps.any fun p => p.1 == .refused then some (s.send (.rdmaNak o.connection))
    else if ps.any fun p => p.1 == .busy then none
    else
      let xs := ps.filterMap fun p => match p.1 with | .at x => some (x, p.2) | _ => none
      some ((if o.write then xs.foldl (fun s x => s.yieldAt (s.connectionHarvest c) x.1.ua x.2) s else s).hostDo o xs)

/-- G traffic is served ahead of H (R383): an operation of an H connection waits while one of a G connection, the oldest of
its own, waits that nothing keeps back. -/
def State.hostFirst (s : State) (n : Nat) : Bool :=
  s.connectionHarvest (s.connection n) && ((s.hostQueue.map (·.connection)).eraseDups.any fun m =>
    !s.connectionHarvest (s.connection m) &&
    ((s.hostQueue.find? fun o => o.connection == m).bind s.offerHost).isSome)

/-- The operations of a connection keep their order (R382): the oldest that waits is tried again. -/
def State.hostNext (s : State) (n : Nat) : State :=
  match s.hostQueue.find? fun o => o.connection == n with
  | none => s
  | some o =>
    if s.hostFirst n then s
    else match s.offerHost o with
      | none => s
      | some t => { t with hostQueue := t.hostQueue.erase o }

/-- An operation arrives on one of the 16,384 connections (R380), which the driver has bound again if it had failed (R381).
It waits behind those of its connection that wait. -/
def State.receiveHost (s : State) (o : HostOp) : State :=
  if 16384 ≤ o.connection then s
  else
    let s1 := if (s.connection o.connection).failed then s.setConnection o.connection false else s
    let later : State := { s1 with hostQueue := s1.hostQueue ++ [o] }
    if s1.hostQueue.any (fun x => x.connection == o.connection) || s1.hostFirst o.connection then later else (s1.offerHost o).getD later

/-- HOST_RDMA_WRITE (R382). -/
def execHostRdmaWrite (connection address : Nat) (data : List Byte) (s : State) : Host.Outcome State Fault Refusal :=
  .next (s.receiveHost { connection := connection, address := address, length := data.length, write := true, data := data })

/-- HOST_RDMA_READ (R382). -/
def execHostRdmaRead (connection address length : Nat) (s : State) : Host.Outcome State Fault Refusal :=
  .next (s.receiveHost { connection := connection, address := address, length := length, write := false })

/-- HOST_ATOMIC (R379, R382): FETCH_AND_ADD of `a`, or CMP_AND_SWAP of `a` for `b`, on 64 bits. -/
def execHostAtomic (connection address : Nat) (cas : Bool) (a b : Word64) (s : State) : Host.Outcome State Fault Refusal :=
  .next (s.receiveHost { connection := connection, address := address, length := 8, write := true, cas := some (cas, a, b) })

/-- CONNECTION_FAIL (R381): outstanding and later accesses of the connection's ASID to host memory take PEER_GONE with AUX
0x04. -/
def execConnectionFail (connection : Nat) (s : State) : Host.Outcome State Fault Refusal :=
  .next <| if 16384 ≤ connection then s
  else
    let s1 := s.setConnection connection true
    let asid := (s.connection connection).asid
    let out := s1.allParts.flatMap fun p => p.pending.filter fun r =>
      r.kind != .fence && isHost r.addr && (r.addr - 2 ^ 70) / 2 ^ 52 == asid
    if (s1.hostFault asid).isSome then out.foldl (fun s r => (s.loseAccess r 10 4).doneReq r) s1 else s1

end Sys2Proof.Machine
end

