-- ==== Sys2Proof/Machine/Power.lean ====
section
/-! DEFINITION. Boot, resets, errors, power gating and thermal trip (17_dies_network.md, R318; 23_tenancy.md, R384, R391,
R395 to R400). -/

namespace Sys2Proof.Machine

/-! ## Keys (R389, R391) -/

/-- Lines under a key tag are written back under the key and dropped. -/
def State.dropKeyLines (s : State) (tag : Nat) : State :=
  let lines := s.allCores.flatMap fun k => (k.l1.filter fun x => x.key == tag).map fun x => (k.id - 1, x.line)
  let s1 := lines.foldl (fun s x => s.flushL1 x.1 x.2 true) s
  let s2 := (s1.sectors.filter fun e => e.2.key == tag).foldl (fun s e => s.flushSector e.1 e.2.line true) s1
  let homes := ((s2.resident.filter fun l => (List.range 4).any fun i => SMap.get 0 s2.tags (4 * l.line + i) == tag).map (·.line))
  ({ s2 with resident := s2.resident.filter fun l => !homes.contains l.line } : State).dropWords tag

/-- A live context uses a key index as KEY or CODEKEY. -/
def State.keyInUse (s : State) (k : Nat) : Bool := s.allCtxs.any fun c => c.live && (c.key == k || c.codeKey == k)

/-- Live contexts for which `p` holds end with status KEYLOST (R391, R400). -/
def State.loseContexts (s : State) (p : Context → Bool) : State :=
  ((s.allCtxs.filter fun c => c.live && p c).map (·.id)).foldl (fun s c => s.endContext c 0x47 0 0 0) s

/-- Erase a key index (R391): its contexts end, its lines are written back and dropped, and the key is gone. -/
def State.eraseKey (s : State) (k : Nat) : State :=
  let s1 := (s.loseContexts fun c => c.key == k || c.codeKey == k).dropKeyLines (s.keyTag k)
  let gone (e : KeySlot) : KeySlot := { e with key := none, gen := e.gen + 1 }
  { s1 with mgmt := { s1.mgmt with keys := updWhere (fun e => e.n == k) gone s1.mgmt.keys } }

/-! ## Boot (R384, R395, R396, R400) -/

/-- The image in a firmware slot. -/
def fwImage (f : FwSlot) : List Byte := SMap.getAll 0 f.image 0 f.size

/-- An image that the boot ROM accepts. -/
def imageOk (image : List Byte) (floor : Nat) : Bool :=
  !image.isEmpty && Config.signatureValid image && floor ≤ Config.imageRollback image

/-- The machine as it comes out of a reset (R400), with the memory that `keep` names; flash, fuses and what stands outside
the device remain. -/
def State.restart (s : State) (keep : Nat → Bool) : State :=
  { State.reset with
    agenda := s.agenda, tick := s.tick, nextId := s.nextId, outbox := s.outbox
    mem := s.mem.filter fun e => keep e.1
    tags := s.tags.filter fun e => keep (32 * e.1)
    poisoned := s.poisoned.filter fun x => keep (32 * x)
    connections := s.connections, peers := s.peers, form := s.form, fuse0 := s.fuse0, fuse1 := s.fuse1
    mgmt := { slotA := s.mgmt.slotA, slotB := s.mgmt.slotB, floor := s.mgmt.floor, epoch := s.mgmt.epoch + 1,
              nextSession := s.mgmt.nextSession, loaded := s.mgmt.loaded } }

/-- FUSE of the root block (R384). -/
def State.fuseWord (s : State) : Nat :=
  let col (d : Nat) : Nat := ((s.fuseCols.find? fun c => c.1 == d).map (·.2)).getD 0xF
  let slice (d i : Nat) : Nat := (((s.fuseSlices.filter fun c => c.1 == d).map (·.2))[i]?).getD 0x3F
  col 0 + at' 4 (col 1) + at' 8 (slice 0 0) + at' 14 (slice 0 1) + at' 20 (slice 1 0) + at' 26 (slice 1 1)

/-- The root block that firmware writes at each boot (R384): each table and ring lies wholly in device memory. -/
def State.rootBlock (s : State) : List Byte :=
  let hrsize := 2 ^ (4 + Config.rootField 56 % 13)
  let table (o n : Nat) : List Byte := leBytes 8 (Config.rootField o % (hbmEnd - n))
  table 0 6144 ++ table 8 262144 ++ table 16 2097152 ++ table 24 2097152 ++ leBytes 2 (Config.rootField 32 % 1024) ++
  leBytes 2 0x0101 ++ leBytes 4 s.fuseWord ++ table 40 131072 ++ table 48 (64 + 16 * hrsize) ++ leBytes 4 hrsize ++ leBytes 4 0

/-- The boot ROM: the slot with the higher version first, then the other, else recovery (R395). -/
def State.bootRom (s : State) : State :=
  let img (i : Nat) : List Byte := fwImage (if i = 0 then s.mgmt.slotA else s.mgmt.slotB)
  let order := if Config.imageVersion (img 0) < Config.imageVersion (img 1) then [1, 0] else [0, 1]
  match order.find? fun i => imageOk (img i) s.mgmt.floor with
  | none => { s with boot := .recovery }
  | some i =>
    let floor := if Config.raisesFloor (img i) then max s.mgmt.floor (Config.imageRollback (img i)) else s.mgmt.floor
    let s1 : State := { s with
      boot := .running
      mgmt := { s.mgmt with running := some i, floor := floor, fwver := Config.imageVersion (img i) } }
    s1.homeWriteAll (s1.keyTag 0) 0 s1.rootBlock

/-- A device reset (R400): as power-on, except that HBM4 keeps its ciphertext; the first boot after recovery zeroes HBM4
(R396). -/
def State.deviceReset (s : State) : State :=
  (s.restart fun a => isOutside a || (isHbm a && s.boot != .recovery)).bootRom

/-- POWER_ON (R395). -/
def execPowerOn (s : State) : Host.Outcome State Fault Refusal :=
  .next (if s.boot = .off then (s.restart isOutside).bootRom else s)

/-- POWER_LOSS (R400). -/
def execPowerLoss (s : State) : Host.Outcome State Fault Refusal := .next (s.restart isOutside)

/-- THERMAL_TRIP (R399): every context ends and every key is erased; only the management endpoint answers. -/
def execThermalTrip (s : State) : Host.Outcome State Fault Refusal :=
  .next <| match s.boot with
  | .off | .tripped => s
  | _ =>
    let s1 := (s.mgmt.keys.map (·.n)).foldl State.eraseKey (s.loseContexts fun _ => true)
    { s1 with boot := .tripped, mgmt := { s1.mgmt with tjmax := max s1.mgmt.tjmax 105 } }

/-! ## Errors (R397, R398) -/

/-- The owner of the key index that a sector is stored under (R398): the ASID of a context that uses it, else that of an
entry of ATABLE that names it; 0 for index 0, which is the driver's, and for a key that is gone. -/
def State.sectorOwner (s : State) (sector : Nat) : Nat :=
  let t := SMap.get 0 s.tags sector
  let k := (t - 1) / 2 ^ 32 % 2 ^ 16
  if k = 0 || s.keyTag k ≠ t then 0
  else match s.allCtxs.find? fun c => c.key == k || c.codeKey == k with
    | some c => c.asid
    | none => ((List.range 8192).find? fun n => let e := s.readAsid n; e.valid && (e.key == k || e.codeKey == k)).getD 0

/-- ECC_UNCORRECTABLE (R397): transient when the second read is good; else lasting, the sector is poisoned and its
retirement is to be reported. A word of a register, a tile or a bank is poisoned where it lies. -/
def execEccUncorrectable (unit : EccUnit) (second : Bool) (s : State) : Host.Outcome State Fault Refusal :=
  let soft (s : State) : State := { s with mgmt := { s.mgmt with soft := s.mgmt.soft + 1 } }
  let hard (s : State) : State := { s with mgmt := { s.mgmt with lasting := s.mgmt.lasting + 1 } }
  let add (x : Nat) (xs : List Nat) : List Nat := if xs.contains x then xs else xs ++ [x]
  .next <| match unit with
  | .sector a kind =>
    let sec := a / 32
    if !((kind = 1 || kind = 2) && isHbm a) && !(kind = 3 && isCsp a) && !(kind = 0 && isSpad a) then s
    else if !second then
      { s with mgmt := if kind = 1 then { s.mgmt with transient := s.mgmt.transient + 1 }
                       else { s.mgmt with soft := s.mgmt.soft + 1 } }
    else
      let count := SMap.get 0 s.mgmt.frames (a / 4096) + 1
      { s with
        poisoned := if s.poisoned.contains sec then s.poisoned else s.poisoned ++ [sec]
        mgmt := { s.mgmt with
          lasting := s.mgmt.lasting + 1
          frames := SMap.put 0 s.mgmt.frames (a / 4096) count
          reports := if kind = 0 then s.mgmt.reports else s.mgmt.reports ++ [(sec, kind, s.sectorOwner sec, count)] } }
  | .vectorWord gang register lane =>
    if !second then soft s
    else if 512 ≤ register || 32 ≤ lane then s
    else (hard s).updGang gang fun g => { g with badV := add (32 * register + lane) g.badV }
  | .gangRegister part register =>
    if !second then soft s
    else if register = 0 || 64 ≤ register then s
    else (hard s).updPart part fun p => { p with badG := add register p.badG }
  | .tileWord workgroup tile word =>
    if !second then soft s
    else if 4224 ≤ word then s
    else (hard s).updWg workgroup fun w =>
      if tile < w.ntiles then { w with tiles := SMap.put {} w.tiles tile { w.tile tile with bad := add word (w.tile tile).bad } }
      else w
  | .cimPart workgroup bank part =>
    if !second then soft s
    else if 8 ≤ part || 2 ≤ bank then s
    else (hard s).updWg workgroup fun w =>
      if w.cim.getLsbD bank then { w with banks := SMap.put {} w.banks bank { w.bank bank with bad := add part (w.bank bank).bad } }
      else w

/-- RETIREMENT_REPORT (R398): the oldest report is posted when the health ring has room. -/
def execRetirementReport (s : State) : Host.Outcome State Fault Refusal :=
  .next <| match s.mgmt.reports with
  | [] => s
  | (sec, kind, asid, count) :: rest =>
    let i := s.rd s.hring 8
    if s.hrsize ≤ i - s.rd (s.hring + 8) 8 then s
    else
      let bs := leBytes 8 (32 * sec) ++ leBytes 1 kind ++ leBytes 1 (Config.stackOf (32 * sec) % 8) ++ leBytes 2 asid ++
        leBytes 4 count
      let s1 := (s.homeWriteAll (s.keyTag 0) (s.hring + 64 + 16 * (i % s.hrsize)) bs).wr s.hring 8 (i + 1)
      { s1 with mgmt := { s1.mgmt with reports := rest, retired := s1.mgmt.retired + 1 } }

/-! ## Power gating (R318, R399) -/

/-- A slice writes back and drops every line that it keeps: those homed there and sector copies (R313, R318). -/
def State.emptySlice (s : State) (slice : Nat) : State :=
  let s1 : State := { s with resident := s.resident.filter fun l => s.homeSlice (128 * l.line) != slice }
  (s.copiesIn slice).foldl (fun s e => s.flushSector e.1 e.2.line true) s1

/-- POWER_GATE. A slice writes back and drops the lines of a way before it is gated: which lines lie in the way is not
modelled, and all that the slice keeps go (log 4). A gated bank holds zeros from then on. -/
def execPowerGate (unit : GateUnit) (s : State) : Host.Outcome State Fault Refusal :=
  .next <| match unit with
  | .way die slice way =>
    if 2 ≤ die || 16 ≤ way || !(s.enabledSlices die).contains slice || s.gatedWays.contains (die, slice, way) then s
    else { s.emptySlice (48 * die + slice) with gatedWays := s.gatedWays ++ [(die, slice, way)] }
  | .bank die bank =>
    let granted := s.hedges.any fun h => (if die = 0 then h.csp0 else h.csp1).getLsbD bank
    if 2 ≤ die || 48 ≤ bank || granted || s.gatedBanks.contains (die, bank) then s
    else { s.zeroRange (cspAddr die bank 0) (2 ^ 20) with gatedBanks := s.gatedBanks ++ [(die, bank)] }
  | .quadrant core quadrant =>
    if 192 ≤ core || 4 ≤ quadrant || s.hedges.any fun h => h.coreList.contains core then s
    else s.updCore core fun k => { k with gated := k.gated ||| (1 <<< quadrant) }

/-- WAY_BANK_WAKE (R318): it then reads zero, and the accesses that it held proceed. -/
def execWayBankWake (unit : GateUnit) (s : State) : Host.Outcome State Fault Refusal :=
  .next <| match unit with
  | .way die slice way => { s with gatedWays := s.gatedWays.filter (· != (die, slice, way)) }.admitAll
  | .bank die bank => { s with gatedBanks := s.gatedBanks.filter (· != (die, bank)) }.admitAll
  | .quadrant core quadrant => s.updCore core fun k => { k with gated := k.gated &&& ~~~((1 : BitVec 4) <<< quadrant) }

/-! ## The turn controller (R307, R309) -/

/-- The floor of a direction: the reservations of the hedges that have a live G context, and at least 8. -/
def State.droveFloor (s : State) (toward0 : Bool) : Nat :=
  max 8 (sumOf (fun h => if toward0 then h.drove0 else h.drove1)
    (s.hedges.filter fun h => s.allCtxs.any fun c => c.live && !c.harvest && c.hedge == h.n))

/-- The step in progress ends: its droves point the new way. -/
def Droveway.settle (d : Droveway) : Droveway :=
  if d.toward0 then { d with in0 := d.in0 + d.turning, turning := 0 } else { d with in1 := d.in1 + d.turning, turning := 0 }

/-- The oldest request of a class; ties go to die 0. -/
def oldestTurn (ts : List TurnReq) (harvest : Bool) : Option TurnReq :=
  (ts.filter fun t => t.harvest == harvest).foldl (fun best t => match best with
    | none => some t
    | some b => if t.tick < b.tick || (t.tick = b.tick && t.die < b.die) then some t else some b) none

/-- The goal of the next step, and what is left of the queue. -/
def Droveway.choose (d : Droveway) (f0 f1 : Nat) : Droveway :=
  let clip (g : Nat) : Nat := max f0 (min g (64 - f1))
  let d1 := { d with goal := clip d.goal }
  let noG := !d1.queue.any fun t => !t.harvest
  if d1.in0 ≠ d1.goal && (d1.pursued = some false || (d1.pursued = some true && noG)) then d1
  else
    let t := match oldestTurn d1.queue false with | some t => some t | none => oldestTurn d1.queue true
    match t with
    | none => { d1 with pursued := none }
    | some t => { d1 with goal := clip t.goal, pursued := some t.harvest, queue := d1.queue.erase t }

/-- Turn up to 8 droves toward the side that needs them. -/
def Droveway.turn (d : Droveway) : Droveway :=
  if d.in0 < d.goal then
    let n := min 8 (d.goal - d.in0)
    { d with in1 := d.in1 - n, turning := n, toward0 := true }
  else
    let n := min 8 (d.in0 - d.goal)
    { d with in0 := d.in0 - n, turning := n, toward0 := false }

/-- TURN_STEP (R309). -/
def execTurnStep (s : State) : Host.Outcome State Fault Refusal :=
  .next { s with drove := (s.drove.settle.choose (s.droveFloor true) (s.droveFloor false)).turn }

end Sys2Proof.Machine
end

