-- ==== Sys2Proof/Machine/Sha512.lean ====
section
/-! DEFINITION. SHA-512 (FIPS 180-4), which gives the digest of a firmware image (23_tenancy.md, R390). -/

namespace Sys2Proof.Machine

/-- The largest r below 2^n with r^k ≤ x. -/
def iroot (k x n : Nat) : Nat := (List.range n).foldr (fun i r => if (r + 2 ^ i) ^ k ≤ x then r + 2 ^ i else r) 0

/-- The primes below 410. -/
def smallPrimes : List Nat :=
  ((List.range 410).drop 2).filter fun p => (List.range 18).all fun d => !(d + 2 < p && p % (d + 2) == 0)

/-- The first 64 bits of the fractional parts of the square roots of the first eight primes. -/
def shaStart : List Word64 := (smallPrimes.take 8).map fun p => BitVec.ofNat 64 (iroot 2 (p * 2 ^ 128) 70)

/-- The same of the cube roots of the first eighty primes. -/
def shaRounds : List Word64 := (smallPrimes.take 80).map fun p => BitVec.ofNat 64 (iroot 3 (p * 2 ^ 192) 70)

/-- A message with its padding: a one bit, zeros, and its length in bits as 128 bits, high byte first. -/
def shaPad (m : List Byte) : List Byte :=
  m ++ [0x80] ++ List.replicate ((239 - m.length % 128) % 128) 0 ++ (leBytes 16 (8 * m.length)).reverse

/-- The schedule of a block: sixteen words, then sixty-four from those before, newest first. -/
def shaSchedule (b : List Byte) : List Word64 :=
  let first := (List.range 16).map fun i => BitVec.ofNat 64 (leNat ((b.drop (8 * i)).take 8).reverse)
  ((List.range 64).foldl (fun (w : List Word64) _ =>
    let x := w.getD 14 0; let y := w.getD 1 0
    let s0 := x.rotateRight 1 ^^^ x.rotateRight 8 ^^^ (x >>> 7)
    let s1 := y.rotateRight 19 ^^^ y.rotateRight 61 ^^^ (y >>> 6)
    (s1 + w.getD 6 0 + s0 + w.getD 15 0) :: w) first.reverse).reverse

/-- One block. -/
def shaBlock (h : List Word64) (b : List Byte) : List Word64 :=
  let out := ((shaSchedule b).zip shaRounds).foldl (fun (v : List Word64) wk =>
    let at' (i : Nat) : Word64 := v.getD i 0
    let e := at' 4; let a := at' 0
    let s1 := e.rotateRight 14 ^^^ e.rotateRight 18 ^^^ e.rotateRight 41
    let ch := (e &&& at' 5) ^^^ (~~~e &&& at' 6)
    let t1 := at' 7 + s1 + ch + wk.2 + wk.1
    let s0 := a.rotateRight 28 ^^^ a.rotateRight 34 ^^^ a.rotateRight 39
    let maj := (a &&& at' 1) ^^^ (a &&& at' 2) ^^^ (at' 1 &&& at' 2)
    [t1 + s0 + maj, a, at' 1, at' 2, at' 3 + t1, e, at' 5, at' 6]) h
  List.zipWith (· + ·) h out

/-- The digest of a message, 64 bytes. -/
def sha512 (m : List Byte) : List Byte :=
  let p := shaPad m
  ((List.range (p.length / 128)).foldl (fun h i => shaBlock h ((p.drop (128 * i)).take 128)) shaStart).flatMap fun x =>
    (leBytes 8 x.toNat).reverse

end Sys2Proof.Machine
end

