-- ==== Sys2Proof/Machine/Mgmt.lean ====
section
/-! DEFINITION. The management endpoint: SPDM requests, sessions and the vendor-defined requests (23_tenancy.md, R388 to
R391, R396). Each step answers the oldest request of the inbox. -/

namespace Sys2Proof.Machine

/-! ## Receiving a request -/

/-- Answer the oldest request, while the endpoint is powered, if it is of the kind that the step answers. -/
def State.withMgmt (s : State) (mine : Request → Bool) (k : State → MgmtMsg → State) : State :=
  match s.boot, s.mgmt.inbox with
  | .off, _ | _, [] => s
  | _, m :: rest => if mine m.request then k { s with mgmt := { s.mgmt with inbox := rest } } m else s

def State.session? (s : State) (n : Nat) : Option Session := s.mgmt.sessions.find? fun x => x.n == n

/-- A request in a session. -/
def State.withSession (s : State) (mine : Request → Bool) (finished : Bool) (k : State → Nat → MgmtMsg → State) : State :=
  s.withMgmt mine fun s m =>
    match m.session with
    | none => s.send (.spdm none .error)
    | some n =>
      match s.session? n with
      | some x => if x.finished = finished then k s n m else s.send (.spdm (some n) .error)
      | none => s.send (.spdm (some n) .error)

/-- An SPDM request that reads what the device is. -/
def State.spdm (s : State) (mine : Request → Bool) (answer : State → MgmtMsg → SpdmAnswer) : State :=
  s.withMgmt mine fun s m => s.send (.spdm m.session (answer s m))

/-- Bytes of a response that the spec does not give (log 15). -/
def State.spdmRest (s : State) : List Byte := Config.spdmResponse s.tick

/-! ## SPDM (R388) -/

/-- The SHA-512 digest of an image. -/
def digest (image : List Byte) : List Byte := sha512 image

/-- The certificate slots: 0 the device's identity, 1 the alias key of the running firmware. -/
def State.certificate (s : State) (slot : Nat) : Option (List Byte) :=
  match slot with
  | 0 => some Config.identityCert
  | 1 => s.mgmt.running.map fun i => Config.aliasCert (fwImage (if i = 0 then s.mgmt.slotA else s.mgmt.slotB))
  | _ => none

/-- GET_VERSION: SPDM 1.3. -/
def execGetVersion (s : State) : Host.Outcome State Fault Refusal :=
  .next (s.spdm (· == .getVersion) fun _ _ => .version 1 3)

/-- GET_CAPABILITIES. -/
def execGetCapabilities (s : State) : Host.Outcome State Fault Refusal :=
  .next (s.spdm (· == .getCapabilities) fun s _ => .capabilities s.spdmRest)

/-- NEGOTIATE_ALGORITHMS. -/
def execNegotiateAlgorithms (s : State) : Host.Outcome State Fault Refusal :=
  .next (s.spdm (· == .negotiateAlgorithms) fun _ _ => .algorithms .ed25519 .sha512 .ecdheSecp384r1 .aes256gcm)

/-- GET_DIGESTS. -/
def execGetDigests (s : State) : Host.Outcome State Fault Refusal :=
  .next (s.spdm (· == .getDigests) fun s _ =>
    .digests ([0, 1].filterMap fun i => (s.certificate i).map fun c => (i, digest c)))

/-- GET_CERTIFICATE. -/
def execGetCertificate (s : State) : Host.Outcome State Fault Refusal :=
  .next (s.spdm (fun r => match r with | .getCertificate _ => true | _ => false) fun s m => match m.request with
    | .getCertificate i => ((s.certificate i).map (.certificate i ·)).getD .error
    | _ => .error)

/-- CHALLENGE. -/
def execChallenge (s : State) : Host.Outcome State Fault Refusal :=
  .next (s.spdm (fun r => match r with | .challenge _ => true | _ => false) fun s m => match m.request with
    | .challenge i => if (s.certificate i).isSome then .challengeAuth i s.spdmRest else .error
    | _ => .error)

/-- GET_MEASUREMENTS: the digest of each firmware slot, the fuse map and the rollback floor; the rest is free (log 15). -/
def execGetMeasurements (s : State) : Host.Outcome State Fault Refusal :=
  .next (s.spdm (· == .getMeasurements) fun s _ =>
    .measurements (digest (fwImage s.mgmt.slotA)) (digest (fwImage s.mgmt.slotB)) s.fuseWord s.mgmt.floor s.spdmRest)

/-- KEY_EXCHANGE: a session opens, if fewer than 256 stand. Its heartbeat period is the request's first byte (log 15). -/
def execKeyExchange (s : State) : Host.Outcome State Fault Refusal :=
  .next <| s.withMgmt (· == .keyExchange) fun s m =>
    if 256 ≤ s.mgmt.sessions.length then s.send (.spdm m.session .error)
    else
      let n := s.mgmt.nextSession
      let x : Session := { n := n, heartbeat := max 1 (m.body.headD 1).toNat }
      { s with mgmt := { s.mgmt with sessions := s.mgmt.sessions ++ [x], nextSession := n + 1 } }.send
        (.spdm m.session (.opened n s.spdmRest))

/-- Change a session. -/
def State.updSession (s : State) (n : Nat) (f : Session → Session) : State :=
  { s with mgmt := { s.mgmt with sessions := updWhere (fun x => x.n == n) f s.mgmt.sessions } }

/-- FINISH: the session is secured from here on. -/
def execFinish (s : State) : Host.Outcome State Fault Refusal :=
  .next <| s.withSession (· == .finish) false fun s n _ =>
    (s.updSession n fun x => { x with finished := true }).send (.spdm (some n) (.done s.spdmRest))

/-- HEARTBEAT. -/
def execHeartbeat (s : State) : Host.Outcome State Fault Refusal :=
  .next <| s.withSession (· == .heartbeat) true fun s n _ => s.send (.spdm (some n) (.done s.spdmRest))

/-- KEY_UPDATE. -/
def execKeyUpdate (s : State) : Host.Outcome State Fault Refusal :=
  .next <| s.withSession (· == .keyUpdate) true fun s n _ =>
    (s.updSession n fun x => { x with keyUpdates := x.keyUpdates + 1 }).send
      (.spdm (some n) (.done s.spdmRest))

/-- A session is over (R390, R391): the indices bound to it are erased, and the driver's session ends with it. -/
def State.dropSession (s : State) (n : Nat) : State :=
  let s1 := ((s.mgmt.keys.filter fun e => e.bound == some n).map (·.n)).foldl State.eraseKey s
  let free (e : KeySlot) : KeySlot := { e with bound := none }
  { s1 with mgmt := { s1.mgmt with
    keys := updWhere (fun e => e.bound == some n) free s1.mgmt.keys
    sessions := s1.mgmt.sessions.filter fun x => x.n != n
    driver := if s1.mgmt.driver = some n then none else s1.mgmt.driver } }

/-- END_SESSION. -/
def execEndSession (s : State) : Host.Outcome State Fault Refusal :=
  .next <| s.withSession (· == .endSession) true fun s n _ =>
    (s.dropSession n).send (.spdm (some n) (.done s.spdmRest))

/-- HEARTBEAT_TIMEOUT: a heartbeat of a session has been missed. -/
def execHeartbeatTimeout (session : Nat) (s : State) : Host.Outcome State Fault Refusal :=
  .next (if (s.session? session).isSome then s.dropSession session else s)

/-! ## Vendor-defined requests (R389, R390) -/

/-- What a vendor-defined request comes to: a STATUS other than 0, with nothing changed, or its effect and the body of the
response. -/
abbrev Vendor := Except Nat (State × List Byte)

/-- Who may send a request. -/
inductive Sender
  | any
  | driver
  deriving DecidableEq, Repr

/-- The OPCODEs of R390. -/
def opcodes : List Nat := [1, 2, 3, 4, 0x10, 0x11, 0x20, 0x21, 0x30]

/-- A VENDOR_DEFINED_RESPONSE: OPCODE, STATUS, LENGTH, a reserved field of 0, and BODY (R390). -/
def vendorReply (session opcode status : Nat) (body : List Byte) : Reply :=
  .vendor session Config.malnenId (leBytes 2 opcode ++ leBytes 2 status ++ leBytes 2 body.length ++ leBytes 2 0 ++ body)

/-- A request that a step for an OPCODE answers: its own, and one whose OPCODE is unknown. -/
def vendorFor (op : Nat) (r : Request) : Bool :=
  match r with
  | .vendor o _ => o == op || !opcodes.contains o
  | _ => false

/-- A vendor-defined request, with the checks in this order: state, OPCODE, LENGTH, session, then its own (log 15). In
recovery only the requests that `dark` marks are accepted, in any session; after a thermal trip only HEALTH is. -/
def State.vendor (s : State) (op : Nat) (dark health : Bool) (who : Sender) (len : Nat → Bool)
    (k : State → Nat → List Byte → Vendor) : State :=
  s.withSession (vendorFor op) true fun s n m =>
    let (o, length) := match m.request with | .vendor o l => (o, l) | _ => (op, 0)
    let out : Vendor :=
      if (s.boot = .recovery && !(dark && o = op)) || (s.boot = .tripped && !(health && o = op)) then .error 6
      else if o ≠ op then .error 7
      else if length ≠ m.body.length || !len length then .error 4
      else if who = .driver && s.boot = .running && s.mgmt.driver ≠ some n then .error 1
      else k s n m.body
    match out with
    | .error e => s.send (vendorReply n o e [])
    | .ok (t, body) => t.send (vendorReply n o 0 body)

/-- CLAIM (R390). -/
def execClaim (s : State) : Host.Outcome State Fault Refusal :=
  .next <| s.vendor 1 false false .any (· == 0) fun s n _ =>
    match s.mgmt.driver with
    | some _ => .error 1
    | none => .ok ({ s with mgmt := { s.mgmt with driver := some n } }, [])

def keyIndexOk (k : Nat) : Bool := 1 ≤ k && k ≤ 4095

/-- The slot of a key index. -/
def Mgmt.slot (m : Mgmt) (k : Nat) : KeySlot := (m.keys.find? fun e => e.n == k).getD { n := k }

def Mgmt.setSlot (m : Mgmt) (e : KeySlot) : Mgmt :=
  { m with keys := if m.keys.any fun x => x.n == e.n then updWhere (fun x => x.n == e.n) (fun _ => e) m.keys
                   else m.keys ++ [e] }

/-- BIND (R389). -/
def execBind (s : State) : Host.Outcome State Fault Refusal :=
  .next <| s.vendor 2 false false .driver (· == 8) fun s _ b =>
    let k := field b 0 2; let n := field b 4 4
    if !keyIndexOk k || field b 2 2 ≠ 0 || (s.session? n).isNone then .error 2
    else .ok ({ s with mgmt := s.mgmt.setSlot { s.mgmt.slot k with bound := some n } }, [])

/-- KEYSET (R389). -/
def execKeyset (s : State) : Host.Outcome State Fault Refusal :=
  .next <| s.vendor 3 false false .any (· == 68) fun s n b =>
    let k := field b 0 2
    if !keyIndexOk k || field b 2 2 ≠ 0 then .error 2
    else if (s.mgmt.slot k).bound ≠ some n then .error 1
    else if s.keyInUse k then .error 3
    else
      let e := s.mgmt.slot k
      let t : State := { s with mgmt := s.mgmt.setSlot { e with key := some (b.drop 4), gen := e.gen + 1 } }
      .ok ({ t with mgmt := { t.mgmt with loaded := t.mgmt.loaded ++ [(t.keyTag k, b.drop 4)] } }, [])

/-- KEYCLR (R389, R391). -/
def execKeyclr (s : State) : Host.Outcome State Fault Refusal :=
  .next <| s.vendor 4 false false .any (· == 4) fun s n b =>
    let k := field b 0 2
    if !keyIndexOk k || field b 2 2 ≠ 0 then .error 2
    else if (s.mgmt.slot k).bound ≠ some n && s.mgmt.driver ≠ some n then .error 1
    else .ok (s.eraseKey k, [])

/-- DEVRESET (R400). -/
def execDevreset (s : State) : Host.Outcome State Fault Refusal :=
  .next <| s.vendor 0x10 false false .driver (· == 0) fun s _ _ => .ok (s.deviceReset, [])

/-- HEDGERESET (R400): every context of the hedge ends, and with the last its buffers are zeroed; its keys stay. -/
def execHedgereset (s : State) : Host.Outcome State Fault Refusal :=
  .next <| s.vendor 0x11 false false .driver (· == 4) fun s _ b =>
    let h := field b 0 1
    if 48 ≤ h || field b 1 3 ≠ 0 then .error 2
    else
      let s1 := s.loseContexts fun c => c.hedge == h
      .ok (s1, [])

/-! ## Firmware (R390, R395, R396) -/

/-- The slot that an update goes to: the one not running, or B in recovery. -/
def Mgmt.updateSlot (m : Mgmt) : Nat := match m.running with | some 1 => 0 | _ => 1
def Mgmt.fwSlot (m : Mgmt) (i : Nat) : FwSlot := if i = 0 then m.slotA else m.slotB
def Mgmt.setFwSlot (m : Mgmt) (i : Nat) (f : FwSlot) : Mgmt := if i = 0 then { m with slotA := f } else { m with slotB := f }

/-- FWWRITE (R390). -/
def execFwwrite (s : State) : Host.Outcome State Fault Refusal :=
  .next <| s.vendor 0x20 true false .driver (fun n => 9 ≤ n && n ≤ 1032) fun s _ b =>
    if field b 4 4 ≠ 0 then .error 2
    else
      let i := s.mgmt.updateSlot
      let f := s.mgmt.fwSlot i
      .ok ({ s with mgmt := s.mgmt.setFwSlot i { f with image := SMap.putAll 0 f.image (field b 0 4) (b.drop 8) } }, [])

/-- FWCOMMIT (R390): the written image is verified as the boot ROM would, and stands from the next reset on; in recovery a
reset follows at once (R396). -/
def execFwcommit (s : State) : Host.Outcome State Fault Refusal :=
  .next <| s.vendor 0x21 true false .driver (· == 8) fun s _ b =>
    let i := s.mgmt.updateSlot
    let f : FwSlot := { s.mgmt.fwSlot i with size := field b 0 4 }
    let d := digest (fwImage f)
    if field b 4 4 ≠ 0 then .error 2
    else if !imageOk (fwImage f) s.mgmt.floor then .error 5
    else
      let s1 : State := { s with mgmt := s.mgmt.setFwSlot i f }
      if s.boot = .recovery then .ok ((s1.deviceReset), d) else .ok (s1, d)

/-- The health record (R390). -/
def State.healthRecord (s : State) : List Byte :=
  let mask (n : Nat) (p : Nat → Bool) : Nat := (List.range n).foldl (fun a i => if p i then a + 2 ^ i else a) 0
  let state : Nat := match s.boot with | .recovery => 1 | .tripped => 2 | _ => 0
  leBytes 1 state ++ leBytes 1 (s.mgmt.running.getD 0xFF) ++ leBytes 2 0x0101 ++ leBytes 4 s.mgmt.fwver ++
  leBytes 4 s.mgmt.floor ++ leBytes 1 s.mgmt.tjmax ++ leBytes 1 (mask 8 fun p => (s.ports.getD p {}).up) ++
  leBytes 1 (mask 8 fun p => s.dead.any fun d => d.plane == p) ++ leBytes 1 (at' 7 s.hostUp.toNat) ++
  leBytes 8 s.mgmt.transient ++ leBytes 8 s.mgmt.lasting ++ leBytes 8 s.mgmt.soft ++ leBytes 4 s.mgmt.retired ++
  leBytes 20 0

/-- TJMAX takes up the temperatures since it was last read: below 105 °C unless the device has tripped (R390, R399). -/
def State.warm (s : State) : State :=
  let t := if s.boot = .tripped then Config.junction s.tick % 256 else Config.junction s.tick % 105
  { s with mgmt := { s.mgmt with tjmax := max s.mgmt.tjmax t } }

/-- HEALTH (R390). -/
def execHealth (s : State) : Host.Outcome State Fault Refusal :=
  .next <| s.vendor 0x30 true true .any (· == 0) fun s _ _ => .ok (s.warm, s.warm.healthRecord)

/-- The step that answers a request. -/
def Request.step : Request → Instr
  | .getVersion => .getVersion
  | .getCapabilities => .getCapabilities
  | .negotiateAlgorithms => .negotiateAlgorithms
  | .getDigests => .getDigests
  | .getCertificate _ => .getCertificate
  | .challenge _ => .challenge
  | .getMeasurements => .getMeasurements
  | .keyExchange => .keyExchange
  | .finish => .finish
  | .heartbeat => .heartbeat
  | .keyUpdate => .keyUpdate
  | .endSession => .endSession
  | .vendor o _ => match o with
    | 2 => .bind
    | 3 => .keyset
    | 4 => .keyclr
    | 0x10 => .devreset
    | 0x11 => .hedgereset
    | 0x20 => .fwwrite
    | 0x21 => .fwcommit
    | 0x30 => .health
    | _ => .claim

end Sys2Proof.Machine
end

