-- ==== Sys2Proof/Machine/Scripts.lean ====
section
/-! DEFINITION. Queue scripts (21_launch.md, R366 to R369): verification, loading, running, and the ops. -/

namespace Sys2Proof.Machine

/-! ## Verification (R368) -/

/-- The words that may follow word `i`. -/
def scriptNext (is : List Instr) (i : Nat) : List Nat :=
  match is[i]? with
  | some .sdone | some (.sabort _) | none => []
  | some (.sbeq o) | some (.sbne o) | some (.sblt o) => [i + 1, i + o.imm.toNat]
  | some (.sloop o) => [i + 1, i - o.imm.toNat]
  | some _ => [i + 1]

/-- The register that a word writes. -/
def scriptDest : Instr → Option Nat
  | .sli o | .slui o => some o.d.toNat
  | .sarg o | .sadd o | .ssub o | .sand o | .sor o | .sxor o | .saddi o | .sshl o | .sshr o | .sld o | .sloop o | .senq o =>
    some o.d.toNat
  | _ => none

/-- A loop: its target, its SLOOP and the SLOOP's counter. -/
structure ScriptLoop where
  first : Nat
  last : Nat
  counter : Nat
  deriving DecidableEq, Repr, Inhabited

/-- The loops of a script; none when a SLOOP goes before the first word. -/
def scriptLoops (is : List Instr) : Option (List ScriptLoop) :=
  is.zipIdx.foldl (fun a (x, i) => match x with
    | .sloop o => if i < o.imm.toNat then none
      else a.map fun ls => ls ++ [{ first := i - o.imm.toNat, last := i, counter := o.d.toNat }]
    | _ => a) (some [])

/-- Words that some path reaches, by sweeps over the script. -/
def scriptReach (is : List Instr) : Nat → List Nat → List Nat
  | 0, seen => seen
  | n + 1, seen =>
    let more := distinct (seen ++ (seen.flatMap (scriptNext is)).filter (· < is.length))
    if more.length = seen.length then seen else scriptReach is n more

/-- A body is entered only at its target. -/
def entersAtTarget (is : List Instr) (l : ScriptLoop) : Bool :=
  (List.range is.length).all fun j => (l.first ≤ j && j ≤ l.last) ||
    (scriptNext is j).all fun k => !(l.first < k && k ≤ l.last)

/-- What is known of a counter on the way into a word: `none` on no path, else whether every path wrote it last by an SLI
of 0 to 4,095, and the largest of those. -/
abbrev CounterFact := Option (Bool × Nat)

def CounterFact.join (a b : CounterFact) : CounterFact :=
  match a, b with
  | none, x | x, none => x
  | some (p, m), some (q, n) => some (p && q, max m n)

/-- The fact after a word. -/
def counterAfter (d : Nat) (i : Instr) (x : CounterFact) : CounterFact :=
  x.map fun p =>
    match i with
    | .sli o => if o.d.toNat = d then (o.imm.toNat ≤ 4095, o.imm.toNat) else p
    | i => if scriptDest i = some d then (false, 0) else p

/-- One sweep over the words, without the loop's own back edge. -/
def counterSweep (is : List Instr) (l : ScriptLoop) (xs : List CounterFact) : List CounterFact :=
  (List.range is.length).foldl (fun xs k =>
    let preds := (List.range is.length).filter fun j => (scriptNext is j).contains k && !(j == l.last && k == l.first)
    let x := preds.foldl (fun (a : CounterFact) j =>
      CounterFact.join a (counterAfter l.counter (is.getD j .sdone) (xs.getD j none)))
      (if k = 0 then some (false, 0) else none)
    xs.set k x) xs

/-- The counter's fact on the way into a body. -/
def counterFact (is : List Instr) (l : ScriptLoop) : CounterFact :=
  ((List.range is.length).foldl (fun xs _ => counterSweep is l xs) (List.replicate is.length none)).getD l.first none

/-- A loop's counter is set by an SLI of 0 to 4,095 on every path into it, and inside the body only by the SLOOP. -/
def counterOk (is : List Instr) (l : ScriptLoop) : Bool :=
  (match counterFact is l with | some (ok, _) => ok | none => true) &&
  (List.range is.length).all fun j => !(l.first ≤ j && j < l.last && scriptDest (is.getD j .sdone) == some l.counter)

/-- The largest number of times that a loop goes back. -/
def loopBound (is : List Instr) (l : ScriptLoop) : Nat := ((counterFact is l).map (·.2)).getD 0

/-- One body lies in another. -/
def ScriptLoop.within (a b : ScriptLoop) : Bool := b.first ≤ a.first && a.last ≤ b.last

/-- Bodies are disjoint or nested, at most four deep. -/
def nestingOk (ls : List ScriptLoop) : Bool :=
  (ls.all fun a => ls.all fun b => a.within b || b.within a || a.last < b.first || b.last < a.first) &&
  ls.all fun a => (ls.filter fun b => a.within b).length ≤ 4

/-- The longest path from the first word of a region to where it leaves the region, a body counting bound + 1 times; `n`
bounds the nesting. -/
def longestPath (is : List Instr) (bound : ScriptLoop → Nat) : Nat → List ScriptLoop → Nat → Nat → Nat
  | 0, _, _, _ => 0
  | n + 1, ls, lo, hi =>
    let vals := (List.range (hi + 1 - lo)).foldl (fun (vals : List Nat) k =>
      let i := hi - k
      let from' (j : Nat) : Nat := if i < j && j ≤ hi then vals.getD (j - (i + 1)) 0 else 0
      let outer := (ls.filter fun l => l.first == i).foldl (fun (a : Option ScriptLoop) l => match a with
        | some b => if b.last < l.last then some l else a
        | none => some l) none
      let v := match outer with
        | some l =>
          let exits := ((List.range (l.last + 1 - l.first)).map (· + l.first)).flatMap fun j =>
            (scriptNext is j).filter fun k => l.last < k
          (bound l + 1) * longestPath is bound n (ls.filter fun x => x.within l && x != l) l.first l.last +
            (exits.map from').foldl max 0
        | none => 1 + ((scriptNext is i).map from').foldl max 0
      v :: vals) []
    vals.headD 0

/-- A script passes verification (R368). -/
def scriptOk (ws : List (BitVec 32)) : Bool :=
  match ws.mapM decodeScript with
  | none => false
  | some is =>
    match scriptLoops is with
    | none => false
    | some ls =>
      1 ≤ is.length && is.length ≤ 256 &&
      (scriptReach is is.length [0]).all (fun i => (scriptNext is i).all (· < is.length)) &&
      (is.zipIdx.all fun (x, i) => match x with
        | .sbeq o | .sbne o | .sblt o => i + o.imm.toNat < is.length
        | _ => true) &&
      ls.all (entersAtTarget is) && ls.all (counterOk is) && nestingOk ls &&
      longestPath is (loopBound is) 6 ls 0 (is.length - 1) ≤ 1024

/-! ## SCRIPT packets (R366) -/

/-- Script words, read one after the other. -/
def State.loadScript (s : State) (x : Space) (va : Nat) (bad : State → State) (k : State → List (BitVec 32) → State) :
    Nat → List (BitVec 32) → State
  | 0, acc => k s acc
  | n + 1, acc =>
    s.engineLoad x (va + 4 * acc.length) 4 bad fun s b => s.loadScript x va bad k n (acc ++ [BitVec.ofNat 32 (leNat b)])

/-- SCRIPT_LOAD (R366). -/
def execScriptLoad (queue : Nat) (s : State) : Host.Outcome State Fault Refusal :=
  .next <| s.withPacket queue (· == 5) fun s p =>
    if bits (p.word 0) 11 9 ≠ 1 then s
    else if p.word 3 < 1 || 256 < p.word 3 then s.rejectPacket queue p 0x41 0x0A
    else if p.word 2 % 4 ≠ 0 then s.rejectPacket queue p 0x41 1
    else s.loadScript (s.queueSpace queue) (p.word 2) (fun t => t.rejectPacket queue p 0x41 7) (fun s ws =>
      if scriptOk ws then (s.setQueue { s.getQueue queue with script := ws }).ranPacket queue p 0 0
      else s.rejectPacket queue p 0x41 0x0A) (p.word 3) []

/-- SCRIPT_RUN (R366): the loaded script begins to run. -/
def execScriptRun (queue : Nat) (s : State) : Host.Outcome State Fault Refusal :=
  .next <| s.withPacket queue (· == 5) fun s p =>
    let ws := (s.getQueue queue).script
    if bits (p.word 0) 11 9 ≠ 0 then s
    else if ws.isEmpty then s.rejectPacket queue p 0x41 9
    else
      let s1 := s.addPacket queue { p with started := some s.tick }
      let r : ScriptRun := { queue := queue, seq := p.seq, live := true, args := p.words, words := ws }
      { s1 with scripts := s1.scripts ++ [r] }

/-! ## The ops (R367) -/

/-- Read s`i`; s0 reads 0. -/
def State.sg (s : State) (i : BitVec 4) : Word64 := if i = 0 then 0 else s.scr.s.getD i.toNat 0

/-- Write s`i`; a write to s0 is ignored. -/
def State.setS (s : State) (i : BitVec 4) (x : Word64) : State :=
  if i = 0 then s else { s with scr := { s.scr with s := s.scr.s.setIfInBounds i.toNat x } }

/-- The next op, `pc` words on. -/
def State.scriptTo (s : State) (pc : Nat) : State := { s with scr := { s.scr with pc := pc, steps := s.scr.steps + 1 } }
def State.scriptNextOp (s : State) : State := s.scriptTo (s.scr.pc + 1)

/-- Ops run only in a script run. -/
def scripted (s : State) (k : State → State) : Host.Outcome State Fault Refusal :=
  if s.scr.live then .next (k s) else .fault .noScript

/-- The run ends, and with it its packet. -/
def State.endScript (s : State) (status aux : Nat) : State :=
  { s with scr := { s.scr with live := false } }.endPacket s.scr.queue s.scr.seq status aux

/-- SCRIPTFAULT at the step in progress (R369). -/
def State.scriptFault (s : State) : State := s.endScript 0x44 (s.scr.steps % 256)

/-- An op that writes sD. -/
def scriptSet (d : BitVec 4) (x : State → Word64) (s : State) : Host.Outcome State Fault Refusal :=
  scripted s fun s => (s.setS d (x s)).scriptNextOp

/-- The four script windows of a queue (R347): base and length. -/
def State.windowsOf (s : State) (q : Nat) : List (Nat × Nat) :=
  (List.range 4).map fun i => (s.rd (queueAddr s q + 112 + 16 * i) 8, s.rd (queueAddr s q + 120 + 16 * i) 8)

/-- Bytes inside one script window. -/
def State.inWindow (s : State) (va n : Nat) : Bool :=
  (s.windowsOf s.scr.queue).any fun w => w.1 ≤ va && va + n ≤ w.1 + w.2

/-- SLI (R367). -/
def execSli (o : FSI) (s : State) : Host.Outcome State Fault Refusal := scriptSet o.d (fun _ => o.imm.signExtend 64) s

/-- SLUI (R367). -/
def execSlui (o : FSI) (s : State) : Host.Outcome State Fault Refusal :=
  scriptSet o.d (fun s => (s.sg o.d <<< 16) ||| o.imm.zeroExtend 64) s

/-- SARG (R367). -/
def execSarg (o : FS) (s : State) : Host.Outcome State Fault Refusal :=
  scriptSet o.d (fun s => s.scr.args.getD o.imm.toNat 0) s

/-- SADD (R367). -/
def execSadd (o : FS) (s : State) : Host.Outcome State Fault Refusal := scriptSet o.d (fun s => s.sg o.a + s.sg o.b) s

/-- SSUB (R367). -/
def execSsub (o : FS) (s : State) : Host.Outcome State Fault Refusal := scriptSet o.d (fun s => s.sg o.a - s.sg o.b) s

/-- SAND (R367). -/
def execSand (o : FS) (s : State) : Host.Outcome State Fault Refusal := scriptSet o.d (fun s => s.sg o.a &&& s.sg o.b) s

/-- SOR (R367). -/
def execSor (o : FS) (s : State) : Host.Outcome State Fault Refusal := scriptSet o.d (fun s => s.sg o.a ||| s.sg o.b) s

/-- SXOR (R367). -/
def execSxor (o : FS) (s : State) : Host.Outcome State Fault Refusal := scriptSet o.d (fun s => s.sg o.a ^^^ s.sg o.b) s

/-- SADDI (R367). -/
def execSaddi (o : FS) (s : State) : Host.Outcome State Fault Refusal :=
  scriptSet o.d (fun s => s.sg o.a + o.imm.signExtend 64) s

/-- SSHL (R367). -/
def execSshl (o : FS) (s : State) : Host.Outcome State Fault Refusal := scriptSet o.d (fun s => s.sg o.a <<< o.imm.toNat) s

/-- SSHR (R367). -/
def execSshr (o : FS) (s : State) : Host.Outcome State Fault Refusal := scriptSet o.d (fun s => s.sg o.a >>> o.imm.toNat) s

/-- The address of SLD and SST. -/
def State.scriptEa (s : State) (o : FS) : Nat := (s.sg o.a + o.imm.signExtend 64).toNat

/-- SLD (R367, R369): a load with acquire in a script window. -/
def execSld (o : FS) (s : State) : Host.Outcome State Fault Refusal :=
  scripted s fun s =>
    let va := s.scriptEa o
    let x := s.queueSpace s.scr.queue
    if va % 8 ≠ 0 || !s.inWindow va 8 then s.scriptFault
    else match s.engineSpot x va 8 true false with
      | .wait t => t
      | .bad t _ _ => t.scriptFault
      | .got e =>
        let (t, v) := s.spaceRead x e va 8
        (t.setS o.d (BitVec.ofNat 64 (leNat v))).scriptNextOp

/-- SST (R367, R369): a store with release in a script window. -/
def execSst (o : FS) (s : State) : Host.Outcome State Fault Refusal :=
  scripted s fun s =>
    let va := s.scriptEa o
    let x := s.queueSpace s.scr.queue
    if va % 8 ≠ 0 || !s.inWindow va 8 then s.scriptFault
    else match s.engineSpot x va 8 false true with
      | .wait t => t
      | .bad t _ _ => t.scriptFault
      | .got e => (s.spaceWrite x e va (leBytes 8 (s.sg o.d).toNat)).scriptNextOp

/-- SSIG (R367, R369). -/
def execSsig (o : FS) (s : State) : Host.Outcome State Fault Refusal :=
  scripted s fun s =>
    s.signalWrite (s.queueSpace s.scr.queue) (s.sg o.a).toNat (fun x => x + s.sg o.b)
      State.scriptFault State.scriptNextOp

/-- A forward branch. -/
def scriptBranch (o : FS) (p : Word64 → Word64 → Bool) (s : State) : Host.Outcome State Fault Refusal :=
  scripted s fun s => s.scriptTo (if p (s.sg o.a) (s.sg o.b) then s.scr.pc + o.imm.toNat else s.scr.pc + 1)

/-- SBEQ (R367). -/
def execSbeq (o : FS) (s : State) : Host.Outcome State Fault Refusal := scriptBranch o (fun a b => a == b) s

/-- SBNE (R367). -/
def execSbne (o : FS) (s : State) : Host.Outcome State Fault Refusal := scriptBranch o (fun a b => a != b) s

/-- SBLT (R367). -/
def execSblt (o : FS) (s : State) : Host.Outcome State Fault Refusal := scriptBranch o (fun a b => a.slt b) s

/-- SLOOP (R367). -/
def execSloop (o : FS) (s : State) : Host.Outcome State Fault Refusal :=
  scripted s fun s =>
    if s.sg o.d ≠ 0 then (s.setS o.d (s.sg o.d - 1)).scriptTo (s.scr.pc - o.imm.toNat) else s.scriptNextOp

/-- SENQ (R367, R369): a packet at level 0 into a queue of the hedge and ASID. -/
def execSenq (o : FS) (s : State) : Host.Outcome State Fault Refusal :=
  scripted s fun s =>
    let q := s.scr.queue
    let t := (s.sg o.b).toNat
    let va := (s.sg o.a).toNat
    let x := s.queueSpace q
    let full (s : State) : State :=
      if o.imm.getLsbD 0 then s.endScript 0x10 1 else (s.setS o.d 0).scriptNextOp
    let ok (s : State) : State := (s.setS o.d 1).scriptNextOp
    if 2 ^ 14 ≤ t || s.qStopped t || s.qHedge t ≠ s.qHedge q || s.qAsid t ≠ s.qAsid q || va % 8 ≠ 0 || !s.inWindow va 64 then s.scriptFault
    else s.engineFetch x State.scriptFault (fun s bs =>
      if s.qDev t then s.offer t 0 0 bs full ok
      else if s.qWidx t < s.qRidx t + s.qSize t then s.enqueue t 0 0 false bs full ok else full s) (pagePieces va 64) []

/-- SDONE (R367). -/
def execSdone (s : State) : Host.Outcome State Fault Refusal := scripted s fun s => s.endScript 0 0

/-- SABORT (R367). -/
def execSabort (o : FS) (s : State) : Host.Outcome State Fault Refusal :=
  scripted s fun s => s.endScript 0x45 (o.imm.toNat % 256)

end Sys2Proof.Machine
end

