-- ==== Sys2Proof/Machine/Special.lean ====
section
/-! DEFINITION. The special functions (04_lane.md, R107). SQRT is exact. Of the seven approximations the spec gives a
bound: the result is a free value, `Config.approx`, as long as it lies within the bound, else the nearest FP32 value of a
reference computed in fixed point to more than 60 bits (log 6). -/

namespace Sys2Proof.Machine

/-! ## Fixed-point references -/

/-- Fraction bits of the references. -/
def fxP : Nat := 128
def fxOne : Nat := 2 ^ 128
/-- ln 2 × 2^128 and π/2 × 2^256, rounded down. -/
def fxLn2 : Nat := 0xb17217f7d1cf79abc9e3b39803f2f6af
def fxHalfPi : Nat := 0x1921fb54442d18469898cc51701b839a252049c1114cf98e804177d4c76273644

/-- The largest r with r² ≤ n. -/
def isqrt (n : Nat) : Nat :=
  (List.range (n.log2 / 2 + 1)).foldr (fun i r => if (r + 2 ^ i) * (r + 2 ^ i) ≤ n then r + 2 ^ i else r) 0

/-- m × 2^e in units of 2^-p, rounded down. -/
def toFixed (p m : Nat) (e : Int) : Nat :=
  if 0 ≤ e + p then m * 2 ^ (e + p).toNat else m / 2 ^ (-(e + p)).toNat

/-- Sum of t, t·x/1, t·x²/2, ... over `n` terms: the exponential series. -/
def expSeries (x : Nat) : Nat → Nat → Nat → Nat
  | 0, _, _ => 0
  | n + 1, k, t => t + expSeries x n (k + 1) (t * x / fxOne / k)

/-- 2^f for a fraction f. -/
def exp2Frac (f : Nat) : Nat := expSeries (f * fxLn2 / fxOne) 40 1 fxOne

/-- The alternating series of sine (from the first power) or cosine (from the zeroth). -/
def trigSeries (x2 : Nat) : Nat → Nat → Int → Int
  | 0, _, _ => 0
  | n + 1, k, t => t + trigSeries x2 n (k + 2) (-(t * x2 / fxOne / ((k + 1) * (k + 2))))

def fxSin (x : Nat) : Int := trigSeries (x * x / fxOne) 20 1 x
def fxCos (x : Nat) : Int := trigSeries (x * x / fxOne) 20 0 fxOne

/-- Sum of z, z³/3, z⁵/5, ... -/
def atanhSeries (z2 : Nat) : Nat → Nat → Nat → Nat
  | 0, _, _ => 0
  | n + 1, k, t => t / k + atanhSeries z2 n (k + 2) (t * z2 / fxOne)

/-- A fixed-point number as a value. -/
def ofFixed (z : Int) : FVal := .fin (z < 0) z.natAbs (-128)

/-- 1 / (m × 2^e). -/
def refRcp (m : Nat) (e : Int) : FVal := .fin false (2 ^ 200 / m) (-200 - e)

/-- 1 / √(m × 2^e). -/
def refRsq (m : Nat) (e : Int) : FVal :=
  let odd := e % 2 = 1
  let m' := if odd then 2 * m else m
  let e' := if odd then e - 1 else e
  .fin false (isqrt (2 ^ 300 / m')) (-150 - e' / 2)

/-- 2^x for x of magnitude below 256. -/
def refExp2 (neg : Bool) (m : Nat) (e : Int) : FVal :=
  let x : Int := (if neg then -1 else 1) * ((toFixed 160 m e : Nat) : Int)
  let n := x / 2 ^ 160
  let f := (x - n * 2 ^ 160).toNat / 2 ^ 32
  .fin false (exp2Frac f) (n - 128)

/-- log2 of m × 2^e. -/
def refLog2 (m : Nat) (e : Int) : FVal :=
  let n := floorLog m e
  let y := toFixed 128 m (e - n)
  let z := (y - fxOne) * fxOne / (y + fxOne)
  ofFixed (n * fxOne + 2 * (atanhSeries (z * z / fxOne) 45 1 z : Int) * fxOne / fxLn2)

/-- Sine, or cosine, of m × 2^e with exact reduction by quadrants. -/
def refTrig (cos neg : Bool) (m : Nat) (e : Int) : FVal :=
  let x := toFixed 256 m e
  let k := x / fxHalfPi
  let r := x % fxHalfPi / 2 ^ 128
  let q := (k + cos.toNat) % 4
  let y := if q % 2 = 0 then fxSin r else fxCos r
  let y := if 2 ≤ q then -y else y
  ofFixed (if neg && !cos then -y else y)

/-- Hyperbolic tangent of m × 2^e. -/
def refTanh (neg : Bool) (m : Nat) (e : Int) : FVal :=
  let x := min (toFixed 128 m e) (32 * fxOne)
  let t := 2 * x * fxOne / fxLn2
  let g := exp2Frac (t % fxOne) * 2 ^ (t / fxOne)
  let y : Nat := (g - fxOne) * fxOne / (g + fxOne)
  ofFixed (if neg then -(y : Int) else y)

/-! ## The bounds -/

def absF (x : FVal) : FVal := match x with | .fin _ m e => .fin false m e | y => y

/-- One unit in the last place of an FP32 result near a value. -/
def ulpExp (x : FVal) : Int := match x with | .fin _ m e => if m = 0 then -149 else max (floorLog m e - 23) (-149) | _ => -149

/-- Which approximation. -/
inductive Approx
  | rcp | rsq | exp2 | log2 | sin | cos | tanh
  deriving DecidableEq, Repr

def Approx.opcode : Approx → Nat
  | .rcp => 0x84 | .rsq => 0x85 | .exp2 => 0x87 | .log2 => 0x88 | .sin => 0x89 | .cos => 0x8A | .tanh => 0x8B

/-- The reference of a finite nonzero input. -/
def Approx.ref (k : Approx) (neg : Bool) (m : Nat) (e : Int) : FVal :=
  match k with
  | .rcp => match refRcp m e with | .fin _ a b => .fin neg a b | y => y
  | .rsq => refRsq m e
  | .exp2 => refExp2 neg m e
  | .log2 => refLog2 m e
  | .sin => refTrig false neg m e
  | .cos => refTrig true neg m e
  | .tanh => refTanh neg m e

/-- The error bound of R107 at an input with this reference. -/
def Approx.bound (k : Approx) (m : Nat) (e : Int) (r : FVal) : FVal :=
  let u := ulpExp r
  match k with
  | .rcp => .fin false 1 u
  | .rsq => .fin false 2 u
  | .exp2 => if ltF r (.fin false 1 (-126)) then .fin false 1 (-149) else .fin false 2 u
  | .log2 => if ltF (.fin false m e) (.fin false 1 (-1)) || ltF (.fin false 2 0) (.fin false m e) then .fin false 2 u
      else .fin false 1 (-22)
  | .sin | .cos => .fin false 1 (-21)
  | .tanh => if u + 1 < -24 then .fin false 1 (-24) else .fin false 2 u

/-- Does a candidate lie within the bound? Where the exact result is beyond the largest finite value the spec states no
bound, and the infinity and the largest finite value of its sign are both accepted. -/
def Approx.accepts (r b : FVal) (c : Word32) : Bool :=
  let big := fmt32.encode (absF r) 1 true false
  match fmt32.decode c.toNat with
  | .fin neg cm ce =>
    if big.2 &&& flagOF != 0 then c.toNat % 2 ^ 31 == fmt32.maxEnc && neg == signF r
    else !ltF b (absF (addF 0 (.fin neg cm ce) (negF r)).1)
  | .inf neg => big.2 &&& flagOF != 0 && neg == signF r
  | .nan _ => false

/-- The result of an approximation for a finite nonzero input, as every core of the part gives it. -/
def Approx.value (k : Approx) (x : Word32) (neg : Bool) (m : Nat) (e : Int) : Word32 :=
  let r := k.ref neg m e
  let c := Config.approx k.opcode x
  if Approx.accepts r (k.bound m e r) c then c else BitVec.ofNat 32 (fmt32.encode r 0 false false).1

def infBits (neg : Bool) : Word32 := BitVec.ofNat 32 (fmt32.infEnc + if neg then 2 ^ 31 else 0)
def zeroBits (neg : Bool) : Word32 := if neg then 0x80000000 else 0
def nanBits : Word32 := 0x7FC00000

/-- An input that FTZ has taken to a zero of its sign. -/
def ftzWord (ftz : Bool) (x : Word32) : Word32 := if ftz && x.toNat % 2 ^ 31 < 2 ^ 23 then zeroBits (x.getLsbD 31) else x

/-- FTZ on a result, with UF for a flush (R107). -/
def ftzOut (ftz : Bool) (x : Word32 × BitVec 6) : Word32 × BitVec 6 :=
  let n := x.1.toNat % 2 ^ 31
  if ftz && n != 0 && n < 2 ^ 23 then (zeroBits (x.1.getLsbD 31), x.2 ||| flagUF) else x

/-- UF of EXP2: every finite input below −126 but the integers −149 to −127 (R107). -/
def exp2Uf (neg : Bool) (m : Nat) (e : Int) : BitVec 6 :=
  let x : FVal := .fin neg m e
  let (z, exact) := toIntF 1 neg m e
  if ltF x (.fin true 126 0) && !(exact && -149 ≤ z && z ≤ -127) then flagUF else 0

/-- A zero or infinite input (R107). -/
def Approx.atZero (k : Approx) (neg : Bool) : Word32 × BitVec 6 :=
  match k with
  | .rcp | .rsq => (infBits neg, flagDZ)
  | .log2 => (infBits true, flagDZ)
  | .exp2 | .cos => (0x3F800000, 0)
  | .sin | .tanh => (zeroBits neg, 0)
def Approx.atInf (k : Approx) (neg : Bool) : Word32 × BitVec 6 :=
  match k with
  | .rcp => (zeroBits neg, 0)
  | .rsq => if neg then (nanBits, flagNV) else (0, 0)
  | .log2 => if neg then (nanBits, flagNV) else (infBits false, 0)
  | .exp2 => (if neg then 0 else infBits false, 0)
  | .sin | .cos => (nanBits, flagNV)
  | .tanh => (if neg then 0xBF800000 else 0x3F800000, 0)

/-- One of the seven approximations at one lane (R107). -/
def Approx.eval (k : Approx) (sat ftz : Bool) (w : Word32) : Word32 × BitVec 6 :=
  let x := ftzWord ftz w
  match fmt32.decode x.toNat with
  | .nan sig => (nanBits, if sig then flagNV else 0)
  | .inf neg => k.atInf neg
  | .fin neg m e =>
    if m = 0 then k.atZero neg
    else if neg && (k == .rsq || k == .log2) then (nanBits, flagNV)
    else if k = .log2 && x = 0x3F800000 then (0, 0)
    else if k = .exp2 then
      if !ltF (.fin neg m e) (.fin false 128 0) then
        (if sat then (0x7F7FFFFF, flagOF ||| flagSAT) else (infBits false, flagOF))
      else if ltF (.fin neg m e) (.fin true 150 0) then (0, flagUF)
      else
        let (z, exact) := toIntF 1 neg m e
        if exact && -149 ≤ z && z ≤ -127 then ftzOut ftz (BitVec.ofNat 32 (2 ^ (z + 149).toNat), 0)
        else ftzOut ftz (k.value x neg m e, exp2Uf neg m e)
    else ftzOut ftz (k.value x neg m e, 0)

/-- A lane word of one of the approximations. -/
def laneApprox (i : Instr) (k : Approx) (o : FV3) (s : State) : Host.Outcome State Fault Refusal :=
  laneV i o.guard o.d (fun s l => k.eval o.sat s.ftz (s.rv o.a.toNat l)) s

/-- The square root with one rounding (R107): two more bits than the format and a sticky bit hold it exactly. -/
def sqrtF (x : FVal) : FVal × BitVec 6 :=
  match x with
  | .nan sig => (.nan false, if sig then flagNV else 0)
  | .inf neg => if neg then (.nan false, flagNV) else (.inf false, 0)
  | .fin neg m e =>
    if m = 0 then (.fin neg 0 e, 0)
    else if neg then (.nan false, flagNV)
    else
      let m' := if e % 2 = 0 then m else 2 * m
      let e' := if e % 2 = 0 then e else e - 1
      let n := m' * 2 ^ 64
      let r := isqrt n
      (.fin false (2 * r + if r * r = n then 0 else 1) (e' / 2 - 33), 0)

/-- RCP (R107). -/
def execRcp (o : FV3) (s : State) : Host.Outcome State Fault Refusal := laneApprox (.rcp o) .rcp o s

/-- RSQ (R107). -/
def execRsq (o : FV3) (s : State) : Host.Outcome State Fault Refusal := laneApprox (.rsq o) .rsq o s

/-- SQRT (R107). -/
def execSqrt (o : FV3) (s : State) : Host.Outcome State Fault Refusal :=
  laneV (.sqrt o) o.guard o.d (fun s l => s.fin32 o (sqrtF (s.fa o l))) s

/-- EXP2 (R107). -/
def execExp2 (o : FV3) (s : State) : Host.Outcome State Fault Refusal := laneApprox (.exp2 o) .exp2 o s

/-- LOG2 (R107). -/
def execLog2 (o : FV3) (s : State) : Host.Outcome State Fault Refusal := laneApprox (.log2 o) .log2 o s

/-- SIN (R107). -/
def execSin (o : FV3) (s : State) : Host.Outcome State Fault Refusal := laneApprox (.sin o) .sin o s

/-- COS (R107). -/
def execCos (o : FV3) (s : State) : Host.Outcome State Fault Refusal := laneApprox (.cos o) .cos o s

/-- TANH (R107). -/
def execTanh (o : FV3) (s : State) : Host.Outcome State Fault Refusal := laneApprox (.tanh o) .tanh o s

end Sys2Proof.Machine
end

