-- ==== Sys2Proof/Machine/Dispatch.lean ====
section
/-! DEFINITION. The one match that gives each instruction its meaning. -/

namespace Sys2Proof.Machine

/-- What an instruction does. -/
def exec (i : Instr) (s : State) : Host.Outcome State Fault Refusal :=
  match i with
  | .nop o => Sys2Proof.Machine.execNop o s
  | .br o => Sys2Proof.Machine.execBr o s
  | .brg o => Sys2Proof.Machine.execBrg o s
  | .jt o => Sys2Proof.Machine.execJt o s
  | .jtv o => Sys2Proof.Machine.execJtv o s
  | .call o => Sys2Proof.Machine.execCall o s
  | .calli o => Sys2Proof.Machine.execCalli o s
  | .ret o => Sys2Proof.Machine.execRet o s
  | .lpad o => Sys2Proof.Machine.execLpad o s
  | .regang o => Sys2Proof.Machine.execRegang o s
  | .exit o => Sys2Proof.Machine.execExit o s
  | .trap o => Sys2Proof.Machine.execTrap o s
  | .brk o => Sys2Proof.Machine.execBrk o s
  | .elect o => Sys2Proof.Machine.execElect o s
  | .acquire o => Sys2Proof.Machine.execAcquire o s
  | .maskrd o => Sys2Proof.Machine.execMaskrd o s
  | .maskwr o => Sys2Proof.Machine.execMaskwr o s
  | .sread o => Sys2Proof.Machine.execSread o s
  | .swriteFflags o => Sys2Proof.Machine.execSwriteFflags o s
  | .swriteFmode o => Sys2Proof.Machine.execSwriteFmode o s
  | .swritePrivhwm o => Sys2Proof.Machine.execSwritePrivhwm o s
  | .swriteTrapvec o => Sys2Proof.Machine.execSwriteTrapvec o s
  | .gmovi o => Sys2Proof.Machine.execGmovi o s
  | .gmovh o => Sys2Proof.Machine.execGmovh o s
  | .glea o => Sys2Proof.Machine.execGlea o s
  | .gsel o => Sys2Proof.Machine.execGsel o s
  | .gset o => Sys2Proof.Machine.execGset o s
  | .gadd o => Sys2Proof.Machine.execGadd o s
  | .gsub o => Sys2Proof.Machine.execGsub o s
  | .gmul o => Sys2Proof.Machine.execGmul o s
  | .gmulh o => Sys2Proof.Machine.execGmulh o s
  | .gdiv o => Sys2Proof.Machine.execGdiv o s
  | .grem o => Sys2Proof.Machine.execGrem o s
  | .gand o => Sys2Proof.Machine.execGand o s
  | .gor o => Sys2Proof.Machine.execGor o s
  | .gxor o => Sys2Proof.Machine.execGxor o s
  | .gshl o => Sys2Proof.Machine.execGshl o s
  | .gshr o => Sys2Proof.Machine.execGshr o s
  | .gsar o => Sys2Proof.Machine.execGsar o s
  | .gmin o => Sys2Proof.Machine.execGmin o s
  | .gmax o => Sys2Proof.Machine.execGmax o s
  | .gaddImm o => Sys2Proof.Machine.execGaddImm o s
  | .gsubImm o => Sys2Proof.Machine.execGsubImm o s
  | .gmulImm o => Sys2Proof.Machine.execGmulImm o s
  | .gmulhImm o => Sys2Proof.Machine.execGmulhImm o s
  | .gdivImm o => Sys2Proof.Machine.execGdivImm o s
  | .gremImm o => Sys2Proof.Machine.execGremImm o s
  | .gandImm o => Sys2Proof.Machine.execGandImm o s
  | .gorImm o => Sys2Proof.Machine.execGorImm o s
  | .gxorImm o => Sys2Proof.Machine.execGxorImm o s
  | .gshlImm o => Sys2Proof.Machine.execGshlImm o s
  | .gshrImm o => Sys2Proof.Machine.execGshrImm o s
  | .gsarImm o => Sys2Proof.Machine.execGsarImm o s
  | .gminImm o => Sys2Proof.Machine.execGminImm o s
  | .gmaxImm o => Sys2Proof.Machine.execGmaxImm o s
  | .iadd o => Sys2Proof.Machine.execIadd o s
  | .isub o => Sys2Proof.Machine.execIsub o s
  | .imul o => Sys2Proof.Machine.execImul o s
  | .imulh o => Sys2Proof.Machine.execImulh o s
  | .imad o => Sys2Proof.Machine.execImad o s
  | .iand o => Sys2Proof.Machine.execIand o s
  | .ior o => Sys2Proof.Machine.execIor o s
  | .ixor o => Sys2Proof.Machine.execIxor o s
  | .ishl o => Sys2Proof.Machine.execIshl o s
  | .ishr o => Sys2Proof.Machine.execIshr o s
  | .isar o => Sys2Proof.Machine.execIsar o s
  | .imin o => Sys2Proof.Machine.execImin o s
  | .imax o => Sys2Proof.Machine.execImax o s
  | .iabs o => Sys2Proof.Machine.execIabs o s
  | .iclz o => Sys2Proof.Machine.execIclz o s
  | .ipopc o => Sys2Proof.Machine.execIpopc o s
  | .iaddImm o => Sys2Proof.Machine.execIaddImm o s
  | .isubImm o => Sys2Proof.Machine.execIsubImm o s
  | .imulImm o => Sys2Proof.Machine.execImulImm o s
  | .iandImm o => Sys2Proof.Machine.execIandImm o s
  | .iorImm o => Sys2Proof.Machine.execIorImm o s
  | .ixorImm o => Sys2Proof.Machine.execIxorImm o s
  | .ishlImm o => Sys2Proof.Machine.execIshlImm o s
  | .ishrImm o => Sys2Proof.Machine.execIshrImm o s
  | .isarImm o => Sys2Proof.Machine.execIsarImm o s
  | .iminImm o => Sys2Proof.Machine.execIminImm o s
  | .imaxImm o => Sys2Proof.Machine.execImaxImm o s
  | .ibfx o => Sys2Proof.Machine.execIbfx o s
  | .ibfi o => Sys2Proof.Machine.execIbfi o s
  | .iset o => Sys2Proof.Machine.execIset o s
  | .isetImm o => Sys2Proof.Machine.execIsetImm o s
  | .mov o => Sys2Proof.Machine.execMov o s
  | .movi o => Sys2Proof.Machine.execMovi o s
  | .movg o => Sys2Proof.Machine.execMovg o s
  | .sel o => Sys2Proof.Machine.execSel o s
  | .qop o => Sys2Proof.Machine.execQop o s
  | .qmov o => Sys2Proof.Machine.execQmov o s
  | .fadd o => Sys2Proof.Machine.execFadd o s
  | .fsub o => Sys2Proof.Machine.execFsub o s
  | .fmul o => Sys2Proof.Machine.execFmul o s
  | .ffma o => Sys2Proof.Machine.execFfma o s
  | .fmin o => Sys2Proof.Machine.execFmin o s
  | .fmax o => Sys2Proof.Machine.execFmax o s
  | .fset o => Sys2Proof.Machine.execFset o s
  | .fclass o => Sys2Proof.Machine.execFclass o s
  | .frnd o => Sys2Proof.Machine.execFrnd o s
  | .hadd2 o => Sys2Proof.Machine.execHadd2 o s
  | .hmul2 o => Sys2Proof.Machine.execHmul2 o s
  | .hfma2 o => Sys2Proof.Machine.execHfma2 o s
  | .cvt o => Sys2Proof.Machine.execCvt o s
  | .dp4 o => Sys2Proof.Machine.execDp4 o s
  | .dp8 o => Sys2Proof.Machine.execDp8 o s
  | .qpack o => Sys2Proof.Machine.execQpack o s
  | .qunpk o => Sys2Proof.Machine.execQunpk o s
  | .rcp o => Sys2Proof.Machine.execRcp o s
  | .rsq o => Sys2Proof.Machine.execRsq o s
  | .sqrt o => Sys2Proof.Machine.execSqrt o s
  | .exp2 o => Sys2Proof.Machine.execExp2 o s
  | .log2 o => Sys2Proof.Machine.execLog2 o s
  | .sin o => Sys2Proof.Machine.execSin o s
  | .cos o => Sys2Proof.Machine.execCos o s
  | .tanh o => Sys2Proof.Machine.execTanh o s
  | .lperm o => Sys2Proof.Machine.execLperm o s
  | .bcast o => Sys2Proof.Machine.execBcast o s
  | .qfold o => Sys2Proof.Machine.execQfold o s
  | .redx o => Sys2Proof.Machine.execRedx o s
  | .scanx o => Sys2Proof.Machine.execScanx o s
  | .ld o => Sys2Proof.Machine.execLd o s
  | .st o => Sys2Proof.Machine.execSt o s
  | .ldd o => Sys2Proof.Machine.execLdd o s
  | .stq o => Sys2Proof.Machine.execStq o s
  | .pf o => Sys2Proof.Machine.execPf o s
  | .rld o => Sys2Proof.Machine.execRld o s
  | .rst o => Sys2Proof.Machine.execRst o s
  | .rat o => Sys2Proof.Machine.execRat o s
  | .atom o => Sys2Proof.Machine.execAtom o s
  | .red o => Sys2Proof.Machine.execRed o s
  | .fence o => Sys2Proof.Machine.execFence o s
  | .clean o => Sys2Proof.Machine.execClean o s
  | .inval o => Sys2Proof.Machine.execInval o s
  | .icinv o => Sys2Proof.Machine.execIcinv o s
  | .attempt o => Sys2Proof.Machine.execAttempt o s
  | .otherwise o => Sys2Proof.Machine.execOtherwise o s
  | .settle o => Sys2Proof.Machine.execSettle o s
  | .abandon o => Sys2Proof.Machine.execAbandon o s
  | .retry o => Sys2Proof.Machine.execRetry o s
  | .xstat o => Sys2Proof.Machine.execXstat o s
  | .waitw o => Sys2Proof.Machine.execWaitw o s
  | .stinit o => Sys2Proof.Machine.execStinit o s
  | .starr o => Sys2Proof.Machine.execStarr o s
  | .stexp o => Sys2Proof.Machine.execStexp o s
  | .stwait o => Sys2Proof.Machine.execStwait o s
  | .fbegin o => Sys2Proof.Machine.execFbegin o s
  | .fend o => Sys2Proof.Machine.execFend o s
  | .copy o => Sys2Proof.Machine.execCopy o s
  | .msgsend o => Sys2Proof.Machine.execMsgsend o s
  | .launch o => Sys2Proof.Machine.execLaunch o s
  | .dturn o => Sys2Proof.Machine.execDturn o s
  | .dstat o => Sys2Proof.Machine.execDstat o s
  | .tld o => Sys2Proof.Machine.execTld o s
  | .tst o => Sys2Proof.Machine.execTst o s
  | .tzero o => Sys2Proof.Machine.execTzero o s
  | .tmov o => Sys2Proof.Machine.execTmov o s
  | .trd o => Sys2Proof.Machine.execTrd o s
  | .twr o => Sys2Proof.Machine.execTwr o s
  | .cimld o => Sys2Proof.Machine.execCimld o s
  | .cimsel o => Sys2Proof.Machine.execCimsel o s
  | .mma o => Sys2Proof.Machine.execMma o s
  | .mmas o => Sys2Proof.Machine.execMmas o s
  | .sheaf o => Sys2Proof.Machine.execSheaf o s
  | .mwait o => Sys2Proof.Machine.execMwait o s
  | .laneResultLand a b => Sys2Proof.Machine.execLaneResultLand a b s
  | .pageWalk o => Sys2Proof.Machine.execPageWalk o s
  | .faultReplay o => Sys2Proof.Machine.execFaultReplay o s
  | .trapDelivery o => Sys2Proof.Machine.execTrapDelivery o s
  | .acquireGrant o => Sys2Proof.Machine.execAcquireGrant o s
  | .serialTokenGrant o => Sys2Proof.Machine.execSerialTokenGrant o s
  | .notice o => Sys2Proof.Machine.execNotice o s
  | .pollInterval o => Sys2Proof.Machine.execPollInterval o s
  | .watchdogExpiry o => Sys2Proof.Machine.execWatchdogExpiry o s
  | .matrixOpStart o => Sys2Proof.Machine.execMatrixOpStart o s
  | .matrixOpRetire o => Sys2Proof.Machine.execMatrixOpRetire o s
  | .copyElementLand o => Sys2Proof.Machine.execCopyElementLand o s
  | .handlerAdmit o => Sys2Proof.Machine.execHandlerAdmit o s
  | .messageAccept o => Sys2Proof.Machine.execMessageAccept o s
  | .wayBankWake o => Sys2Proof.Machine.execWayBankWake o s
  | .evictionOrder o => Sys2Proof.Machine.execEvictionOrder o s
  | .baleComplete o => Sys2Proof.Machine.execBaleComplete o s
  | .baleRestart o => Sys2Proof.Machine.execBaleRestart o s
  | .paddockRestore o => Sys2Proof.Machine.execPaddockRestore o s
  | .paddockPlace o => Sys2Proof.Machine.execPaddockPlace o s
  | .faultNotification o => Sys2Proof.Machine.execFaultNotification o s
  | .faultResponse o => Sys2Proof.Machine.execFaultResponse o s
  | .doorbellWrite a b => Sys2Proof.Machine.execDoorbellWrite a b s
  | .nopPacket o => Sys2Proof.Machine.execNopPacket o s
  | .launchPacket o => Sys2Proof.Machine.execLaunchPacket o s
  | .copyPacket o => Sys2Proof.Machine.execCopyPacket o s
  | .barrierPacket o => Sys2Proof.Machine.execBarrierPacket o s
  | .barrierEvaluate o => Sys2Proof.Machine.execBarrierEvaluate o s
  | .barrierPoll o => Sys2Proof.Machine.execBarrierPoll o s
  | .signalPacket o => Sys2Proof.Machine.execSignalPacket o s
  | .scriptLoad o => Sys2Proof.Machine.execScriptLoad o s
  | .scriptRun o => Sys2Proof.Machine.execScriptRun o s
  | .tlbinv o => Sys2Proof.Machine.execTlbinv o s
  | .packetComplete o => Sys2Proof.Machine.execPacketComplete o s
  | .sli o => Sys2Proof.Machine.execSli o s
  | .slui o => Sys2Proof.Machine.execSlui o s
  | .sarg o => Sys2Proof.Machine.execSarg o s
  | .sadd o => Sys2Proof.Machine.execSadd o s
  | .ssub o => Sys2Proof.Machine.execSsub o s
  | .sand o => Sys2Proof.Machine.execSand o s
  | .sor o => Sys2Proof.Machine.execSor o s
  | .sxor o => Sys2Proof.Machine.execSxor o s
  | .saddi o => Sys2Proof.Machine.execSaddi o s
  | .sshl o => Sys2Proof.Machine.execSshl o s
  | .sshr o => Sys2Proof.Machine.execSshr o s
  | .sld o => Sys2Proof.Machine.execSld o s
  | .sst o => Sys2Proof.Machine.execSst o s
  | .ssig o => Sys2Proof.Machine.execSsig o s
  | .sbeq o => Sys2Proof.Machine.execSbeq o s
  | .sbne o => Sys2Proof.Machine.execSbne o s
  | .sblt o => Sys2Proof.Machine.execSblt o s
  | .sloop o => Sys2Proof.Machine.execSloop o s
  | .senq o => Sys2Proof.Machine.execSenq o s
  | .sabort o => Sys2Proof.Machine.execSabort o s
  | .fabricRequest o => Sys2Proof.Machine.execFabricRequest o s
  | .stallNotice o => Sys2Proof.Machine.execStallNotice o s
  | .planeDead a b => Sys2Proof.Machine.execPlaneDead a b s
  | .planeRestore a b => Sys2Proof.Machine.execPlaneRestore a b s
  | .flitCrcFail o => Sys2Proof.Machine.execFlitCrcFail o s
  | .linkRetrain a b => Sys2Proof.Machine.execLinkRetrain a b s
  | .criticalRequest a b c => Sys2Proof.Machine.execCriticalRequest a b c s
  | .hostRdmaWrite a b c => Sys2Proof.Machine.execHostRdmaWrite a b c s
  | .hostRdmaRead a b c => Sys2Proof.Machine.execHostRdmaRead a b c s
  | .hostAtomic a b c d e => Sys2Proof.Machine.execHostAtomic a b c d e s
  | .connectionFail o => Sys2Proof.Machine.execConnectionFail o s
  | .heartbeatTimeout o => Sys2Proof.Machine.execHeartbeatTimeout o s
  | .eccUncorrectable a b => Sys2Proof.Machine.execEccUncorrectable a b s
  | .unassignedOpcode o => Sys2Proof.Machine.execUnassignedOpcode o s
  | .swriteReadOnly o => Sys2Proof.Machine.execSwriteReadOnly o s
  | .accessPerformed a b => Sys2Proof.Machine.execAccessPerformed a b s
  | .invalidationAcknowledged a b => Sys2Proof.Machine.execInvalidationAcknowledged a b s
  | .missFill a b => Sys2Proof.Machine.execMissFill a b s
  | .registerAnswer a b => Sys2Proof.Machine.execRegisterAnswer a b s
  | .spillBlockWritten o => Sys2Proof.Machine.execSpillBlockWritten o s
  | .preemptionSaveDone o => Sys2Proof.Machine.execPreemptionSaveDone o s
  | .zeroingComplete o => Sys2Proof.Machine.execZeroingComplete o s
  | .powerGate o => Sys2Proof.Machine.execPowerGate o s
  | .linkDown o => Sys2Proof.Machine.execLinkDown o s
  | .turnStep => Sys2Proof.Machine.execTurnStep s
  | .sdone => Sys2Proof.Machine.execSdone s
  | .getVersion => Sys2Proof.Machine.execGetVersion s
  | .getCapabilities => Sys2Proof.Machine.execGetCapabilities s
  | .negotiateAlgorithms => Sys2Proof.Machine.execNegotiateAlgorithms s
  | .getDigests => Sys2Proof.Machine.execGetDigests s
  | .getCertificate => Sys2Proof.Machine.execGetCertificate s
  | .challenge => Sys2Proof.Machine.execChallenge s
  | .getMeasurements => Sys2Proof.Machine.execGetMeasurements s
  | .keyExchange => Sys2Proof.Machine.execKeyExchange s
  | .finish => Sys2Proof.Machine.execFinish s
  | .heartbeat => Sys2Proof.Machine.execHeartbeat s
  | .keyUpdate => Sys2Proof.Machine.execKeyUpdate s
  | .endSession => Sys2Proof.Machine.execEndSession s
  | .claim => Sys2Proof.Machine.execClaim s
  | .bind => Sys2Proof.Machine.execBind s
  | .keyset => Sys2Proof.Machine.execKeyset s
  | .keyclr => Sys2Proof.Machine.execKeyclr s
  | .devreset => Sys2Proof.Machine.execDevreset s
  | .hedgereset => Sys2Proof.Machine.execHedgereset s
  | .fwwrite => Sys2Proof.Machine.execFwwrite s
  | .fwcommit => Sys2Proof.Machine.execFwcommit s
  | .health => Sys2Proof.Machine.execHealth s
  | .powerOn => Sys2Proof.Machine.execPowerOn s
  | .thermalTrip => Sys2Proof.Machine.execThermalTrip s
  | .retirementReport => Sys2Proof.Machine.execRetirementReport s
  | .powerLoss => Sys2Proof.Machine.execPowerLoss s

end Sys2Proof.Machine
end

