-- ==== Sys2Proof/Machine/Issue.lean ====
section
/-! DEFINITION. The issue of a part's next word or pair (R42 to R50, R198, R202, R203), of a script's next op (R366),
and of a step without a word. -/

namespace Sys2Proof.Machine

/-- The outcome of a step. -/
abbrev Out := Host.Outcome State Fault Refusal

/-- Go on from a next state. -/
def onNext (o : Out) (k : State → Out) : Out :=
  match o with
  | .next s => k s
  | .fault f => .fault f
  | .refused r => .refused r

/-- The lanes that a replayed word issues for: those that parked at it or earlier, less those parked again (R203). -/
def Part.replayLanes (p : Part) (r : Replay) (pc : Word64) : LaneMask :=
  let again := p.parked.foldl (fun m x => m ||| x.lanes) 0
  (r.recs.foldl (fun m x => if x.pc.toNat ≤ pc.toNat then m ||| x.lanes else m) 0) &&& ~~~again

/-- The lanes that parked at exactly this word: of a pair they issue the memory half alone (R44). -/
def Replay.atWord (r : Replay) (pc : Word64) : LaneMask :=
  r.recs.foldl (fun m x => if x.pc = pc then m ||| x.lanes else m) 0

/-- The lanes that may be active in the word in issue (R8, R201, R203). -/
def State.issueLanes (s : State) : LaneMask :=
  match s.me.replay with
  | some r => s.me.replayLanes r s.me.pc
  | none => s.present &&& ~~~(s.me.parked.foldl (fun m x => m ||| x.lanes) 0)

/-- The word has issued and its part goes on at the next word: no trap, abort, stall or park. -/
def issued (s t : State) : Bool :=
  t.me.id == s.me.id && t.me.state == .ready && t.me.trap.isNone && t.me.pc == s.me.pc + 8 && !t.me.drain &&
  t.me.depth == s.me.depth && t.me.stack.length == s.me.stack.length

/-- A part with results in flight waits until they have landed (R47). -/
def Part.marked (p : Part) : Part := if p.trap.isNone && !p.inflight.isEmpty then { p with drain := true } else p

/-- A switch marker parks the part until its lane results have landed, and with it every part that its word split off,
those of the gang whose identifiers are `n` or more (R47, R70); a word that did not issue has none. -/
def State.mark (s : State) (m : Bool) (n : Nat) : State :=
  match s.me.state with
  | .issued _ | .parked .effect | .faultParked | .exited => s
  | _ =>
    if m then { s with me := s.me.marked
                       parts := updWhere (fun p => n ≤ p.id && p.gang == s.me.gang) Part.marked s.parts }
    else s

/-- The lanes in which a word in issue would read a poisoned register (R397). -/
def State.spoiled (s : State) (i : Instr) : LaneMask :=
  let n := i.names
  if n.gs.any s.me.badG.contains then s.present
  else if s.gang.badV.isEmpty then 0
  else maskOfList ((lanesOf (s.active (Guard.ofWord (encodeInstr i)))).filter fun l =>
    s.gang.badV.any fun k => k % 32 == l && n.vs.any fun r => r.1 ≤ k / 32 && k / 32 < r.1 + r.2)

/-- A word that reads a poisoned register takes POISON, once it has passed the checks of R50 (R211, R397). -/
def State.poisonWord (s : State) (i : Instr) : Option TrapRec :=
  if s.spoiled i = 0 || (s.contextTrap i).isSome then none else some { code := 0x0B, lanes := s.spoiled i }

/-- Gang registers that a word has written are poisoned no more. -/
def State.cured (t : State) (i : Instr) : State :=
  if t.me.badG.isEmpty then t else { t with me := { t.me with badG := t.me.badG.filter fun r => !i.names.gd.contains r } }

/-- One word alone. -/
def issueWord (s : State) (x : Decoded) : Out :=
  let s1 := { s with me := { s.me with act := s.issueLanes, second := false, hide := 0 } }
  match s1.poisonWord x.instr with
  | some t => .next (s1.raise t)
  | none => onNext (exec x.instr s1) fun t =>
    .next ((if issued s t then t.cured x.instr else t).mark x.mark s.nextId)

/-- The traps of R50 that both halves of a pair pass before either issues, in the order of R51. -/
def State.pairContext (s : State) (a b : Instr) : Option (Nat × Nat) :=
  match s.masked a, s.masked b with
  | some f, _ => some (3, f)
  | none, some f => some (3, f + 128)
  | none, none =>
    match s.unallotted a, s.unallotted b with
    | some x, _ => some (4, x)
    | none, some x => some (4, x)
    | none, none =>
      if s.uncovered a then some (0x0E, a.opcode) else if s.uncovered b then some (0x0E, b.opcode) else none

/-- A pair whose memory half waits has not issued: no lane has parked at it (R44). -/
def State.unparked (t s : State) : State :=
  match t.me.state with
  | .issued _ => { t with me := { t.me with parked := s.me.parked } }
  | _ => t

/-- A pair (R42 to R46): the memory half first, whose traps withhold the other half, and a lane half before a gang half,
so that both read what their registers held before the pair. -/
def issuePair (s : State) (a b : Decoded) : Out :=
  match pairTrap a b with
  | some aux => .next (s.trapAux 2 aux)
  | none =>
    match s.pairContext a.instr b.instr with
    | some (code, aux) => .next (s.trapAux code aux)
    | none =>
      let bFirst := b.instr.issueClass == .memory || (a.instr.issueClass == .gang && b.instr.issueClass != .gang)
      let x := if bFirst then b else a
      let y := if bFirst then a else b
      let lanes := s.issueLanes
      let own := match s.me.replay with | some r => if x.instr.issueClass == .memory then r.atWord s.me.pc else 0 | none => 0
      let s0 := { s with me := { s.me with act := lanes, second := false, hide := 0 } }
      match s0.poisonWord a.instr, s0.poisonWord b.instr with
      | some t, _ => .next (s0.raise t)
      | none, some t => .next (s0.raise t)
      | none, none => onNext (exec x.instr { s with me := { s.me with act := lanes, second := bFirst, hide := 0 } }) fun t =>
        if !issued s t then .next (t.unparked s)
        else
          let t1 := { t with me := { t.me with pc := s.me.pc, second := !bFirst, act := lanes &&& ~~~own,
                                               hide := t.me.inflight.length - s.me.inflight.length } }
          onNext (exec y.instr t1) fun u =>
            if !issued { t1 with me := { t1.me with drain := false } } u then .next u
            else
              let u1 := { u with me := { u.me with pc := s.me.pc + 16, second := false, hide := 0 } }
              .next (((u1.cured a.instr).cured b.instr).mark b.mark s.nextId)

/-- A stop point of the part's parked lanes (R202). -/
def stopPoint (a : Decoded) (b : Option Decoded) : Bool :=
  a.instr.stops || match b with | some y => y.instr.stops | none => false

/-- A part with parked lanes does not issue a stop point, nor anything while a deferred effect waits for them (R129). -/
def State.atStop (s : State) (stop : Bool) : Bool :=
  (stop || s.me.recording.isSome) && s.me.replay.isNone && !s.me.parked.isEmpty

/-- The end of a replay (R203, R204): the part parks again, takes the trap that was held, or goes on at the stop
point. -/
def State.replayDone (s : State) : State :=
  let s1 := { s with me := { s.me with replay := none } }
  if !s.me.parked.isEmpty then
    { s1 with me := { s1.me with state := .faultParked, trap := s.me.replay.bind (·.held) } }
  else match s.me.replay.bind (·.held) with
    | none => s1
    | some t => if s.me.inflight.isEmpty then s1.deliver t
      else { s1 with me := { s1.me with state := .parked .trap, trap := some t } }

/-- A part that waits to issue in the quadrant of the part in hand, of G work. -/
def State.gReady (s : State) (p : Part) : Bool :=
  let g := s.getGang p.gang
  let w := s.getWg g.workgroup
  let c := s.getCtx w.context
  p.state == .ready && !p.drain && w.core == s.here && g.quad == s.gang.quad && w.state == .running && c.live && !c.harvest

/-- May the part in hand issue (R197)? No H part issues while a G part of its quadrant is Ready (R198, R325). -/
def State.mayIssue (s : State) : Bool :=
  s.me.id != 0 && s.ctx.live && s.wg.state == .running && !s.me.drain && (s.me.state == .ready || s.me.state.held) &&
  !(s.ctx.harvest && s.parts.any s.gReady)

/-- Issue the next word or pair of the part in hand. DESIGN CHOICE (log 44): an ILLEGAL of a pair's first half is taken
before its second word is fetched; R50 does not order that fetch and step 2 of the first half. -/
def State.issueNext (s : State) : Out :=
  if s.me.doomed then .next (s.hwAbort 1)
  else if (s.me.replay.map fun r => r.stop == s.me.pc) == some true then .next s.replayDone
  else
    let (s1, f) := s.fetch s.me.pc
    match f with
    | .word w =>
      match decodeWord w with
      | .error aux => .next (s1.trapAux 1 aux)
      | .ok a =>
        if !a.pair then
          if s1.atStop (stopPoint a none) then .next { s1 with me := { s1.me with state := .faultParked } }
          else issueWord s1 a
        else if (bitFault a.instr).isSome then .next (s1.trapAux 1 ((bitFault a.instr).getD 0))
        else
          let (s2, g) := s1.fetch (s1.me.pc + 8)
          match g with
          | .word w2 =>
            match decodeWord w2 with
            | .error aux => .next (s2.trapAux 1 (aux + 128))
            | .ok b =>
              if (bitFault b.instr).isSome then .next (s2.trapAux 1 ((bitFault b.instr).getD 0 + 128))
              else if s2.atStop (stopPoint a (some b)) then .next { s2 with me := { s2.me with state := .faultParked } }
              else issuePair s2 a b
          | o => .next (s2.fetchFail o (s1.me.pc + 8) true)
    | o => .next (s1.fetchFail o s.me.pc false)

/-- A part that stops being a candidate counts as least recent when it is Ready again (R198). -/
def Part.rested (p : Part) : Part :=
  match p.state with
  | .ready | .issued _ => if p.drain then { p with lastIssue := 0 } else p
  | _ => { p with lastIssue := 0 }

/-- A part held at issue has not issued: it keeps its place in the order. -/
def Part.heldSince (p : Part) (last : Nat) : Part :=
  match p.state with
  | .issued _ => { p with lastIssue := last }
  | _ => p

/-- A part is chosen to issue (R198). -/
def State.issue (s : State) (p : Nat) : Out :=
  let s1 := s.takeUp p
  if s1.mayIssue then
    onNext { s1 with me := { s1.me with state := .ready, lastIssue := s1.tick, lastTick := s1.tick } }.issueNext fun t =>
      .next { t with me := { t.me.rested.heldSince s1.me.lastIssue with second := false, hide := 0 } }
  else .next s1

/-- Take up the oldest script run of a queue. -/
def State.takeUpScript (s : State) (q : Nat) : State :=
  if s.scr.live && s.scr.queue = q then s
  else
    let all := if s.scr.live then s.scr :: s.scripts else s.scripts
    match all.find? fun r => r.live && r.queue == q with
    | none => { s with scr := {}, scripts := all }
    | some r => { s with scr := r, scripts := all.erase r }

/-- What the script run in hand executes next; a word that R368 would not have accepted is none. -/
def State.scriptWord (s : State) : Option Instr :=
  match s.scr.words[s.scr.pc]? with
  | some w => decodeScript w
  | none => none

/-- A script executes its next op (R366). -/
def State.issueScript (s : State) (q : Nat) : Out :=
  let s1 := s.takeUpScript q
  if s1.scr.live then
    match s1.scriptWord with
    | some i => exec i s1
    | none => .next s1
  else .next s1

/-- The steps that go on while compute is dark: power, and what the management endpoint does (R396, R399). -/
def darkEvent (i : Instr) : Bool :=
  match i with
  | .powerOn | .powerLoss | .thermalTrip | .getVersion | .getCapabilities | .negotiateAlgorithms | .getDigests
  | .getCertificate | .challenge | .getMeasurements | .keyExchange | .finish | .heartbeat | .keyUpdate | .endSession
  | .claim | .bind | .keyset | .keyclr | .devreset | .hedgereset | .fwwrite | .fwcommit | .health
  | .heartbeatTimeout _ => true
  | _ => false

/-- Perform what the machine does next. Before boot, in recovery and after a thermal trip nothing issues, and compute,
fabric and memory stay dark (R396, R399). -/
def runInput (i : Input) (s : State) : Out :=
  match i with
  | .issue p => if s.boot = .running then s.issue p else .next s
  | .script q => if s.boot = .running then s.issueScript q else .next s
  | .host c => .next (if s.boot = .running then s.hostNext c else s)
  | .event e =>
    if !e.isEvent then .refused .notAnEvent
    else if s.boot = .running || darkEvent e then exec e s else .next s

end Sys2Proof.Machine
end

