-- ==== Sys2Proof/Machine/Sched.lean ====
section
/-! DEFINITION. What the device does next when its agenda says nothing: one order among those that the rules allow
(R198, log 9). -/

namespace Sys2Proof.Machine

/-- Parts that may issue. -/
def State.ready (s : State) : List Part :=
  s.allParts.filter fun p =>
    let w := s.getWg (s.getGang p.gang).workgroup
    !p.drain && (p.state == .ready || p.state.held) && w.state == .running &&
    (s.getCtx w.context).live

/-- A part that may issue, with what decides between it and others. -/
structure Candidate where
  part : Nat
  /-- Core and quadrant. -/
  quadrant : Nat
  harvest : Bool
  last : Nat
  slot : Nat
  slice : Nat
  /-- When the part was last tried, whatever it has waited for since. -/
  tick : Nat
  /-- Its word waits for a walk, or was found held at issue less than 8 steps ago. -/
  held : Bool
  deriving DecidableEq, Repr

/-- A part as a candidate. -/
def State.candidate (s : State) (p : Part) : Candidate :=
  let g := s.getGang p.gang
  let w := s.getWg g.workgroup
  { part := p.id, quadrant := 4 * w.core + g.quad, harvest := (s.getCtx w.context).harvest, last := p.lastIssue,
    slot := g.slot, slice := lowestSlice p.slices, tick := p.lastTick,
    held := match p.state with
      | .issued .walk => !s.walks.isEmpty
      | .issued _ | .parked .effect => s.tick < p.lastTick + 8
      | _ => false }

/-- The order of R198 within a quadrant: G before H, then least recently issued, then the lower slot, then the lower
lowest slice; parts held at issue stand back. -/
def Candidate.before (a b : Candidate) : Bool :=
  if a.held != b.held then b.held
  else if a.held then a.tick < b.tick
  else if a.harvest != b.harvest then !a.harvest
  else if a.last ≠ b.last then a.last < b.last
  else if a.slot ≠ b.slot then a.slot < b.slot else a.slice < b.slice

/-- Keep the best candidate of each quadrant. -/
def keepBest (c : Candidate) : List Candidate → List Candidate
  | [] => [c]
  | x :: xs => if x.quadrant = c.quadrant then (if c.before x then c :: xs else x :: xs) else x :: keepBest c xs

/-- The part that issues next: the quadrants issue side by side, here one after another, the one whose best part has
waited longest first. -/
def State.nextPart (s : State) : Option Nat :=
  ((s.ready.foldl (fun bs p => keepBest (s.candidate p) bs) []).foldl (fun best c => match best with
    | none => some c
    | some b => if c.tick < b.tick then some c else some b) none).map (·.part)

/-! ## Steps without a word that may be due -/

/-- What a part waits for. -/
def Part.due (p : Part) : List Instr :=
  (List.range p.inflight.length).map (Instr.laneResultLand p.id ·) ++
  (List.range p.pending.length).map (Instr.accessPerformed p.id ·) ++
  p.acks.map (Instr.invalidationAcknowledged p.id ·) ++
  (match p.sleep with
    | some x => (List.range x.unanswered.length).map (Instr.registerAnswer p.id ·)
    | none => []) ++
  (match p.state with
    | .faultParked => [.faultReplay p.id]
    | _ => if p.trap.isSome then [.trapDelivery p.id] else [])

/-- What a core does. -/
def coreDue (k : Core) : List Instr :=
  let c := k.id - 1
  [.matrixOpStart c, .matrixOpRetire c, .acquireGrant c, .handlerAdmit c, .evictionOrder c]

/-- What the engines do for a queue. -/
def queueDue (q : Nat) : List Instr :=
  [.packetComplete q, .nopPacket q, .launchPacket q, .copyPacket q, .barrierPacket q, .barrierEvaluate q, .signalPacket q,
   .scriptLoad q, .scriptRun q, .tlbinv q]

/-- The queues that have work, packets not taken up or taken up and not completed: in the priority order of R346, those of
one priority in rotation. -/
def State.busyQueues (s : State) : List Nat :=
  let served := s.queues.map (·.handle)
  let qs := (s.rungQueues.filter (fun q => !served.contains q) ++ served).filter fun q =>
    (!s.qStopped q && s.nextSeq q < s.qWidx q) || !(s.getQueue q).packets.isEmpty
  (List.range 8).reverse.flatMap fun p => qs.filter fun q => s.qPriority q == p

/-- Steps without a word that the device itself takes, in the order in which they are tried: G before H (R319). -/
def State.due (s : State) : List Instr :=
  (putFirst (fun p => !(s.getCtx (s.ctxOfPart p)).harvest) s.allParts).flatMap Part.due ++
  (s.walks.map fun w => .pageWalk w.sector) ++
  ((putFirst (fun m => !m.harvest) s.misses).map fun m => .missFill m.slice m.line) ++
  (List.range s.notices.length).map .notice ++
  (List.range s.messages.length).map .messageAccept ++
  ((putFirst (fun j => !j.harvest) s.copies).map fun j => .copyElementLand j.id) ++
  s.allCores.flatMap coreDue ++
  (s.spills.flatMap fun x => [.spillBlockWritten x.workgroup, .baleComplete x.workgroup]) ++
  (List.range s.saves.length).flatMap (fun i => [.preemptionSaveDone i, .paddockRestore i]) ++
  (List.range s.zeroing.length).map .zeroingComplete ++
  (s.hedges.flatMap fun h => [.serialTokenGrant h.n, .baleRestart h.n]) ++
  ((s.notifications.map (·.hedge)).eraseDups.map .faultResponse) ++
  (List.range s.notifications.length).map .faultNotification ++
  (s.gatedBanks.map fun b => .wayBankWake (.bank b.1 b.2)) ++
  ((s.gatedWays.filter fun g => s.ways (48 * g.1 + g.2.1) = 0).map fun g => .wayBankWake (.way g.1 g.2.1 g.2.2)) ++
  [.paddockPlace 0, .paddockPlace 1, .retirementReport] ++ (if s.drove.turning = 0 then [.turnStep] else []) ++
  s.busyQueues.flatMap queueDue

/-- A step that is due does something: it changes more than which part is in hand and the count of
the cores behind a notification. -/
def State.useful (s : State) (i : Input) : Bool :=
  match runInput i s with
  | .next t =>
    let same (n : Notification) : Notification := { n with cores := [], acc := 0 }
    ({ t.putBack with notifications := t.notifications.map same } : State) !=
      { s.putBack with notifications := s.notifications.map same }
  | _ => false

/-- The script runs that may go on, in the order in which engines serve their queues (R346). -/
def State.scriptsDue (s : State) : List Input :=
  let runs := ((s.scr :: s.scripts).filter fun r => r.live).map (·.queue)
  (List.range 8).reverse.flatMap fun p => (runs.filter fun q => s.qPriority q == p).map .script

/-- The answer to the oldest management request. -/
def State.mgmtDue (s : State) : List Input := (s.mgmt.inbox.take 1).map fun m => .event m.request.step

/-- Connections on which an operation of the host waits. -/
def State.hostDue (s : State) : List Input :=
  (putFirst (fun n => !s.connectionHarvest (s.connection n)) (s.hostQueue.map (·.connection)).eraseDups).map .host

/-- What takes its time: polls (R145), and the end of a step of the droveway (R307). -/
def State.slow (s : State) : List Input :=
  ((s.allParts.filter fun p => p.state == .polling).map fun p => .event (.pollInterval p.id)) ++
  if s.drove.turning = 0 then [] else [.event .turnStep]

/-- What happens next when the agenda is empty: a step without a word that does something, else an op of a script, else a
word; what takes its time stands back for words, but for one step in 32. -/
def State.nextInput (s : State) : Option Input :=
  match s.boot with
  | .off => some (.event .powerOn)
  | .recovery | .tripped => s.mgmtDue.head?
  | .running =>
    match (s.mgmtDue ++ s.due.map Input.event ++ s.scriptsDue ++ s.hostDue ++ if s.tick % 32 = 0 then s.slow else []).find? s.useful with
    | some i => some i
    | none =>
      match s.nextPart with
      | some p => some (.issue p)
      | none => s.slow.find? s.useful

end Sys2Proof.Machine
end

