-- ==== Sys2Proof/Machine/Step.lean ====
section
/-! DEFINITION. One step of the device, and the placing of a word where the next step runs it. -/

namespace Sys2Proof.Machine

/-- One step: the head of the agenda, or what the device's own scheduler chooses (log 9). -/
def step (s : State) : Host.Outcome State Fault Refusal :=
  let s1 := { s with tick := s.tick + 1 }
  match s.agenda with
  | i :: rest => runInput i { s1 with agenda := rest }
  | [] =>
    match s1.nextInput with
    | some i => runInput i s1
    | none => .next s1

/-- A part to run a word, when none is in hand: the launch of one gang (log 11). -/
def State.withPart (s : State) : State :=
  if s.me.id ≠ 0 then s
  else
    { s with
      me := { id := 1, gang := 1, state := .ready, slices := 0xFF }
      gang := { id := 1, workgroup := 1, started := 0xFF, vblk := 1 }
      wg := { id := 1, context := 1, state := .running }
      ctx := { id := 1, live := true, npad := 1, ngang := 1, nslice := 8 }
      core := { id := 1 } }

/-- The state with an instruction stored where the next step fetches it (log 11): a script word in a live script run, a
native word in the instruction cache under a text page at the program counter. -/
def State.withFetchWord (s : State) (nbits w : Nat) : State :=
  if nbits ≤ 32 then
    { s with boot := .running, scr := { s.scr with queue := 1, live := true, pc := 0, words := [BitVec.ofNat 32 w] },
             agenda := .script 1 :: s.agenda }
  else
    let s1 := s.withPart
    let page := s1.me.pc.toNat / 4096
    let e : TlbEntry :=
      { asid := s1.ctx.asid, page := page, pa := page * 4096, r := true, w := false, x := true, mt := 0, ext := false,
        fmt := 0, blk := 0, sfa := 0, lg := 12 }
    { s1 with
      boot := .running
      core := { s1.core.fillTlb s1.gang.quad e with icache := (icacheKey (s1.keyTag s1.ctx.codeKey) (e.phys s1.me.pc.toNat), BitVec.ofNat 64 w) :: s1.core.icache }
      me := { s1.me with state := .ready, drain := false, replay := none, doomed := false }
      agenda := .issue s1.me.id :: s1.agenda }

end Sys2Proof.Machine
end

