-- ==== Sys2Proof/Safety.lean ====
section
/-! DEFINITION. What counts as a safe state of the device: the forms that every step keeps. -/

namespace Sys2Proof

open Machine

/-- The canonical form of a memory: addresses strictly rising, and no entry that equals what an unlisted address reads as. -/
def Machine.Memory.wf (m : List Host.Cell) : Bool := SMap.wf 0 m

/-- The memory of the device is in its canonical form. -/
def memoryWf (s : State) : Bool := Memory.wf s.mem

/-- A machine does not stop: a step answers a next state. -/
def goesOn (s : State) : Prop := ∃ t, step s = .next t

end Sys2Proof
end

