-- ==== Sys2Proof/Certificates/Slice0/Obligations.lean ====
section
/-! DEFINITION. The statements about the model, each with the words of the spec that it says again, and the small
vocabulary that they share. A statement of the form "exec i s is next t" gives t whole: what t does not name is as it was. -/

open Sys2Proof Sys2Proof.Machine

/-! ## Vocabulary -/

namespace Sys2Proof

/-- The word is an instruction, a part is in hand, and the checks of R50 that depend on its context pass: no masked
feature, every name within the allotment, and harvest work inside a furrow or at a bare word. -/
def Ready (i : Instr) (s : State) : Prop := i.wellFormed = true ∧ s.me.id ≠ 0 ∧ s.contextTrap i = none

/-- The gang registers of a part with one of them written; a write to g0 is discarded (R15). -/
def gangWith (g : Vector Word64 64) (d : Nat) (x : Word64) : Vector Word64 64 := if d = 0 then g else g.setIfInBounds d x

/-- The state after a word that writes one gang register and goes on at the next word. -/
def wroteGang (s : State) (d : Field) (x : Word64) : State :=
  { s with me := { s.me with g := gangWith s.me.g d.toNat x, pc := s.me.pc + 8 } }

/-- The state after a word that only goes on at the next word. -/
def wentOn (s : State) : State := { s with me := { s.me with pc := s.me.pc + 8 } }

/-- What a lane word writes: a vector register, a register pair or a predicate, lane by lane, with FFLAGS bits. -/
inductive LaneWrite
  | one (d : Field) (f : Nat → Word32 × BitVec 6)
  | pair (d : Field) (f : Nat → Word64 × BitVec 6)
  | pred (d : Field) (f : Nat → Bool × BitVec 6)

/-- The FFLAGS bits of some lanes together. -/
def flagsOf (ls : List Nat) (f : Nat → BitVec 6) : BitVec 6 := ls.foldl (fun a l => a ||| f l) 0

/-- A lane word puts its result in flight (R47), with a write for each lane in `ls`, and goes on at the next word. -/
def inFlight (s : State) (ls : List Nat) (w : LaneWrite) : State :=
  let r : LaneResult := match w with
    | .one d f => { id := s.nextId, writes := ls.map fun l => (32 * d.toNat + l, (f l).1), flags := flagsOf ls fun l => (f l).2 }
    | .pair d f =>
      { id := s.nextId, flags := flagsOf ls fun l => (f l).2,
        writes := ls.flatMap fun l => [(32 * d.toNat + l, BitVec.ofNat 32 (f l).1.toNat),
                                       (32 * (d.toNat + 1) + l, BitVec.ofNat 32 ((f l).1.toNat / 2 ^ 32))] }
    | .pred d f => { id := s.nextId, preds := ls.map fun l => (32 * d.toNat + l, (f l).1), flags := flagsOf ls fun l => (f l).2 }
  { s with me := { s.me with inflight := s.me.inflight ++ [r], pc := s.me.pc + 8 }, nextId := s.nextId + 1 }

/-! ## Encodings (R32 to R40, R367, R402) -/

end Sys2Proof

/-- Words written out bit by bit from the encoding tables, with the instructions that they stand for: one or more of
each family. The words of IADD, IADD_IMM and FFMA are those of the examples after R98; `SSIG s4, s5` has OP 0x0E, A 4 and
B 5. -/
def Obligations.SampleWordsDecode : Prop :=
  decodeWord 0x400600C0E0040000 =
    .ok ⟨.iadd { d := 12, a := 3, b := 7, c := 0, gb := false, sat := true, rnd := 0, ty := 0, sub := 0 }, false, false⟩ ∧
  decodeWord 0x500100BFFFFF4000 = .ok ⟨.iaddImm { d := 2, a := 2, imm := 0xFFFFFD, ty := 0, sub := 0 }, false, false⟩ ∧
  decodeWord 0x730A0100A0612000 =
    .ok ⟨.ffma { d := 20, a := 4, b := 5, c := 6, gb := false, sat := false, rnd := 2, ty := 4, sub := 0 }, false, false⟩ ∧
  decodeWord 0x2002804000000001 = .ok ⟨.gadd { d := 5, a := 1, b := 0, c := 0, sub := 0 }, false, true⟩ ∧
  decodeWord 0x0100000000000000 = .ok ⟨.nop { d := 0, a := 0, b := 0, c := 0, qual := 0 }, false, false⟩ ∧
  decodeWord 0x0C00000000000300 = .ok ⟨.trap { d := 0, a := 0, b := 0, c := 0, qual := 3 }, false, false⟩ ∧
  decodeWord 0x0000000000000000 = .ok ⟨.unassignedOpcode 0, false, false⟩ ∧
  decodeWord 0x2002804000000004 = .error 2 ∧
  decodeScript 0x0E045000 = some (.ssig { d := 0, a := 4, b := 5, imm := 0 }) ∧
  decodeScript 0x14000000 = some .sdone ∧ decodeScript 0x14000001 = none

/-- Every well-formed native instruction, with either value of P and of S, is what its word decodes to. -/
def Obligations.NativeWordsRoundTrip : Prop :=
  ∀ x : Decoded, x.instr.isNative = true → x.instr.wellFormed = true → decodeWord (encodeWord x) = .ok x

/-- A word that decodes to an instruction of the opcode map is the word of that instruction, so that no bit of it is
dropped and no two words stand for one instruction. -/
def Obligations.NativeWordsHaveOneMeaning : Prop :=
  ∀ (w : Word64) (x : Decoded), decodeWord w = .ok x → (∀ op, x.instr ≠ .unassignedOpcode op) → encodeWord x = w

/-- A script word is accepted exactly when it is the word of a well-formed script op. -/
def Obligations.ScriptWordsRoundTrip : Prop :=
  (∀ (w : BitVec 32) (i : Instr), decodeScript w = some i → encodeScript i = some w) ∧
  ∀ (w : BitVec 32) (i : Instr), encodeScript i = some w → i.wellFormed = true → decodeScript w = some i

/-! ## Gang arithmetic (R63 to R66) -/

namespace Sys2Proof

/-- The value that a gang word writes to gD, as a number: `r` reads gang registers. -/
def gangValue (r : Nat → Word64) : Instr → Option (Field × Word64)
  | .gmovi o => some (o.d, BitVec.ofInt 64 o.imm.toInt)
  | .gmovh o => some (o.d, BitVec.ofNat 64 (o.imm.toNat * 2 ^ 32 + (r o.d.toNat).toNat % 2 ^ 32))
  | .glea o => some (o.d, BitVec.ofNat 64
      ((r o.a.toNat).toNat + (r o.b.toNat).toNat * 2 ^ o.sub.toNat + (r o.c.toNat).toNat))
  | .gsel o => some (o.d, if r o.c.toNat ≠ 0 then r o.a.toNat else r o.b.toNat)
  | .gset o =>
    let a := r o.a.toNat; let b := r o.b.toNat
    some (o.d, if (match o.sub.toNat with
      | 0 => decide (a = b)
      | 1 => decide (a ≠ b)
      | 2 => decide (a.toInt < b.toInt)
      | 3 => decide (a.toInt ≤ b.toInt)
      | 4 => decide (a.toNat < b.toNat)
      | 5 => decide (a.toNat ≤ b.toNat)
      | 6 => decide (b.toInt < a.toInt)
      | 7 => decide (b.toInt ≤ a.toInt)
      | 8 => decide (b.toNat < a.toNat)
      | _ => decide (b.toNat ≤ a.toNat)) then 1 else 0)
  | i => do
    -- the register forms and the immediate forms share their effects
    let (d, a, b, u) ← match i with
      | .gadd o | .gsub o | .gmul o | .gmulh o | .gdiv o | .grem o | .gand o | .gor o | .gxor o | .gshl o | .gshr o
      | .gsar o | .gmin o | .gmax o => some (o.d, r o.a.toNat, r o.b.toNat, o.sub.getLsbD 0)
      | .gaddImm o | .gsubImm o | .gmulImm o | .gmulhImm o | .gdivImm o | .gremImm o | .gandImm o | .gorImm o
      | .gxorImm o | .gshlImm o | .gshrImm o | .gsarImm o | .gminImm o | .gmaxImm o =>
        some (o.d, r o.a.toNat, BitVec.ofInt 64 o.imm.toInt, o.sub.getLsbD 0)
      | _ => none
    let x ← match i with
      | .gadd _ | .gaddImm _ => some (BitVec.ofNat 64 (a.toNat + b.toNat))
      | .gsub _ | .gsubImm _ => some (BitVec.ofInt 64 (a.toNat - b.toNat))
      | .gmul _ | .gmulImm _ => some (BitVec.ofNat 64 (a.toNat * b.toNat))
      | .gmulh _ | .gmulhImm _ =>
        some (if u then BitVec.ofNat 64 (a.toNat * b.toNat / 2 ^ 64) else BitVec.ofInt 64 (a.toInt * b.toInt / 2 ^ 64))
      | .gdiv _ | .gdivImm _ =>
        some (if b = 0 then 0xFFFFFFFFFFFFFFFF
          else if u then BitVec.ofNat 64 (a.toNat / b.toNat) else BitVec.ofInt 64 (a.toInt.tdiv b.toInt))
      | .grem _ | .gremImm _ =>
        some (if b = 0 then a else if u then BitVec.ofNat 64 (a.toNat % b.toNat) else BitVec.ofInt 64 (a.toInt.tmod b.toInt))
      | .gand _ | .gandImm _ => some (a &&& b)
      | .gor _ | .gorImm _ => some (a ||| b)
      | .gxor _ | .gxorImm _ => some (a ^^^ b)
      | .gshl _ | .gshlImm _ => some (BitVec.ofNat 64 (a.toNat * 2 ^ (b.toNat % 64)))
      | .gshr _ | .gshrImm _ => some (BitVec.ofNat 64 (a.toNat / 2 ^ (b.toNat % 64)))
      | .gsar _ | .gsarImm _ => some (BitVec.ofInt 64 (a.toInt / 2 ^ (b.toNat % 64)))
      | .gmin _ | .gminImm _ =>
        some (if u then BitVec.ofNat 64 (min a.toNat b.toNat) else BitVec.ofInt 64 (min a.toInt b.toInt))
      | .gmax _ | .gmaxImm _ =>
        some (if u then BitVec.ofNat 64 (max a.toNat b.toNat) else BitVec.ofInt 64 (max a.toInt b.toInt))
      | _ => none
    some (d, x)

end Sys2Proof

/-- Every gang arithmetic word, in its register form and its immediate form, writes gD with the value of R63 to R66 and
goes on at the next word; nothing else changes (no flag, no lane register, no memory). -/
def Obligations.GangWordsWriteTheirRegister : Prop :=
  ∀ (i : Instr) (d : Field) (x : Word64) (s : State), gangValue s.rg i = some (d, x) → Ready i s →
    exec i s = .next (wroteGang s d x)

/-! ## Integer, bit-field, move and predicate words (R92 to R98) -/

namespace Sys2Proof

/-- The signed types are .s32 and .s64, the 64-bit types .s64 and .u64 (R36). -/
def isSigned (ty : BitVec 4) : Bool := ty = 0 ∨ ty = 2

def isWide (ty : BitVec 4) : Bool := ty = 2 ∨ ty = 3

/-- A value read as the type reads it. -/
def valueAs {n : Nat} (ty : BitVec 4) (x : BitVec n) : Int := if isSigned ty then x.toInt else x.toNat

/-- The least and the greatest value of a type of width n. -/
def leastOf (ty : BitVec 4) (n : Nat) : Int := if isSigned ty then -2 ^ (n - 1) else 0

def greatestOf (ty : BitVec 4) (n : Nat) : Int := if isSigned ty then 2 ^ (n - 1) - 1 else 2 ^ n - 1

/-- An exact result modulo 2^N, or with .sat clamped to the range of the type: a clamp that changes it sets SAT (R93). -/
def fitted (n : Nat) (ty : BitVec 4) (sat : Bool) (z : Int) : BitVec n × BitVec 6 :=
  if sat ∧ z < leastOf ty n then (BitVec.ofInt n (leastOf ty n), flagSAT)
  else if sat ∧ greatestOf ty n < z then (BitVec.ofInt n (greatestOf ty n), flagSAT)
  else (BitVec.ofInt n z, 0)

/-- A word of two operands in the width of its type: the operands of a lane in either width, and what is done with them. -/
structure TwoOperands where
  guard : Guard
  d : Field
  ty : BitVec 4
  sat : Bool
  a32 : Nat → Word32
  b32 : Nat → Word32
  a64 : Nat → Word64
  b64 : Nat → Word64

/-- The register form: B is the low half of a gang register under GB (R36, R92). -/
def ofRegisters (s : State) (o : FV3) : TwoOperands :=
  { guard := o.guard, d := o.d, ty := o.ty, sat := o.sat, a32 := s.rv o.a.toNat, a64 := s.rvp o.a.toNat,
    b32 := fun l => if o.gb then BitVec.ofNat 32 (s.rg o.b.toNat).toNat else s.rv o.b.toNat l, b64 := s.rvp o.b.toNat }

/-- The immediate form: IMM sign-extended, or zero-extended for the bitwise words (R94). -/
def ofImmediate (s : State) (o : FVI) (zero : Bool) : TwoOperands :=
  let z : Int := if zero then o.imm.toNat else o.imm.toInt
  { guard := o.guard, d := o.d, ty := o.ty, sat := false, a32 := s.rv o.a.toNat, a64 := s.rvp o.a.toNat,
    b32 := fun _ => BitVec.ofInt 32 z, b64 := fun _ => BitVec.ofInt 64 z }

/-- A result in the width of the type. -/
def typed (t : TwoOperands) (f32 : Word32 → Word32 → Word32 × BitVec 6) (f64 : Word64 → Word64 → Word64 × BitVec 6) :
    Option (Guard × LaneWrite) :=
  some (t.guard, if isWide t.ty then .pair t.d fun l => f64 (t.a64 l) (t.b64 l) else .one t.d fun l => f32 (t.a32 l) (t.b32 l))

/-- Exact arithmetic, then `fitted`. -/
def exactly (f : Int → Int → Int) (t : TwoOperands) : Option (Guard × LaneWrite) :=
  typed t (fun a b => fitted 32 t.ty t.sat (f (valueAs t.ty a) (valueAs t.ty b)))
    (fun a b => fitted 64 t.ty t.sat (f (valueAs t.ty a) (valueAs t.ty b)))

/-- The smaller or the larger of two values of a type. -/
def choose (least : Bool) (t : TwoOperands) : Option (Guard × LaneWrite) :=
  let pick (u v : Int) : Bool := if least then u ≤ v else v ≤ u
  typed t (fun a b => (if pick (valueAs t.ty a) (valueAs t.ty b) then a else b, 0))
    (fun a b => (if pick (valueAs t.ty a) (valueAs t.ty b) then a else b, 0))

/-- A shift by a count below the width: 0 left, 1 right with zeros, 2 right with the sign. -/
def shifted (n kind : Nat) (x : BitVec n) (k : Nat) : BitVec n × BitVec 6 :=
  (match kind with
    | 0 => BitVec.ofNat n (x.toNat * 2 ^ k)
    | 1 => BitVec.ofNat n (x.toNat / 2 ^ k)
    | _ => BitVec.ofInt n (x.toInt / 2 ^ k), 0)

/-- A comparison of R95 by its number there. -/
def compared (cc : Nat) (u v : Int) : Bool :=
  match cc with
  | 0 => u = v
  | 1 => u ≠ v
  | 2 => u < v
  | 3 => u ≤ v
  | 4 => u > v
  | _ => u ≥ v

/-- The field that B names (R96): its position and its length, clipped at bit 32. -/
def fieldStart (b : Word32) : Nat := b.toNat % 32

def fieldBits (b : Word32) : Nat := min (min (b.toNat / 256 % 64) 32) (32 - fieldStart b)

/-- What the integer, bit-field, move and predicate words write, and their guards. -/
def laneValue (s : State) : Instr → Option (Guard × LaneWrite)
  | .iadd o => exactly (· + ·) (ofRegisters s o)
  | .isub o => exactly (· - ·) (ofRegisters s o)
  | .imul o => exactly (· * ·) (ofRegisters s o)
  | .iaddImm o => exactly (· + ·) (ofImmediate s o false)
  | .isubImm o => exactly (· - ·) (ofImmediate s o false)
  | .imulImm o => exactly (· * ·) (ofImmediate s o false)
  | .imulh o =>
    let t := ofRegisters s o
    some (o.guard, .one o.d fun l => (BitVec.ofInt 32 (valueAs o.ty (t.a32 l) * valueAs o.ty (t.b32 l) / 2 ^ 32), 0))
  | .imad o =>
    let t := ofRegisters s o
    let p (l : Nat) : Int := valueAs o.ty (t.a32 l) * valueAs o.ty (t.b32 l)
    some (o.guard, if o.sub.getLsbD 0 then .pair o.d fun l => (BitVec.ofInt 64 (p l + (s.rvp o.c.toNat l).toNat), 0)
      else .one o.d fun l => fitted 32 o.ty o.sat (p l + valueAs o.ty (s.rv o.c.toNat l)))
  | .iand o => typed (ofRegisters s o) (fun a b => (a &&& b, 0)) (fun a b => (a &&& b, 0))
  | .ior o => typed (ofRegisters s o) (fun a b => (a ||| b, 0)) (fun a b => (a ||| b, 0))
  | .ixor o => typed (ofRegisters s o) (fun a b => (a ^^^ b, 0)) (fun a b => (a ^^^ b, 0))
  | .iandImm o => typed (ofImmediate s o true) (fun a b => (a &&& b, 0)) (fun a b => (a &&& b, 0))
  | .iorImm o => typed (ofImmediate s o true) (fun a b => (a ||| b, 0)) (fun a b => (a ||| b, 0))
  | .ixorImm o => typed (ofImmediate s o true) (fun a b => (a ^^^ b, 0)) (fun a b => (a ^^^ b, 0))
  | .imin o => choose true (ofRegisters s o)
  | .imax o => choose false (ofRegisters s o)
  | .iminImm o => choose true (ofImmediate s o false)
  | .imaxImm o => choose false (ofImmediate s o false)
  | .iabs o =>
    some (o.guard, if isWide o.ty then .pair o.d fun l => fitted 64 o.ty o.sat (s.rvp o.a.toNat l).toInt.natAbs
      else .one o.d fun l => fitted 32 o.ty o.sat (s.rv o.a.toNat l).toInt.natAbs)
  | .iclz o =>
    some (o.guard, .one o.d fun l =>
      (if isWide o.ty then BitVec.ofNat 32 ((List.range 64).takeWhile fun i => !(s.rvp o.a.toNat l).getLsbD (63 - i)).length
        else BitVec.ofNat 32 ((List.range 32).takeWhile fun i => !(s.rv o.a.toNat l).getLsbD (31 - i)).length, 0))
  | .ipopc o =>
    some (o.guard, .one o.d fun l =>
      (if isWide o.ty then BitVec.ofNat 32 ((List.range 64).filter fun i => (s.rvp o.a.toNat l).getLsbD i).length
        else BitVec.ofNat 32 ((List.range 32).filter fun i => (s.rv o.a.toNat l).getLsbD i).length, 0))
  | i => do
    -- the shifts, whose count is a 32-bit register of which the low bits act, or an immediate
    let (kind, g, d, wide, a, count) ← match i with
      | .ishl o | .ishr o | .isar o => some (0, o.guard, o.d, isWide o.ty, o.a.toNat, fun l n => ((ofRegisters s o).b32 l).toNat % n)
      | .ishlImm o | .ishrImm o | .isarImm o => some (0, o.guard, o.d, isWide o.ty, o.a.toNat, fun _ _ => o.imm.toNat)
      | _ => none
    let kind := match i with | .ishl _ | .ishlImm _ => kind | .ishr _ | .ishrImm _ => 1 | _ => 2
    some (g, if wide then .pair d fun l => shifted 64 kind (s.rvp a l) (count l 64)
      else .one d fun l => shifted 32 kind (s.rv a l) (count l 32))

/-- What the bit-field, comparison, move and predicate words write (R95 to R98). -/
def moveValue (s : State) : Instr → Option (Guard × LaneWrite)
  | .ibfx o =>
    let t := ofRegisters s o
    some (o.guard, .one o.d fun l =>
      let b := t.b32 l
      let x := (t.a32 l).toNat / 2 ^ fieldStart b % 2 ^ fieldBits b
      -- the sign is the field's top bit
      (if isSigned o.ty ∧ fieldBits b ≠ 0 ∧ x / 2 ^ (fieldBits b - 1) = 1 then BitVec.ofInt 32 (x - 2 ^ fieldBits b)
        else BitVec.ofNat 32 x, 0))
  | .ibfi o =>
    let t := ofRegisters s o
    some (o.guard, .one o.d fun l =>
      let b := t.b32 l
      let old := (s.rv o.d.toNat l).toNat
      let p := fieldStart b
      let n := fieldBits b
      (BitVec.ofNat 32 (old / 2 ^ (p + n) * 2 ^ (p + n) + (t.a32 l).toNat % 2 ^ n * 2 ^ p + old % 2 ^ p), 0))
  | .iset o =>
    let t := ofRegisters s o
    some (o.guard, .pred o.d fun l =>
      (if isWide o.ty then compared o.sub.toNat (valueAs o.ty (t.a64 l)) (valueAs o.ty (t.b64 l))
        else compared o.sub.toNat (valueAs o.ty (t.a32 l)) (valueAs o.ty (t.b32 l)), 0))
  | .isetImm o =>
    let t := ofImmediate s o false
    let cc := if o.sub = 3 then 5 else o.sub.toNat
    some (o.guard, .pred o.d fun l =>
      (if isWide o.ty then compared cc (valueAs o.ty (t.a64 l)) (valueAs o.ty (t.b64 l))
        else compared cc (valueAs o.ty (t.a32 l)) (valueAs o.ty (t.b32 l)), 0))
  | .mov o =>
    some (o.guard, if isWide o.ty then .pair o.d fun l => (s.rvp o.a.toNat l, 0) else .one o.d fun l => (s.rv o.a.toNat l, 0))
  | .movi o => some (o.guard, .one o.d fun _ => (o.imm, 0))
  | .movg o =>
    some (o.guard, if isWide o.ty then .pair o.d fun _ => (s.rg o.a.toNat, 0)
      else .one o.d fun _ => (BitVec.ofNat 32 (s.rg o.a.toNat).toNat, 0))
  | .sel o =>
    let t := ofRegisters s o
    some (o.guard, if isWide o.ty then .pair o.d fun l => (if s.rq o.c.toNat l then t.a64 l else t.b64 l, 0)
      else .one o.d fun l => (if s.rq o.c.toNat l then t.a32 l else t.b32 l, 0))
  | .qop o =>
    some (o.guard, .pred o.d fun l =>
      let a := s.rq o.a.toNat l
      let b := s.rq o.b.toNat l
      (match o.sub.toNat with
        | 0 => a ∧ b
        | 1 => a ∨ b
        | 2 => a ≠ b
        | 3 => a ∧ ¬b
        | 4 => a ∨ ¬b
        | 5 => ¬(a ∧ b)
        | 6 => ¬(a ∨ b)
        | _ => a = b, 0))
  | .qmov o =>
    some (o.guard, match o.sub.toNat with
      | 0 => .pred o.d fun l => (s.rq o.a.toNat l, 0)
      | 1 => .pred o.d fun l => (s.rv o.a.toNat l ≠ 0, 0)
      | _ => .one o.d fun l => (if s.rq o.a.toNat l then 1 else 0, 0))
  | _ => none

/-- Every integer word puts the results of R93 and R94 in flight for its active lanes, sets SAT where a clamp changed one,
and goes on at the next word; nothing else changes. -/
def Claims.IntegerWordsPutResultsInFlight : Prop :=
  ∀ (i : Instr) (g : Guard) (w : LaneWrite) (s : State), laneValue s i = some (g, w) → Ready i s →
    exec i s = .next (inFlight s (lanesOf (s.active g)) w)

/-- Every bit-field, comparison, move and predicate word puts the results of R95 to R98 in flight for its active lanes and
goes on at the next word; nothing else changes. -/
def Claims.MoveWordsPutResultsInFlight : Prop :=
  ∀ (i : Instr) (g : Guard) (w : LaneWrite) (s : State), moveValue s i = some (g, w) → Ready i s →
    exec i s = .next (inFlight s (lanesOf (s.active g)) w)

/-! ## The machine as a whole (R42 to R52, R198, R203, R396, R399) -/

/-- What State.reset leaves: the droveway split of R305, nothing served, and no key, table or memory byte. -/
def Claims.ResetLeaves : Prop :=
  let s := State.reset
  s.drove.in0 = 32 ∧ s.drove.in1 = 32 ∧ s.drove.turning = 0 ∧ s.queues = [] ∧ s.hedges = [] ∧ s.mgmt.keys = [] ∧
  s.allCtxs = [] ∧ s.allParts = [] ∧ s.mem = [] ∧ s.boot = .off

/-- The first step from reset is POWER_ON, and without a firmware image the device enters recovery (R395). -/
def Claims.FirstStepEntersRecovery : Prop :=
  ∃ t, step State.reset = .next t ∧ t.boot = .recovery ∧ t.drove.in0 = 32 ∧ t.drove.in1 = 32 ∧ t.mem = [] ∧ t.queues = []

/-- The part in hand taken up for issue at this step (R198). -/
def chosen (s : State) (rest : List Input) : State :=
  { s with tick := s.tick + 1, agenda := rest,
           me := { s.me with state := .ready, lastIssue := s.tick + 1, lastTick := s.tick + 1 } }

/-- What a step does with its part after a word that issued from `s1`: the switch marker, and the part's place in the order
of R198. -/
def afterWord (s s1 t : State) (m : Bool) : State :=
  let u := t.mark m s1.nextId
  { u with me := { u.me.rested.heldSince s.me.lastIssue with second := false, hide := 0 } }

/-- The part in hand is to issue next: it may, it is not doomed, and it does not stand where its replay ends. -/
def Issues (s : State) (rest : List Input) : Prop :=
  s.boot = .running ∧ s.agenda = .issue s.me.id :: rest ∧ s.mayIssue = true ∧ s.me.doomed = false ∧
  (∀ r, s.me.replay = some r → r.stop ≠ s.me.pc)

/-- The part in hand as a word that issues alone finds it. -/
def armed (s : State) : State := { s with me := { s.me with act := s.issueLanes, second := false, hide := 0 } }

/-- A step runs the decoded word: the word at the program counter is fetched, and where it decodes to an instruction that
does not pair and is no stop point of parked lanes, the step is exec of that instruction with the lanes of R8, R201 and
R203, and what follows an issue; a word that reads a poisoned register takes POISON (R397). -/
def Claims.StepRunsTheDecodedWord : Prop :=
  ∀ (s s1 : State) (rest : List Input) (w : Word64) (x : Decoded), Issues s rest →
    (chosen s rest).fetch s.me.pc = (s1, .word w) → decodeWord w = .ok x → x.pair = false →
    s1.atStop (stopPoint x none) = false →
    ((armed s1).poisonWord x.instr = none → step s = onNext (exec x.instr (armed s1)) fun t =>
      .next (afterWord s s1 (if issued s1 t then t.cured x.instr else t) x.mark)) ∧
    (∀ r, (armed s1).poisonWord x.instr = some r → r.code = 0x0B ∧
      step s = .next (let t := (armed s1).raise r
                      { t with me := { t.me.rested.heldSince s.me.lastIssue with second := false, hide := 0 } }))

/-- A step runs a pair of words that R42 allows as one issue. -/
def Claims.StepRunsTheDecodedPair : Prop :=
  ∀ (s s1 s2 : State) (rest : List Input) (w v : Word64) (x y : Decoded), Issues s rest →
    (chosen s rest).fetch s.me.pc = (s1, .word w) → decodeWord w = .ok x → x.pair = true → bitFault x.instr = none →
    s1.fetch (s1.me.pc + 8) = (s2, .word v) → decodeWord v = .ok y → bitFault y.instr = none →
    s2.atStop (stopPoint x (some y)) = false →
    step s = onNext (issuePair s2 x y) fun t =>
      .next { t with me := { t.me.rested.heldSince s.me.lastIssue with second := false, hide := 0 } }

/-- A word that the encoding refuses traps ILLEGAL with the AUX of R402, and has no other effect: LANES is every lane. -/
def Claims.RefusedWordsTrapIllegal : Prop :=
  ∀ (s s1 : State) (rest : List Input) (w : Word64) (aux : Nat), Issues s rest →
    (chosen s rest).fetch s.me.pc = (s1, .word w) → decodeWord w = .error aux → s.me.second = false →
    step s = .next (let t := s1.raise { code := 1, aux := aux, lanes := s1.present }
                    { t with me := { t.me.rested.heldSince s.me.lastIssue with second := false, hide := 0 } })

/-- A step runs the next op of a script run, and a step without a word when the agenda names one. -/
def Claims.StepRunsScriptsAndEvents : Prop :=
  ∀ (s : State) (rest : List Input), s.boot = .running →
    (∀ (i : Instr), s.agenda = .script s.scr.queue :: rest → s.scr.live = true → s.scriptWord = some i →
      step s = exec i { s with tick := s.tick + 1, agenda := rest }) ∧
    (∀ (e : Instr), s.agenda = .event e :: rest → e.isEvent = true →
      step s = exec e { s with tick := s.tick + 1, agenda := rest })

end Sys2Proof

/-- The device does not stop: every step answers a next state, but for an agenda that names an instruction with a word
as a step without one. -/
def Obligations.EveryStepGoesOn : Prop :=
  ∀ s : State, (∀ (e : Instr) (rest : List Input), s.agenda = .event e :: rest → e.isEvent = true) → goesOn s

/-- Memory keeps its canonical form through every step. -/
def Obligations.StepsKeepMemoryForm : Prop := ∀ s t : State, memoryWf s = true → step s = .next t → memoryWf t = true

namespace Sys2Proof

/-- Memory has its canonical form at reset. -/
def Claims.ResetMemoryForm : Prop := memoryWf State.reset = true

/-- The state after a thermal trip (R399): the device answers at its management endpoint only, no context runs, and no key
index holds a key. -/
def Tripped (s : State) : Prop :=
  s.boot = .tripped ∧ (∀ c ∈ s.allCtxs, c.live = false) ∧ ∀ k ∈ s.mgmt.keys, k.key = none

/-- After a thermal trip the device stays dark, without contexts and keys, until it loses its supply. -/
def Claims.TrippedStaysDark : Prop :=
  ∀ s t : State, Tripped s → (∀ rest, s.agenda ≠ .event .powerLoss :: rest) → step s = .next t → Tripped t

/-- While compute is dark, in recovery and after a thermal trip, no step issues a word or serves compute, fabric or memory: a
step that the agenda names as one of these changes nothing but the agenda and the count of steps. -/
def Claims.DarkDeviceIssuesNothing : Prop :=
  ∀ (s : State) (i : Input) (rest : List Input), s.boot ≠ .running → s.agenda = i :: rest →
    (∀ e, i = .event e → e.isEvent = true ∧ darkEvent e = false) →
    step s = .next { s with tick := s.tick + 1, agenda := rest }

/-- A word names a register that its context does not hold (R11, R20, R167): a vector register beyond the gang's blocks, a
tile or a CIM bank that the workgroup was not given; or a gang register that H work does not have (R337). -/
def NamesVector (s : State) (i : Instr) : Prop := ∃ r ∈ i.names.vd ++ i.names.vs, 32 * s.gang.vblk < r.1 + r.2

def NamesTile (s : State) (i : Instr) : Prop := ∃ t ∈ i.names.tl, s.wg.ntiles < t.1 + t.2

def NamesBank (s : State) (i : Instr) : Prop := ∃ c ∈ i.names.cb, s.wg.cim.getLsbD c = false

def NamesHigh (s : State) (i : Instr) : Prop := s.ctx.harvest = true ∧ ∃ g ∈ i.names.gd ++ i.names.gs, 48 ≤ g

/-- A word's feature is masked for the context (R52). -/
def Masked (s : State) (i : Instr) : Prop := ∃ f, i.feature = some f ∧ s.ctx.mask.getLsbD f = true

/-- A tile or matrix word that no transaction may hold: any but TRD and MWAIT (R171). -/
def ChangesTiles (i : Instr) : Prop := i.issueClass = .matrix ∧ ∀ o, i ≠ .trd o ∧ i ≠ .mwait o

/-- The checks of R50 that depend on the context come before everything that the word does, in this order: MASKED with the
number of the feature (R52), ALLOT with AUX 1 to 4 (R11, R337), UNCOVERED with the word's opcode in H work outside a furrow
(R335); a word that passes them has its own effect. A tile or matrix word but TRD and MWAIT aborts a transaction before
UNCOVERED (R171). Words whose bits are at fault have trapped before them (steps 1 and 2). -/
def Claims.ContextChecksInOrder : Prop :=
  ∀ (i : Instr) (s : State), i.isNative = true → bitFault i = none → s.me.id ≠ 0 →
    (∀ f, i.feature = some f → s.ctx.mask.getLsbD f = true → exec i s = .next (s.trapAux 3 f)) ∧
    (¬Masked s i → NamesVector s i → exec i s = .next (s.trapAux 4 1)) ∧
    (¬Masked s i → ¬NamesVector s i → NamesTile s i → exec i s = .next (s.trapAux 4 2)) ∧
    (¬Masked s i → ¬NamesVector s i → ¬NamesTile s i → NamesBank s i → exec i s = .next (s.trapAux 4 3)) ∧
    (¬Masked s i → ¬NamesVector s i → ¬NamesTile s i → ¬NamesBank s i → NamesHigh s i → exec i s = .next (s.trapAux 4 4)) ∧
    (¬Masked s i → ¬NamesVector s i → ¬NamesTile s i → ¬NamesBank s i → ¬NamesHigh s i →
      (s.ctx.harvest = true → s.me.inFurrow = false → i.bare = false →
        (ChangesTiles i → s.me.levels = []) → exec i s = .next (s.trapAux 0x0E i.opcode)) ∧
      (ChangesTiles i → s.me.levels ≠ [] → exec i s = .next (s.hwAbort 5)) ∧
      (s.ctx.harvest = false ∨ s.me.inFurrow = true ∨ i.bare = true → s.contextTrap i = none))

/-- The features that R52's table gives words, and none to words that open, end or wait in transactions or furrows and to
stiles; and the words that R335 allows H work outside a furrow. -/
def Claims.MaskableAndBareWords : Prop :=
  (∀ o : FX, ∀ i ∈ [Instr.tld o, .tst o, .tzero o, .tmov o, .trd o, .twr o, .cimld o, .cimsel o, .mma o, .mmas o, .sheaf o,
    .mwait o], i.feature = some 0) ∧
  (∀ o : FM, ∀ i ∈ [Instr.rld o, .rst o, .rat o], i.feature = some 1) ∧
  (∀ o : FM, ∀ i ∈ [Instr.atom o, .red o], (o.scope = 4 → i.feature = some 2) ∧
    (o.scope ≠ 4 → o.space = 3 → i.feature = some 3) ∧ (o.scope ≠ 4 → o.space ≠ 3 → i.feature = none)) ∧
  (∀ o : FM, ∀ i ∈ [Instr.ld o, .st o, .pf o, .clean o, .inval o],
    (o.space = 3 → i.feature = some 3) ∧ (o.space ≠ 3 → i.feature = none)) ∧
  (∀ o : FX, (Instr.launch o).feature = some 4 ∧ (Instr.msgsend o).feature = some 5 ∧ (Instr.dturn o).feature = some 6 ∧
    (Instr.dstat o).feature = some 6 ∧ (Instr.copy o).feature = some 8) ∧
  (∀ o : FM, (Instr.icinv o).feature = some 7 ∧ (Instr.fence o).feature = none ∧
    (o.space ≠ 3 → (Instr.waitw o).feature = none)) ∧
  (∀ o : FB, ∀ i ∈ [Instr.attempt o, .otherwise o], i.feature = none) ∧
  (∀ o : FX, ∀ i ∈ [Instr.settle o, .retry o, .abandon o, .fbegin o, .fend o, .stinit o, .starr o, .stexp o, .stwait o],
    i.feature = none) ∧
  (∀ i : Instr, i.bare = true ↔ (∃ o, i = .br o ∨ i = .brg o) ∨
    ∃ o, i = .fbegin o ∨ i = .exit o ∨ i = .jt o ∨ i = .jtv o ∨ i = .nop o ∨ i = .lpad o)

end Sys2Proof

/-- Both halves of a pair read what their registers held before the pair (R43), here a gang word and an integer word in either
order: each writes what it would write alone, and the part goes on behind both. -/
def Obligations.GangAndIntegerHalvesReadOldRegisters : Prop :=
  ∀ (a b : Decoded) (s : State) (d : Field) (x : Word64) (g : Guard) (w : LaneWrite) (gangFirst : Bool),
    let gang := if gangFirst then a.instr else b.instr
    let lane := if gangFirst then b.instr else a.instr
    -- the lane half, as its own word sees the part
    let s' := { s with me := { s.me with act := s.issueLanes, second := gangFirst, hide := 0 } }
    a.instr.wellFormed = true → b.instr.wellFormed = true → pairTrap a b = none → s.pairContext a.instr b.instr = none →
    (armed s).poisonWord a.instr = none → (armed s).poisonWord b.instr = none →
    s.me.id ≠ 0 → s.me.state = .ready → s.me.drain = false → s.me.trap = none → s.me.replay = none →
    gangValue s.rg gang = some (d, x) → laneValue s' lane = some (g, w) →
    ∃ t : State, issuePair s a b = .next (((t.cured a.instr).cured b.instr).mark b.mark s.nextId) ∧
      t = { inFlight s' (lanesOf (s'.active g)) w with
            me := { s'.me with g := gangWith s.me.g d.toNat x, pc := s.me.pc + 16, second := false,
                               inflight := (inFlight s' (lanesOf (s'.active g)) w).me.inflight } }

namespace Sys2Proof

/-- A read of a vector register (R48): what has landed, or what some lane result in flight writes there; what has landed
when none of them writes it. -/
def Claims.VectorReadsSeeLandedOrInFlight : Prop :=
  ∀ (s : State) (r l : Nat),
    let landed := SMap.get 0 s.gang.v (32 * r + l)
    (s.rv r l = landed ∨ ∃ e ∈ s.me.inflight, (32 * r + l, s.rv r l) ∈ e.writes) ∧
    ((∀ e ∈ s.me.visible, ∀ x, (32 * r + l, x) ∉ e.writes) → s.rv r l = landed)

/-- A read of a predicate (R48), in the same way. -/
def Claims.PredicateReadsSeeLandedOrInFlight : Prop :=
  ∀ (s : State) (r l : Nat),
    let landed := (s.gang.q.getD r 0).getLsbD l
    (s.rq r l = landed ∨ ∃ e ∈ s.me.inflight, (32 * r + l, s.rq r l) ∈ e.preds) ∧
    ((∀ e ∈ s.me.visible, ∀ x, (32 * r + l, x) ∉ e.preds) → s.rq r l = landed)

/-! ## Floating words and conversions (R99 to R107, R290, R293) -/

/-- The number that a finite floating value stands for. -/
def ratOf (neg : Bool) (m : Nat) (e : Int) : Rat := (if neg then -1 else 1) * (m : Rat) * (2 : Rat) ^ e

/-- The floating formats (R289). -/
def floatFormats : List FFmt := [fmt32, fmt16, fmtB16, fmtE5M2, fmtE4M3, fmtF4]

/-- `r` is `x` rounded in a direction of FMODE.RM to a value of the format: to nearest (R26), toward zero, down or up. -/
def RoundsTo (f : FFmt) (rm : Nat) (x r : Rat) : Prop :=
  let isValue (y : Rat) : Prop := ∃ (k : Nat) (neg : Bool) (m : Nat) (e : Int), f.decode k = .fin neg m e ∧ y = ratOf neg m e
  isValue r ∧
  match rm with
  | 0 => ∀ y, isValue y → (r - x).abs ≤ (y - x).abs
  | 1 => r.abs ≤ x.abs ∧ ∀ y, isValue y → y.abs ≤ x.abs → y.abs ≤ r.abs
  | 2 => r ≤ x ∧ ∀ y, isValue y → y ≤ x → y ≤ r
  | _ => x ≤ r ∧ ∀ y, isValue y → x ≤ y → r ≤ y

/-- Encoding a finite value rounds it once and correctly, in each format and direction, unless it overflows; NX is set
exactly where the result differs from the value (R293). -/
def Claims.EncodingRoundsToANeighbour : Prop :=
  ∀ f ∈ floatFormats, ∀ (neg : Bool) (m : Nat) (e : Int) (rm : Nat) (sat : Bool), rm < 4 →
    let out := f.encode (.fin neg m e) rm sat false
    out.2 &&& flagOF = 0 →
    ∃ (neg' : Bool) (m' : Nat) (e' : Int), f.decode out.1 = .fin neg' m' e' ∧
      RoundsTo f rm (ratOf neg m e) (ratOf neg' m' e') ∧ (out.2 &&& flagNX = 0 ↔ ratOf neg' m' e' = ratOf neg m e)

/-- A tie between two neighbours goes to the one whose encoding is even (rounding to nearest, R26). -/
def Claims.NearestTiesGoToEven : Prop :=
  ∀ f ∈ floatFormats, ∀ (neg : Bool) (m : Nat) (e : Int) (sat : Bool),
    let out := f.encode (.fin neg m e) 0 sat false
    out.2 &&& flagOF = 0 → ∀ (n' : Bool) (m' : Nat) (e' : Int), f.decode out.1 = .fin n' m' e' →
    ∀ (k : Nat) (n'' : Bool) (m'' : Nat) (e'' : Int), f.decode k = .fin n'' m'' e'' → ratOf n'' m'' e'' ≠ ratOf n' m' e' →
      (ratOf n'' m'' e'' - ratOf neg m e).abs = (ratOf n' m' e' - ratOf neg m e).abs → out.1 % 2 = 0

/-- An encoding that is no NaN is the encoding of its own value, in every direction, with no flag. -/
def Claims.EncodingsOfTheirOwnValues : Prop :=
  ∀ f ∈ floatFormats, ∀ (x rm : Nat) (keep : Bool), x < 2 ^ (f.width + 1) → rm < 4 → isNan (f.decode x) = false →
    f.encode (f.decode x) rm false keep = (x, 0)

/-- Sums and products are exact before their one rounding; a sum of zero takes its sign from the direction (R100), or, by
the model's reading of log 48, from two zeros of one sign. -/
def Claims.SumsAndProductsAreExact : Prop :=
  ∀ (rm : Nat) (a b : Bool) (m n : Nat) (e g : Int),
    (∃ (c : Bool) (k : Nat) (h : Int), addF rm (.fin a m e) (.fin b n g) = (.fin c k h, 0) ∧
      ratOf c k h = ratOf a m e + ratOf b n g ∧
      (k = 0 → c = if m = 0 ∧ n = 0 ∧ a = b then a else decide (rm = 2))) ∧
    ∃ (c : Bool) (k : Nat) (h : Int), mulF (.fin a m e) (.fin b n g) = (.fin c k h, 0) ∧
      ratOf c k h = ratOf a m e * ratOf b n g ∧ (c = (a != b))

/-- One rounding to FP32 of an exact value, by the direction, .sat and FTZ of the word (R99). -/
def rounded (s : State) (o : FV3) (f : Nat → FVal × BitVec 6) : Option (Guard × LaneWrite) :=
  some (o.guard, .one o.d fun l =>
    let r := toF32 (f l).1 (s.rm o) o.sat s.ftz
    (r.1, r.2 ||| (f l).2))

/-- A min or max result: no rounding takes place, and NV alone may be set. -/
def chosenOf (o : FV3) (pick : Nat → FVal) (nv : Nat → BitVec 6) : Option (Guard × LaneWrite) :=
  some (o.guard, .one o.d fun l => ((toF32 (pick l) 0 false false).1, nv l))

/-- Both 16-bit elements of a packed word (R103). -/
def packedPair (s : State) (o : FV3) (f : Nat → Nat → FVal × BitVec 6) : Option (Guard × LaneWrite) :=
  let e (l k : Nat) : Nat × BitVec 6 :=
    let r := (packFmt o).encode (f l k).1 (s.rm o) o.sat false
    (r.1, (f l k).2 ||| r.2)
  some (o.guard, .one o.d fun l => (BitVec.ofNat 32 ((e l 0).1 + 2 ^ 16 * (e l 1).1), (e l 0).2 ||| (e l 1).2))

/-- The dot product of R105 with elements of n bits: the integer forms add exactly, then keep the low bits or clamp. -/
def dotValue (s : State) (o : FV3) (n : Nat) : Option (Guard × LaneWrite) :=
  some (o.guard, .one o.d fun l =>
    let a := s.rv o.a.toNat l
    let b := (ofRegisters s o).b32 l
    let c := s.rv o.c.toNat l
    let elem (u : Bool) (x : Word32) (i : Nat) : Int :=
      let y := BitVec.ofNat n (x.toNat / 2 ^ (n * i))
      if u then y.toNat else y.toInt
    if o.ty = 10 ∨ o.ty = 11 then
      fitted 32 0 o.sat (c.toInt + ((List.range (32 / n)).map fun i =>
        elem (o.sub.getLsbD 0) a i * elem (o.sub.getLsbD 1) b i).sum)
    else dotProduct o n (s.rm o) s.ftz a b c)

/-- What the floating words write, their operands being FP32 values with FTZ applied where R99 says so. -/
def floatValue (s : State) : Instr → Option (Guard × LaneWrite)
  | .fadd o => rounded s o fun l => addF (s.rm o) (s.fa o l) (s.fb o l)
  | .fsub o => rounded s o fun l => addF (s.rm o) (s.fa o l) (negF (s.fb o l))
  | .fmul o => rounded s o fun l => mulF (s.fa o l) (s.fb o l)
  | .ffma o => rounded s o fun l => fmaF (s.rm o) (s.fa o l) (s.fb o l) (s.fc o l)
  | .fmin o => chosenOf o (fun l => minF (s.fa o l) (s.fb o l)) fun l => nvOf [s.fa o l, s.fb o l]
  | .fmax o => chosenOf o (fun l => maxF (s.fa o l) (s.fb o l)) fun l => nvOf [s.fa o l, s.fb o l]
  | .fset o => some (o.guard, .pred o.d fun l => floatCond o.sub.toNat (s.fa o l) (s.fb o l))
  | .fclass o => some (o.guard, .one o.d fun l => (BitVec.ofNat 32 (2 ^ classMask (s.rv o.a.toNat l)), 0))
  | .frnd o => chosenOf o (fun l => integral (s.rm o) (s.fa o l)) fun l => nvOf [s.fa o l]
  | .hadd2 o => packedPair s o fun l k => addF (s.rm o) (packElem o (s.rv o.a.toNat l) k) (packElem o ((ofRegisters s o).b32 l) k)
  | .hmul2 o => packedPair s o fun l k => mulF (packElem o (s.rv o.a.toNat l) k) (packElem o ((ofRegisters s o).b32 l) k)
  | .hfma2 o => packedPair s o fun l k => fmaF (s.rm o) (packElem o (s.rv o.a.toNat l) k)
      (packElem o ((ofRegisters s o).b32 l) k) (packElem o (s.rv o.c.toNat l) k)
  | .dp4 o => dotValue s o 8
  | .dp8 o => dotValue s o 4
  | .cvt o =>
    let f (l : Nat) := convert o.ty.toNat o.c.toNat (s.rm o) o.sat s.ftz
      (if isWide (BitVec.ofNat 4 o.c.toNat) then s.rvp o.a.toNat l else BitVec.ofNat 64 (s.rv o.a.toNat l).toNat)
    some (o.guard, if isWide o.ty then .pair o.d f else .one o.d fun l => (BitVec.ofNat 32 (f l).1.toNat, (f l).2))
  | .qpack o =>
    let n := fmtBits (fmtOfTy o.ty.toNat)
    let p := n * o.sub.toNat
    some (o.guard, .one o.d fun l =>
      let r := packOne (fmtOfTy o.ty.toNat) (((ofRegisters s o).b32 l).toNat % 256) (s.rm o) o.sat (s.fa o l)
      let old := (s.rv o.d.toNat l).toNat
      (BitVec.ofNat 32 (old / 2 ^ (p + n) * 2 ^ (p + n) + r.1 % 2 ^ n * 2 ^ p + old % 2 ^ p), r.2))
  | .qunpk o =>
    let f := fmtOfTy o.ty.toNat
    some (o.guard, .one o.d fun l =>
      let e := (s.rv o.a.toNat l).toNat / 2 ^ (fmtBits f * o.sub.toNat) % 2 ^ fmtBits f
      let code := ((ofRegisters s o).b32 l).toNat % 256
      let r := toF32 (underCode f e code) (s.rm o) o.sat s.ftz
      (r.1, if code = 0 then 0 else r.2 ||| nvOf [valueOf f e]))
  | .sqrt o => rounded s o fun l => sqrtF (s.fa o l)
  | .rcp o => some (o.guard, .one o.d fun l => Approx.rcp.eval o.sat s.ftz (s.rv o.a.toNat l))
  | .rsq o => some (o.guard, .one o.d fun l => Approx.rsq.eval o.sat s.ftz (s.rv o.a.toNat l))
  | .exp2 o => some (o.guard, .one o.d fun l => Approx.exp2.eval o.sat s.ftz (s.rv o.a.toNat l))
  | .log2 o => some (o.guard, .one o.d fun l => Approx.log2.eval o.sat s.ftz (s.rv o.a.toNat l))
  | .sin o => some (o.guard, .one o.d fun l => Approx.sin.eval o.sat s.ftz (s.rv o.a.toNat l))
  | .cos o => some (o.guard, .one o.d fun l => Approx.cos.eval o.sat s.ftz (s.rv o.a.toNat l))
  | .tanh o => some (o.guard, .one o.d fun l => Approx.tanh.eval o.sat s.ftz (s.rv o.a.toNat l))
  | _ => none

end Sys2Proof

/-- Every floating, conversion, packing and special-function word puts its results in flight for its active lanes, with the
FFLAGS bits of R99, and goes on at the next word; nothing else changes. The sign of a zero dot product and the flags of QUNPK under
an end code are the model's choice (log 45). -/
def Obligations.FloatingWordsPutResultsInFlight : Prop :=
  ∀ (i : Instr) (g : Guard) (w : LaneWrite) (s : State), floatValue s i = some (g, w) → Ready i s →
    exec i s = .next (inFlight s (lanesOf (s.active g)) w)

namespace Sys2Proof

/-- The width of the integer types among the TY codes of R36, and whether each is signed. -/
def integerType (ty : Nat) : Option (Nat × Bool) :=
  match ty with
  | 0 => some (32, true) | 1 => some (32, false) | 2 => some (64, true) | 3 => some (64, false)
  | 10 => some (8, true) | 11 => some (4, true) | 12 => some (8, false) | 13 => some (16, false) | 14 => some (16, true)
  | _ => none

/-- The low bits of a number in a register: sign-extended to 32 bits for the narrow signed types, else zero-extended. -/
def placed (n : Nat) (sg : Bool) (z : Int) : Word64 :=
  if sg ∧ n < 32 then BitVec.ofNat 64 (BitVec.ofInt 32 (BitVec.ofInt n z).toInt).toNat
  else BitVec.ofNat 64 (BitVec.ofInt n z).toNat

/-- CVT between integer types keeps a value that fits; a value that does not is clamped for .i8 and .i4 or under .sat, with
SAT, and else keeps its low bits (R104). -/
def Claims.IntegerConversions : Prop :=
  ∀ (dst src rm n m : Nat) (sg sm sat ftz : Bool) (x : Word64),
    integerType dst = some (n, sg) → integerType src = some (m, sm) →
    let v : Int := if sm then (BitVec.ofNat m x.toNat).toInt else (BitVec.ofNat m x.toNat).toNat
    let lo : Int := if sg then -2 ^ (n - 1) else 0
    let hi : Int := if sg then 2 ^ (n - 1) - 1 else 2 ^ n - 1
    convert dst src rm sat ftz x =
      if lo ≤ v ∧ v ≤ hi then (placed n sg v, 0)
      else if sat ∨ dst = 10 ∨ dst = 11 then (placed n sg (if v < lo then lo else hi), flagSAT)
      else (placed n sg v, 0)

/-- CVT from FP32 to an integer type (R104): a NaN gives 0 and a value outside the range its nearer end, both with NV; any
other value is rounded in the direction of RND, with NX where the rounding discards a fraction. -/
def Claims.FloatToIntegerConversions : Prop :=
  ∀ (dst rm n : Nat) (sg sat ftz : Bool) (x : Word64), rm < 4 → integerType dst = some (n, sg) →
    let lo : Int := if sg then -2 ^ (n - 1) else 0
    let hi : Int := if sg then 2 ^ (n - 1) - 1 else 2 ^ n - 1
    match f32 ftz (BitVec.ofNat 32 x.toNat) with
    | .nan _ => convert dst 4 rm sat ftz x = (placed n sg 0, flagNV)
    | .inf neg => convert dst 4 rm sat ftz x = (placed n sg (if neg then lo else hi), flagNV)
    | .fin neg m e => ∃ z : Int,
      (match rm with
        | 0 => (∀ y : Int, ((z : Rat) - ratOf neg m e).abs ≤ ((y : Rat) - ratOf neg m e).abs) ∧
          ∀ y : Int, y ≠ z → ((z : Rat) - ratOf neg m e).abs = ((y : Rat) - ratOf neg m e).abs → z % 2 = 0
        | 1 => (z : Rat).abs ≤ (ratOf neg m e).abs ∧ (ratOf neg m e).abs < (z : Rat).abs + 1 ∧ 0 ≤ (z : Rat) * ratOf neg m e
        | 2 => (z : Rat) ≤ ratOf neg m e ∧ ratOf neg m e < (z : Rat) + 1
        | _ => ratOf neg m e ≤ (z : Rat) ∧ (z : Rat) - 1 < ratOf neg m e) ∧
      convert dst 4 rm sat ftz x = (placed n sg (max lo (min hi z)),
        (if lo ≤ z ∧ z ≤ hi then 0 else flagNV) ||| (if (z : Rat) = ratOf neg m e then 0 else flagNX))

/-- The special values of R107: NaN inputs, infinities, zeros, negative inputs of RSQ and LOG2, and the ends of EXP2. -/
def Claims.SpecialValuesOfApproximations : Prop :=
  (∀ (k : Approx) (sat ftz : Bool) (x : Word32), isNan (fmt32.decode x.toNat) = true →
    k.eval sat ftz x = (0x7FC00000, if x.getLsbD 22 then 0 else flagNV)) ∧
  (∀ (sat ftz : Bool),
    Approx.rcp.eval sat ftz 0x7F800000 = (0, 0) ∧ Approx.rcp.eval sat ftz 0xFF800000 = (0x80000000, 0) ∧
    Approx.rcp.eval sat ftz 0 = (0x7F800000, flagDZ) ∧ Approx.rcp.eval sat ftz 0x80000000 = (0xFF800000, flagDZ) ∧
    Approx.rsq.eval sat ftz 0 = (0x7F800000, flagDZ) ∧ Approx.rsq.eval sat ftz 0x80000000 = (0xFF800000, flagDZ) ∧
    Approx.rsq.eval sat ftz 0x7F800000 = (0, 0) ∧
    Approx.log2.eval sat ftz 0 = (0xFF800000, flagDZ) ∧ Approx.log2.eval sat ftz 0x80000000 = (0xFF800000, flagDZ) ∧
    Approx.log2.eval sat ftz 0x3F800000 = (0, 0) ∧ Approx.log2.eval sat ftz 0x7F800000 = (0x7F800000, 0) ∧
    Approx.exp2.eval sat ftz 0x7F800000 = (0x7F800000, 0) ∧ Approx.exp2.eval sat ftz 0xFF800000 = (0, 0) ∧
    Approx.exp2.eval sat ftz 0 = (0x3F800000, 0) ∧ Approx.exp2.eval sat ftz 0x80000000 = (0x3F800000, 0) ∧
    Approx.sin.eval sat ftz 0x7F800000 = (0x7FC00000, flagNV) ∧ Approx.sin.eval sat ftz 0xFF800000 = (0x7FC00000, flagNV) ∧
    Approx.sin.eval sat ftz 0 = (0, 0) ∧ Approx.sin.eval sat ftz 0x80000000 = (0x80000000, 0) ∧
    Approx.cos.eval sat ftz 0x7F800000 = (0x7FC00000, flagNV) ∧ Approx.cos.eval sat ftz 0xFF800000 = (0x7FC00000, flagNV) ∧
    Approx.cos.eval sat ftz 0 = (0x3F800000, 0) ∧ Approx.cos.eval sat ftz 0x80000000 = (0x3F800000, 0) ∧
    Approx.tanh.eval sat ftz 0x7F800000 = (0x3F800000, 0) ∧ Approx.tanh.eval sat ftz 0xFF800000 = (0xBF800000, 0) ∧
    Approx.tanh.eval sat ftz 0 = (0, 0) ∧ Approx.tanh.eval sat ftz 0x80000000 = (0x80000000, 0)) ∧
  (∀ (k : Approx) (sat ftz : Bool) (x : Word32), k = .rsq ∨ k = .log2 → 0x80800000 ≤ x.toNat → x.toNat ≤ 0xFF800000 →
    k.eval sat ftz x = (0x7FC00000, flagNV)) ∧
  (∀ (sat ftz : Bool) (x : Word32), 0x43000000 ≤ x.toNat → x.toNat < 0x7F800000 →
    Approx.exp2.eval sat ftz x = if sat then (0x7F7FFFFF, flagOF ||| flagSAT) else (0x7F800000, flagOF)) ∧
  ∀ (sat ftz : Bool) (x : Word32), 0xC3160000 < x.toNat → x.toNat < 0xFF800000 →
    Approx.exp2.eval sat ftz x = (0, flagUF)

/-! ## Cross-lane words (R108 to R113) -/

/-- The lanes of a segment (R108): n consecutive lanes from `segBase`. -/
def segWidth (o : FV3) : Nat := 32 / 2 ^ o.c.toNat

def segBase (o : FV3) (l : Nat) : Nat := l - l % segWidth o

/-- The source lane of LPERM (R109); a lane that is not present gives the reader's own value. -/
def permLane (s : State) (o : FV3) (l : Nat) : Nat :=
  let n := segWidth o
  let k := l % n
  let b := (ofRegisters s o).b32 l
  let j : Int := match o.sub.toNat with
    | 0 => (b.toNat % n : Nat)
    | 1 => ((k + b.toNat) % n : Nat)
    | 2 => k + b.toInt
    | 3 => (k ^^^ (b.toNat % n) : Nat)
    | _ => (n - 1 - k : Nat)
  if 0 ≤ j ∧ j < n ∧ s.present.getLsbD (segBase o l + j.toNat) then segBase o l + j.toNat else l

/-- The pairwise tree of R112: level k combines adjacent results of the level before. -/
def tree (f : Word32 → Word32 → Word32) (leaf : Nat → Word32) : Nat → Nat → Word32
  | 0, i => leaf i
  | k + 1, i => f (tree f leaf k (2 * i)) (tree f leaf k (2 * i + 1))

/-- The flags of the same tree: those of every step. -/
def treeFlags (f : Word32 → Word32 → Word32 × BitVec 6) (leaf : Nat → Word32) : Nat → Nat → BitVec 6
  | 0, _ => 0
  | k + 1, i =>
    treeFlags f leaf k (2 * i) ||| treeFlags f leaf k (2 * i + 1) |||
      (f (tree (fun a b => (f a b).1) leaf k (2 * i)) (tree (fun a b => (f a b).1) leaf k (2 * i + 1))).2

/-- The active lanes of a lane's segment, ascending. -/
def segActive (s : State) (o : FV3) (l : Nat) : List Nat :=
  (lanesOf (s.active o.guard)).filter fun x => segBase o x = segBase o l

/-- What an integer reduction gives (R112). -/
def reduced (o : FV3) (xs : List Word32) : Word32 × BitVec 6 :=
  match o.sub.toNat with
  | 0 => fitted 32 o.ty o.sat (xs.map (valueAs o.ty)).sum
  | 1 => ((xs.foldl (fun m x => if valueAs o.ty x < valueAs o.ty m then x else m) (xs.headD 0)), 0)
  | 2 => ((xs.foldl (fun m x => if valueAs o.ty m < valueAs o.ty x then x else m) (xs.headD 0)), 0)
  | 3 => (xs.foldl (· &&& ·) 0xFFFFFFFF, 0)
  | 4 => (xs.foldl (· ||| ·) 0, 0)
  | _ => (xs.foldl (· ^^^ ·) 0, 0)

/-- The running value of a scan before the lanes of a list, and the step of R113. -/
def scanned (s : State) (o : FV3) (xs : List Nat) : Word32 :=
  let op := o.sub.toNat % 4
  xs.foldl (fun acc l => (scanStep op o.ty.toNat (s.rm o) o.sat s.ftz acc (s.rv o.a.toNat l)).1) (scanIdent op o.ty.toNat)

/-- What the cross-lane words write. -/
def crossValue (s : State) : Instr → Option (Guard × LaneWrite)
  | .lperm o =>
    some (o.guard, if isWide o.ty then .pair o.d fun l => (s.rvp o.a.toNat (permLane s o l), 0)
      else .one o.d fun l => (s.rv o.a.toNat (permLane s o l), 0))
  | .bcast o =>
    let k := (s.rg o.b.toNat).toNat % 32
    let src (l : Nat) : Nat := if s.present.getLsbD k then k else l
    some (o.guard, if isWide o.ty then .pair o.d fun l => (s.rvp o.a.toNat (src l), 0)
      else .one o.d fun l => (s.rv o.a.toNat (src l), 0))
  | .qfold o =>
    let q := s.rq o.a.toNat
    let mine (l : Nat) : List Nat := (segActive s o l).filter q
    some (o.guard, match o.sub.toNat with
      | 0 => .pred o.d fun l => ((mine l).length = (segActive s o l).length, 0)
      | 1 => .pred o.d fun l => (mine l ≠ [], 0)
      | 2 => .pred o.d fun l => (mine l = [] ∨ (mine l).length = (segActive s o l).length, 0)
      | 3 => .one o.d fun l => (BitVec.ofNat 32 ((mine l).map (2 ^ ·)).sum, 0)
      | 4 => .one o.d fun l => (BitVec.ofNat 32 (mine l).length, 0)
      | _ => .one o.d fun l => (BitVec.ofNat 32 (match mine l with | x :: _ => x - segBase o l | [] => segWidth o), 0))
  | .redx o =>
    some (o.guard, .one o.d fun l =>
      if o.ty = 4 then
        let f := stepF o.sub.toNat (s.rm o) s.ftz
        let leaf (i : Nat) : Word32 :=
          let x := segBase o l + i
          if x ∈ segActive s o l then s.rv o.a.toNat x
          else match o.sub.toNat with | 0 => 0x80000000 | 1 => 0x7F800000 | _ => 0xFF800000
        let k := 5 - o.c.toNat
        -- over one lane no step acts, and R99 alone shapes the result
        if k = 0 then passF s.ftz (s.rv o.a.toNat l) else (tree (fun a b => (f a b).1) leaf k 0, treeFlags f leaf k 0)
      else reduced o ((segActive s o l).map (s.rv o.a.toNat)))
  | .scanx o =>
    let op := o.sub.toNat % 4
    some (o.guard, .one o.d fun l =>
      let acc := scanned s o ((segActive s o l).filter (· < l))
      let r := scanStep op o.ty.toNat (s.rm o) o.sat s.ftz acc (s.rv o.a.toNat l)
      (if o.sub.getLsbD 2 then acc else r.1, r.2))
  | _ => none

end Sys2Proof

/-- Every cross-lane word puts the results of R109 to R113 in flight for its active lanes and goes on at the next word;
nothing else changes. -/
def Obligations.CrossLaneWordsPutResultsInFlight : Prop :=
  ∀ (i : Instr) (g : Guard) (w : LaneWrite) (s : State), crossValue s i = some (g, w) → Ready i s →
    exec i s = .next (inFlight s (lanesOf (s.active g)) w)

/-! ## Control words, masks and system registers (R22 to R30, R68 to R90) -/

namespace Sys2Proof

/-- A system register other than WID as SREAD gives it, field by field at the places of R23 to R26; FFLAGS is `fl`. -/
def systemRegister (s : State) (fl : BitVec 6) (n : Nat) : Nat :=
  let core := s.wg.core
  match n with
  | 1 => s.me.slices.toNat * 2 ^ 32 + s.present.toNat
  | 2 => s.ctx.asid * 2 ^ 16 + s.ctx.hedge * 2 ^ 8 + s.ctx.harvest.toNat
  | 3 => core / 96 * 2 ^ 15 + core % 96 / 8 * 2 ^ 11 + core % 8 * 2 ^ 8 + core % 96 / 8 / 4 * 2 ^ 6 + s.gang.quad * 2 ^ 4 +
      s.gang.slot * 2
  | 4 => s.ctx.padW * s.ctx.padH * 2 ^ 32 + s.ctx.padW * 2 ^ 28 + s.ctx.padH * 2 ^ 24 + s.wg.px * 2 ^ 20 + s.wg.py * 2 ^ 16 +
      s.wg.pidx
  | 5 => s.me.serial.toNat * 2 ^ 23 + s.me.consec.toNat * 2 ^ 20 + s.me.xlevel.toNat * 2 ^ 8 + s.me.xcode.toNat
  | 6 => (s.me.levels.zipIdx.map fun x => x.1.alt.toNat * 2 ^ (4 + (s.me.levels.length - 1 - x.2))).sum + s.me.levels.length
  | 7 => s.me.deferred.length * 2 ^ 8 + s.me.restarted.toNat * 2 + s.me.inFurrow.toNat
  | 8 => s.gang.shOpen * 2 ^ 32 + s.gang.shDone.toNat * 2 ^ 16 + s.gang.shNext.toNat
  | 9 => fl.toNat
  | 10 => s.gang.fmode.toNat
  | 11 => s.gang.full.toNat * 2 ^ 47 + s.wg.cim.toNat * 2 ^ 45 + s.wg.ntiles * 2 ^ 40 + s.wg.scr * 2 ^ 10 + s.gang.vblk
  | 12 => s.gang.privLimit * 2 ^ 32 + s.gang.hwm
  | 13 => s.me.stack.length
  | 14 => s.gang.tvAddr.toNat * 8 + s.gang.tvEn.toNat
  | 15 => s.me.tiLanes.toNat * 2 ^ 32 + s.me.tiAux.toNat * 2 ^ 8 + s.me.tiCode.toNat
  | _ => 0

/-- SREAD of a register that the gang or the part shares writes gD with its fields; FFLAGS has every flag that has landed,
and of the flags in flight of its gang's parts those that the read meets (R27, R83). -/
def Claims.SreadWritesTheRegistersValue : Prop :=
  ∀ (o : FX) (s : State), Ready (.sread o) s → o.a.toNat ≠ 0 → o.a.toNat < 16 →
    ∃ fl : BitVec 6, exec (.sread o) s = .next (wroteGang s o.d (BitVec.ofNat 64 (systemRegister s fl o.a.toNat))) ∧
      s.gang.fflags &&& fl = s.gang.fflags ∧
      fl &&& (s.gangResults.foldl (fun a r => a ||| r.flags) s.gang.fflags) = fl

/-- SREAD of WID gives each lane its identifier as a lane result (R83, R192). -/
def Claims.SreadOfWidNumbersTheLanes : Prop :=
  ∀ (o : FX) (s : State), Ready (.sread o) s → o.a.toNat = 0 →
    exec (.sread o) s =
      .next (inFlight s (lanesOf s.me.act) (.pair o.d fun l => (BitVec.ofNat 64 (s.gang.wid + l), 0)))

/-- SWRITE sets a writable register to the value of gA, from the same step on, when no reserved bit of it is set (R22, R28,
R83, R84); of PRIVHWM the low half of gA acts, which at or below the mark changes nothing, and above it grows the gang's
private memory to the next multiple of 128. -/
def Claims.SwriteSetsTheRegister : Prop :=
  ∀ (o : FX) (s : State),
    let x := (s.rg o.a.toNat).toNat
    (Ready (.swriteFflags o) s → x < 64 →
      exec (.swriteFflags o) s = .next { wentOn s with gang := { s.gang with fflags := BitVec.ofNat 6 x } }) ∧
    (Ready (.swriteFmode o) s → x < 8 →
      exec (.swriteFmode o) s = .next { wentOn s with gang := { s.gang with fmode := BitVec.ofNat 3 x } }) ∧
    (Ready (.swriteTrapvec o) s → x < 2 ^ 57 → x / 2 % 4 = 0 →
      exec (.swriteTrapvec o) s =
        .next { wentOn s with gang := { s.gang with tvAddr := BitVec.ofNat 54 (x / 8), tvEn := decide (x % 2 = 1) } }) ∧
    (Ready (.swritePrivhwm o) s → x % 2 ^ 32 ≤ s.gang.hwm → exec (.swritePrivhwm o) s = .next (wentOn s)) ∧
    ∀ s1 : State, Ready (.swritePrivhwm o) s → s.gang.hwm < x % 2 ^ 32 → x % 2 ^ 32 ≤ s.gang.privLimit →
      s.grow ((x % 2 ^ 32 + 127) / 128 * 128) = (s1, none) → exec (.swritePrivhwm o) s = .next (wentOn s1)

/-- SWRITE of a read-only register or of a set reserved bit traps ILLEGAL with AUX 0x07, of PRIVHWM beyond LIMIT traps
PRIVGROW, of a number that names no register traps ILLEGAL with AUX 0x03; a word of an unassigned opcode traps ILLEGAL with
AUX 0x01 (R22, R28, R40, R402). -/
def Claims.IllegalRegisterWritesTrap : Prop :=
  ∀ (o : FX) (op : BitVec 8) (s : State),
    let x := (s.rg o.a.toNat).toNat
    let illegal (aux : Nat) : State := s.trapAux 1 aux
    (Ready (.swriteReadOnly o) s → o.d.toNat < 16 → exec (.swriteReadOnly o) s = .next (illegal 7)) ∧
    (s.me.id ≠ 0 → 16 ≤ o.d.toNat → exec (.swriteReadOnly o) s = .next (illegal 3)) ∧
    (s.me.id ≠ 0 → exec (.unassignedOpcode op) s = .next (illegal 1)) ∧
    (Ready (.swriteFflags o) s → 64 ≤ x → exec (.swriteFflags o) s = .next (illegal 7)) ∧
    (Ready (.swriteFmode o) s → 8 ≤ x → exec (.swriteFmode o) s = .next (illegal 7)) ∧
    (Ready (.swriteTrapvec o) s → 2 ^ 57 ≤ x ∨ x / 2 % 4 ≠ 0 → exec (.swriteTrapvec o) s = .next (illegal 7)) ∧
    (Ready (.swritePrivhwm o) s → s.gang.hwm < x % 2 ^ 32 → s.gang.privLimit < x % 2 ^ 32 →
      exec (.swritePrivhwm o) s = .next (s.trapAux 9 0))

end Sys2Proof

/-- MASKRD, MASKWR and ELECT (R82): predicate bits are lane results, gang writes are made at once. -/
def Obligations.MaskWordsMoveLaneBits : Prop :=
  ∀ (o : FX) (s : State),
    let ls := lanesOf (s.active o.guard)
    (Ready (.maskrd o) s →
      exec (.maskrd o) s = .next (inFlight s ls (.pred o.d fun l => ((s.rg o.a.toNat).getLsbD l, 0)))) ∧
    (Ready (.maskwr o) s →
      exec (.maskwr o) s =
        .next (wroteGang s o.d (BitVec.ofNat 64 ((ls.filter (s.rq o.a.toNat)).map (2 ^ ·)).sum))) ∧
    (Ready (.elect o) s → ls = [] → exec (.elect o) s = .next (wroteGang s o.a 0xFFFFFFFFFFFFFFFF)) ∧
    ∀ (m : Nat) (rest : List Nat), Ready (.elect o) s → ls = m :: rest →
      let t := inFlight s ls (.pred o.d fun l => (decide (l = m), 0))
      exec (.elect o) s = .next { t with me := { t.me with g := gangWith s.me.g o.a.toNat (BitVec.ofNat 64 m) } }

namespace Sys2Proof

/-- The target of a B word (R37). -/
def targetOf (s : State) (o : FB) : Word64 := BitVec.ofInt 64 (s.me.pc.toNat + 8 * o.off.toInt)

/-- Does a slice of the part take the branch (R69)? -/
def takes (s : State) (o : FB) (i : Nat) : Prop :=
  let c (l : Nat) : Prop := s.rq o.guard.gq.toNat l ≠ o.guard.gn
  if o.guard.ge = false then True
  else match o.q.toNat % 4 with
    | 1 => ∃ l ∈ lanesOf s.present, c l
    | 2 => ∀ l ∈ lanesOf s.present, c l
    | _ => ∀ l, l / 4 = i → c l

/-- The four lanes of a slice disagree under a .sl condition (R69). -/
def Disagrees (s : State) (o : FB) (i : Nat) : Prop :=
  let c (l : Nat) : Bool := s.rq o.guard.gq.toNat l != o.guard.gn
  o.guard.ge = true ∧ o.q.toNat % 4 = 0 ∧ s.me.slices.getLsbD i = true ∧ ∃ l k, l / 4 = i ∧ k / 4 = i ∧ c l ≠ c k

/-- The part at another place, with another return stack. -/
def movedTo (s : State) (pc : Word64) (stack : List Frame) : State := { s with me := { s.me with pc := pc, stack := stack } }

/-- BR and CALL that every slice of the part takes go to the target, CALL with the next word's address pushed; those that no
slice takes go on at the next word. A CALL at return-stack depth 255 is ILLEGAL (R29, R76), by the model's reading whether or not a
slice takes it (log 25) (R69, R75). -/
def Claims.UniformBranchesGoOneWay : Prop :=
  ∀ (o : FB) (s : State), s.me.slices ≠ 0 → (∀ i, ¬Disagrees s o i) →
    let all := ∀ i, s.me.slices.getLsbD i = true → takes s o i
    let no := ∀ i, s.me.slices.getLsbD i = true → ¬takes s o i
    (Ready (.br o) s → all → exec (.br o) s = .next (movedTo s (targetOf s o) s.me.stack)) ∧
    (Ready (.br o) s → no → exec (.br o) s = .next (wentOn s)) ∧
    (Ready (.call o) s → all → s.me.stack.length < 255 →
      exec (.call o) s = .next (movedTo s (targetOf s o) (.ret (s.me.pc + 8) :: s.me.stack))) ∧
    (Ready (.call o) s → no → s.me.stack.length < 255 → exec (.call o) s = .next (wentOn s)) ∧
    (Ready (.call o) s → s.me.stack.length = 255 → exec (.call o) s = .next (s.trapAux 1 7))

/-- A .sl BR or CALL that some slices take and others do not splits the part (R70): the other share is a new part with copies of the
gang registers and return stack, and the slices that take a CALL push the next word's address. That the share with the lowest slice
keeps the part's identity and TRAPINFO, and that a target at the next word splits too, is the model's reading (log 25); a split waits
for the part's own accesses (log 49). Inside a transaction or a furrow, and in harvest work, it traps DIVERGE with AUX 0x01 and the
part takes neither path (R71, R336). -/
def Claims.SplitBranchesMakeTwoParts : Prop :=
  ∀ (o : FB) (s : State) (yes no : BitVec 8) (i : Instr) (stack : List Frame),
    (i = .br o ∧ stack = s.me.stack) ∨ (i = .call o ∧ stack = .ret (s.me.pc + 8) :: s.me.stack ∧ s.me.stack.length < 255) →
    Ready i s → (∀ i, ¬Disagrees s o i) →
    (∀ i, yes.getLsbD i = true ↔ s.me.slices.getLsbD i = true ∧ takes s o i) → no = s.me.slices &&& ~~~yes →
    yes ≠ 0 → no ≠ 0 →
    (s.me.levels = [] → s.me.inFurrow = false → s.ctx.harvest = false → s.me.settled = true →
      let a : Split := { slices := yes, pc := targetOf s o, stack := stack }
      let b : Split := { slices := no, pc := s.me.pc + 8, stack := s.me.stack }
      let (x, y) := if lowestSlice yes < lowestSlice no then (a, b) else (b, a)
      exec i s = .next { s with me := s.me.share s.me.id true x, parts := s.parts ++ [s.me.share s.nextId false y],
                                      nextId := s.nextId + 1 }) ∧
    (s.me.levels ≠ [] ∨ s.me.inFurrow = true ∨ s.ctx.harvest = true → exec i s = .next (s.trapAux 6 1))

/-- A slice whose four lanes disagree makes a .sl BR or CALL trap DIVERGE, with every such slice's lanes in LANES and AUX 0 (R69,
R70). -/
def Claims.DisagreeingSlicesDiverge : Prop :=
  ∀ (o : FB) (s : State) (i : Instr), i = .br o ∨ (i = .call o ∧ s.me.stack.length < 255) → Ready i s → (∃ i, Disagrees s o i) →
    ∃ lanes : LaneMask, exec i s = .next (s.raise { code := 6, aux := 0, lanes := lanes }) ∧
      ∀ l, l < 32 → (lanes.getLsbD l = true ↔ Disagrees s o (l / 4))

/-- No L1 and no sector that a device-scope access of the part passes holds a copy of the line, or the place is no device
memory. -/
def Uncopied (s : State) (a : Nat) : Prop :=
  isHbm a = true → (∀ x ∈ (s.getCore s.here).l1, x.line ≠ a / 128) ∧ ∀ e ∈ s.sectors, e.2.line ≠ a / 128

/-- The part can read n bytes at an address of the global space at device scope now: the address is aligned and translates to
a readable place of the device or the host, and no fence, engine, hold, missing line or poison stands in the way. -/
def Readable (s : State) (va : Word64) (n code : Nat) (x : Spot) : Prop :=
  va.toNat % n = 0 ∧ s.vaPlace { space := 4, size := n, r := true, w := false, scope := 3, sizeCode := code } va.toNat = .spot x ∧
  s.isPoisoned x.ua n = false ∧ s.me.fenced = false ∧ s.ownedUnit 0 x.ua n = false ∧
  s.heldByOther s.me.id x.ua n false = none ∧ s.needsFill s.here 2 x.ua = false ∧ Uncopied s x.ua ∧
  isPeer x.ua = false

/-- The bytes that the part then reads: those of the home, under its own stores that are not yet performed and the writes of
its open transaction. -/
def seen (s : State) (x : Spot) (n : Nat) : Nat :=
  leNat ((overlay s.me.pending x.ua (s.homeRead x.key x.ua n)).zipIdx.map fun b => s.me.txByte (x.ua + b.2) b.1)

/-- The word at a target is a landing pad with the tag, and fetching it gives the state t. -/
def LandsOn (s : State) (target : Word64) (tag : BitVec 12) (t : State) : Prop :=
  ∃ w : Word64, s.fetch target = (t, .word w) ∧ w.toNat / 2 ^ 56 = 9 ∧ w.toNat / 2 ^ 8 % 2 ^ 12 = tag.toNat

/-- The target that a table entry gives (R74): a signed count of words from the kernel's entry address. -/
def tableTargetOf (s : State) (x : Spot) : Word64 := s.ctx.entry + 8 * (BitVec.ofNat 32 (seen s x 4)).signExtend 64

/-- Jumps, calls and returns by address (R73 to R77), NOP and LPAD (R73, R87), and BRG (R72): an index at or beyond the count
goes on at the next word, and every other transfer goes to a landing pad. -/
def Claims.JumpsReachTheirTargets : Prop :=
  ∀ (o : FX) (b : FB) (s t : State) (x : Spot) (a : Word64) (rest : List Frame),
    let next := s.me.pc + 8
    (Ready (.nop o) s → exec (.nop o) s = .next (wentOn s)) ∧
    (Ready (.lpad o) s → exec (.lpad o) s = .next (wentOn s)) ∧
    (Ready (.brg b) s →
      exec (.brg b) s = .next (if (s.rg b.d.toNat = 0) ↔ b.q.toNat % 2 = 1 then movedTo s (targetOf s b) s.me.stack else wentOn s)) ∧
    (Ready (.jt o) s → (s.rg o.c.toNat).toNat ≤ (s.rg o.a.toNat).toNat → exec (.jt o) s = .next (wentOn s)) ∧
    (Ready (.jt o) s → (s.rg o.a.toNat).toNat < (s.rg o.c.toNat).toNat →
      Readable s (s.rg o.b.toNat + 4 * s.rg o.a.toNat) 4 2 x → LandsOn s (tableTargetOf s x) o.qual t →
      exec (.jt o) s = .next (movedTo t (tableTargetOf s x) s.me.stack)) ∧
    (Ready (.calli o) s → (s.rg o.a.toNat).toNat % 8 = 0 → s.me.stack.length < 255 → LandsOn s (s.rg o.a.toNat) o.qual t →
      exec (.calli o) s = .next (movedTo t (s.rg o.a.toNat) (.ret next :: s.me.stack))) ∧
    (Ready (.ret o) s → s.me.stack = .ret a :: rest → exec (.ret o) s = .next (movedTo s a rest)) ∧
    (Ready (.ret o) s → s.me.stack = [] → exec (.ret o) s = .next (s.trapAux 1 7))

/-- JTV whose slices all hold one index (R74): at or beyond the count the part goes on at the next word; below it, the part goes
to the table's target. Where a slice's lanes differ, it traps DIVERGE with AUX 0. -/
def Claims.VectorJumpsOfOneIndex : Prop :=
  ∀ (o : FX) (s t : State) (x : Spot) (i : Word32), Ready (.jtv o) s → s.me.slices ≠ 0 →
    let count := (s.rg o.c.toNat).toNat
    ((∀ l, l < 32 → s.present.getLsbD l = true → s.rv o.a.toNat l = i) →
      (count ≤ i.toNat → exec (.jtv o) s = .next (wentOn s)) ∧
      (i.toNat < count → Readable s (s.rg o.b.toNat + 4 * BitVec.ofNat 64 i.toNat) 4 2 x →
        tableTargetOf s x ≠ s.me.pc + 8 → LandsOn s (tableTargetOf s x) o.qual t →
        exec (.jtv o) s = .next (movedTo t (tableTargetOf s x) s.me.stack))) ∧
    ((∃ l k, l < 32 ∧ k / 4 = l / 4 ∧ s.present.getLsbD l = true ∧ s.rv o.a.toNat l ≠ s.rv o.a.toNat k) →
      ∃ lanes : LaneMask, exec (.jtv o) s = .next (s.raise { code := 6, aux := 0, lanes := lanes }))

/-- REGANG (R79, R80): a part that awaits only its own slices passes at once, whatever else runs; two parts at one REGANG with
equal return stacks become one, which keeps the gang registers of the part with the lowest slice, has the accesses of both, and goes
on at the next word. The parts of a gang have disjoint slices. That it keeps its own TRAPINFO and deferred entries is the model's
choice (log 44). -/
def Claims.RegangRejoinsParts : Prop :=
  ∀ (o : FX) (s : State), Ready (.regang o) s → s.me.inflight = [] → s.me.levels = [] → s.me.gang = s.gang.id →
    s.gang.id ≠ 0 → (∀ p ∈ s.parts, p.id ≠ s.me.id ∧ (p.gang = s.gang.id → p.slices &&& s.me.slices = 0)) → s.me.slices ≠ 0 →
    let named (i : Nat) : Bool := (s.rg o.a.toNat).toNat % 256 = 0 ∨ (s.rg o.a.toNat).getLsbD i
    let awaited (i : Nat) : Bool := s.gang.started.getLsbD i ∧ ¬s.gang.gone.getLsbD i
    let here (p : Part) : Part := { p with state := .ready, pc := p.pc + 8 }
    ((∀ p ∈ s.parts, p.gang = s.gang.id → p.atRegang = false) →
      (∀ i, i < 8 → named i = true → awaited i = true → s.me.slices.getLsbD i = true) →
      exec (.regang o) s = .next { s with me := here s.me }) ∧
    ((∀ p ∈ s.parts, p.gang = s.gang.id → p.atRegang = false) →
      (∃ i, i < 8 ∧ named i = true ∧ awaited i = true ∧ s.me.slices.getLsbD i = false) →
      exec (.regang o) s =
        .next { s with me := { s.me with state := .parked (.regang (BitVec.ofNat 8 (s.rg o.a.toNat).toNat)) } }) ∧
    ∀ (q : Part) (rest : List Part) (a : BitVec 8), s.parts = q :: rest → (∀ p ∈ rest, p.gang ≠ s.gang.id ∧ p.id ≠ q.id) →
      q.gang = s.gang.id → q.state = .parked (.regang a) → q.pc = s.me.pc → q.inFurrow = s.me.inFurrow →
      q.stack = s.me.stack → q.id ≠ 0 → q.slices ≠ 0 →
      (∀ i, i < 8 → awaited i = true → (s.me.slices ||| q.slices).getLsbD i = true) →
      let join (p r : Part) : Part :=
        { here p with slices := p.slices ||| r.slices, pending := p.pending ++ r.pending.map fun x => { x with part := p.id } }
      -- requests that wait at a slice for the part that is no more are the other's
      let moved (p r : Part) (x : Req) : Req := if x.part = r.id then { x with part := p.id } else x
      let taken (p r : Part) (t : State) : State :=
        { t with misses := s.misses.map fun m => { m with waiters := m.waiters.map (moved p r) }
                 ingress := s.ingress.map (moved p r) }
      exec (.regang o) s =
        .next (if lowestSlice q.slices < lowestSlice s.me.slices
          then taken q s.me { s with me := {}, parts := join q s.me :: rest }
          else taken s.me q { s with me := join s.me q, parts := rest })

/-- EXIT (R80, R81): the part's slices end and leave every await set. While another part of the gang runs, nothing else
changes; with the gang's last slice its register blocks return to the quadrant. -/
def Claims.ExitEndsTheSlices : Prop :=
  ∀ (o : FX) (s : State), Ready (.exit o) s → s.me.inflight = [] → s.me.levels = [] → s.me.inFurrow = false →
    s.me.gang = s.gang.id → s.gang.id ≠ 0 → s.gang.workgroup = s.wg.id → s.wg.id ≠ 0 →
    (∀ p ∈ s.parts, p.gang = s.gang.id → p.atRegang = false) →
    ((∃ p ∈ s.parts, p.gang = s.gang.id ∧ p.state ≠ .exited) →
      exec (.exit o) s = .next { s with me := { s.me with state := .exited },
                                        gang := { s.gang with gone := s.gang.gone ||| s.me.slices } }) ∧
    ((∀ p ∈ s.parts, p.gang = s.gang.id → p.state = .exited) →
      ∃ t : State, exec (.exit o) s = .next t ∧ t.me.state = .exited ∧ t.gang.v = [] ∧ t.gang.vblk = 0 ∧
        t.gang.gone = s.gang.gone ||| s.me.slices)

/-- ACQUIRE (R88): with the full allotment it goes on at once; else the part parks and its gang's request stands at the core, once.
That the issuing part alone parks is the model's reading (log 48). -/
def Claims.AcquireAsksForTheFullAllotment : Prop :=
  ∀ (o : FX) (s : State), Ready (.acquire o) s → s.me.inflight = [] →
    (s.gang.full = true → exec (.acquire o) s = .next (wentOn s)) ∧
    (s.gang.full = false → s.me.levels = [] → (∀ a ∈ s.core.acquires, a.gang ≠ s.gang.id) →
      exec (.acquire o) s = .next { s with
        me := { s.me with state := .parked .acquire }
        core := { s.core with acquires := s.core.acquires ++ [{ gang := s.gang.id, harvest := s.ctx.harvest }] } }) ∧
    (s.gang.full = false → s.me.levels = [] → (∃ a ∈ s.core.acquires, a.gang = s.gang.id) →
      exec (.acquire o) s = .next { s with me := { s.me with state := .parked .acquire } })

/-! ## Taking a trap and returning from it (R204 to R211) -/

/-- The record of a trap at the word in issue. -/
def atWord (s : State) (t : TrapRec) : TrapRec :=
  { t with pc := s.me.pc, second := t.second || s.me.second, replay := t.replay || s.me.replay.isSome }

/-- Where a part resumes after a trap that its handler returns from: behind a TRAP or BRK, else at the word (R207). -/
def resumeOf (s : State) (t : TrapRec) : Word64 := if 0x20 ≤ t.code then s.me.pc + 8 else s.me.pc

/-- The part in its handler (R206): g62 and g63 name the trap and its record, TRAPINFO says why, a trap frame is pushed, the
record is a store of the part with release order, and the PC is TRAPVEC.ADDR. -/
def entered (s : State) (t : TrapRec) (x : Spot) : State :=
  let slot := recordSlot s.ctx s.wg s.gang s.me
  let bytes := recordBytes s.ctx s.wg s.gang s.me (atWord s t) (resumeOf s t) (s.rg 62) (s.rg 63)
  { s with nextId := s.nextId + 1, me := { s.me with
      state := .ready, drain := false, trap := none, replay := none
      recording := if s.me.replay.isSome then none else s.me.recording
      g := gangWith (gangWith s.me.g 62 (BitVec.ofNat 64 t.code)) 63 slot
      tiCode := BitVec.ofNat 8 t.code, tiAux := BitVec.ofNat 8 t.aux, tiLanes := t.lanes
      stack := .trap slot :: s.me.stack
      pc := BitVec.ofNat 64 (8 * s.gang.tvAddr.toNat)
      pending := s.me.pending ++
        [{ id := s.nextId, part := s.me.id, kind := .write, addr := x.ua, size := 64, key := x.key,
           scope := if x.mt = 0 then 3 else 4, rel := true, harvest := s.ctx.harvest, hedge := s.ctx.hedge,
           critical := x.critical, data := leNat bytes, spans := x.spans }] } }

/-- The part can enter its handler now (R205, R206): no lane result, parked lane or transaction is open, TRAPVEC is enabled, it is
in no handler, its context is not ending, its return stack has room, and its record slot can be written. -/
def CanEnter (s : State) (t : TrapRec) (x : Spot) : Prop :=
  s.me.ending = false ∧ s.me.inflight = [] ∧ s.me.parked = [] ∧ s.me.levels = [] ∧ s.gang.tvEn = true ∧ s.me.inHandler = false ∧
  s.me.stack.length < 255 ∧ t.code ≠ 0x0B ∧ t.code ≠ 0x0E ∧ t.aborted = false ∧
  s.slotPlace (recordSlot s.ctx s.wg s.gang s.me).toNat = .spot x

/-- A trap other than POISON and UNCOVERED enters the handler; nothing but the part itself changes. -/
def Claims.TrapsEnterTheHandler : Prop :=
  ∀ (s : State) (t : TrapRec) (x : Spot), CanEnter s t x → s.raise t = entered s t x

/-- TRAP and an enabled BRK take their trap, with code 0x20 plus the number, or 0x2F and AUX 0xFF; a BRK whose TRAPVEC is
disabled goes on (R85, R86). -/
def Claims.TrapWordsTakeTheirTrap : Prop :=
  ∀ (o : FX) (s : State) (x : Spot),
    let n := o.qual.toNat % 16
    let trap : TrapRec := { code := 0x20 + n, aux := n, lanes := s.present }
    let brk : TrapRec := { code := 0x2F, aux := 0xFF, lanes := s.present }
    (Ready (.trap o) s → CanEnter s trap x → exec (.trap o) s = .next (entered s trap x)) ∧
    (Ready (.brk o) s → CanEnter s brk x → exec (.brk o) s = .next (entered s brk x)) ∧
    (Ready (.brk o) s → s.me.inflight = [] → s.gang.tvEn = false → exec (.brk o) s = .next (wentOn s))

/-- The layout of a fault record (R210): 64 bytes, little-endian fields at these offsets. -/
def Claims.FaultRecordLayout : Prop :=
  ∀ (c : Context) (w : Workgroup) (g : Gang) (p : Part) (t : TrapRec) (resume s62 s63 : Word64),
    let bs := recordBytes c w g p t resume s62 s63
    let field (at_ n : Nat) : Nat := leNat ((bs.drop at_).take n)
    bs.length = 64 ∧ field 0 1 = t.code % 256 ∧ field 1 1 = t.aux % 256 ∧ field 2 1 = t.acc % 256 ∧
    field 3 1 = (t.replay.toNat * 64 + t.aborted.toNat * 32 + t.second.toNat * 16 + t.size) % 256 ∧
    field 4 4 = t.lanes.toNat ∧ field 8 8 = t.pc.toNat ∧ field 16 8 = t.addr.toNat ∧
    field 24 2 = coreIdOf g w.core % 2 ^ 16 ∧ field 26 1 = (w.px * 16 + w.py) % 256 ∧ field 27 1 = p.slices.toNat ∧
    field 28 2 = c.asid % 2 ^ 16 ∧ field 30 1 = c.hedge % 256 ∧ field 31 1 = c.harvest.toNat ∧
    field 32 8 = p.xstat.toNat ∧ field 40 8 = resume.toNat ∧ field 48 8 = s62.toNat ∧ field 56 8 = s63.toNat

/-- A trap inside a transaction aborts it first: XSTAT holds 0x40 plus the code and the open depth, the attempt's levels are gone,
and the part stands at the outermost level's target, where a return from the handler resumes (R141, R205). -/
def Claims.TrapsAbortTheTransaction : Prop :=
  ∀ (s : State) (t : TrapRec) (x : Spot), s.me.levels ≠ [] → s.me.doomed = false →
    s.stale s.me.readLines = false → s.me.inflight = [] → s.me.parked = [] → s.me.replay = none →
    let s1 := s.hwAbort (0x40 + t.code)
    CanEnter s1 t x →
    s1.me.levels = [] ∧ s1.me.pc = (s.me.level 1).target ∧ s1.me.xcode = BitVec.ofNat 8 (0x40 + t.code) ∧
    s1.me.xlevel = BitVec.ofNat 3 s.me.levels.length ∧ s1.me.stack = (s.me.level 1).stack ∧
    ∃ u : State, s.raise t = u ∧ u.me.pc = BitVec.ofNat 64 (8 * s.gang.tvAddr.toNat) ∧
      u.me.stack = .trap (recordSlot s1.ctx s1.wg s1.gang s1.me) :: s1.me.stack ∧ u.me.levels = [] ∧
      ∃ r, u.me.pending = s1.me.pending ++ [r] ∧
        r.data = leNat (recordBytes s1.ctx s1.wg s1.gang s1.me { atWord s t with aborted := true } s1.me.pc (s1.rg 62) (s1.rg 63))

/-- A trap that no handler can take ends the context (R205, R209): its parts exit, it runs no more, and it reports the trap
unless it has reported one before. -/
def Claims.UnhandledTrapsEndTheContext : Prop :=
  ∀ (s : State) (t : TrapRec), s.me.inflight = [] → s.me.parked = [] → s.me.levels = [] →
    t.code = 0x0B ∨ t.code = 0x0E ∨ s.gang.tvEn = false ∨ s.me.inHandler = true ∨ s.me.stack.length = 255 ∨
      s.me.ending = true →
    (∀ aux, s.slotPlace (recordSlot s.ctx s.wg s.gang s.me).toNat ≠ .fault 7 aux) →
    s.slotPlace (recordSlot s.ctx s.wg s.gang s.me).toNat ≠ .hold →
    (∀ x, s.slotPlace (recordSlot s.ctx s.wg s.gang s.me).toNat = .spot x →
      s.heldByOther s.me.id x.ua 64 true = none ∧ s.heldByOther 0 x.ua 64 true = none ∧ s.ownedUnit 0 x.ua 64 = false) →
    s.me.id ≠ 0 → s.me.gang = s.gang.id → s.gang.id ≠ 0 → s.gang.workgroup = s.wg.id → s.wg.id ≠ 0 →
    s.wg.context = s.ctx.id → s.ctx.id ≠ 0 →
    let u := s.raise t
    u.ctx.live = false ∧ u.me.state = .exited ∧ u.me.inflight = [] ∧ u.me.pending = [] ∧ u.wg.state = .released ∧
    match s.ctx.report with
    | some r => u.ctx.report = some r
    | none => ∃ slot, u.ctx.report = some { status := t.code, aux := t.aux, pc := s.me.pc, slot := slot }

end Sys2Proof

/-- RET on a trap frame (R207): the resume address, g62 and g63 are read back from the record with acquire order, the frame goes,
and the part goes on where the record says. Its core and its sector then hold no copy of a line. -/
def Obligations.ReturnsFromTheHandler : Prop :=
  ∀ (o : FX) (s : State) (slot : Word64) (rest : List Frame) (x y z : Spot), Ready (.ret o) s →
    s.me.stack = .trap slot :: rest → Readable s (slot + 40) 8 3 x → Readable s (slot + 48) 8 3 y →
    Readable s (slot + 56) 8 3 z → seen s x 8 % 8 = 0 → (s.getCore s.here).l1 = [] → s.sectors = [] →
    ∃ t : State, exec (.ret o) s = .next t ∧
      t.me = { s.me with
        g := gangWith (gangWith s.me.g 62 (BitVec.ofNat 64 (seen s y 8))) 63 (BitVec.ofNat 64 (seen s z 8))
        pc := BitVec.ofNat 64 (seen s x 8), stack := rest } ∧
      { t with me := s.me } = { s with narrow := s.narrow.filter (·.2 ≠ coreSector s.here) }

/-! ## Memory: bytes, copies and accesses (R117 to R134, R237, R242 to R254) -/

namespace Sys2Proof

/-- The lanes `xs` of an access stand at places that their addresses name: each address is aligned, no page is missing and no
private page has to be mapped first. -/
def Placed (s : State) (n : Need) (ls : List Nat) (ea : Nat → Word64) (xs : List (Nat × Spot)) : Prop :=
  s.growFor n (ls.map fun l => (ea l).toNat) = (s, none) ∧ xs.map (·.1) = ls ∧
  ∀ x ∈ xs, (ea x.1).toNat % n.size = 0 ∧ s.place n none x.1 (ea x.1) = .spot x.2

/-- The lanes of a peer access are one pass: they name one peer, at aligned offsets, and each has its place (R124). -/
def PlacedAtPeer (s : State) (n : Need) (ls : List Nat) (ea : Nat → Word64) (xs : List (Nat × Spot)) : Prop :=
  ls ≠ [] ∧ xs.map (·.1) = ls ∧ ∃ p, ∀ x ∈ xs, peerOf (ea x.1) = p ∧ (ea x.1).toNat % n.size = 0 ∧
    s.peerPlace n (ea x.1) = .spot x.2

/-- Each place lies within one line of which no copy stands in the way, and holds no poison. -/
def Plain (s : State) (n : Nat) (xs : List (Nat × Spot)) : Prop :=
  ∀ x ∈ xs, x.2.ua % 128 + n ≤ 128 ∧ Uncopied s x.2.ua ∧ s.isPoisoned x.2.ua n = false

/-- No copy in an L1 or a sector holds bytes that its home lacks. -/
def CleanCopies (s : State) : Prop := (∀ k ∈ s.allCores, ∀ x ∈ k.l1, x.dirty = []) ∧ ∀ e ∈ s.sectors, e.2.dirty = []

/-- Nothing but the part, copies, requests that have left for peers, with their counts, and the next identifier differs. -/
def SameButCopies (s t : State) : Prop :=
  { t with me := s.me, core := s.core, cores := s.cores, sectors := s.sectors, resident := s.resident, narrow := s.narrow,
           nextId := s.nextId, outbox := s.outbox, criticalSent := s.criticalSent, sentCount := s.sentCount } = s

/-- What a load of n bytes writes to the registers of a lane (R117): a narrow value is extended, a wide one fills vD and its
followers. -/
def landing (d n l x : Nat) (sx : Bool) : List (Nat × Word32) :=
  if n < 4 then [(32 * d + l, if sx then BitVec.ofInt 32 (BitVec.ofNat (8 * n) x).toInt else BitVec.ofNat 32 x)]
  else (List.range (n / 4)).map fun i => (32 * (d + i) + l, BitVec.ofNat 32 (x / 2 ^ (32 * i)))

/-- The bytes that a read of the part gives at a place: those of the home, under its own stores not yet performed (R245). -/
def bytesSeen (s : State) (x : Spot) (n : Nat) : Nat := leNat (overlay s.me.pending x.ua (s.homeRead x.key x.ua n))

/-- The part with one more result in flight, at the next word. -/
def loadInFlight (s : State) (ws : List (Nat × Word32)) (flags : BitVec 6) : Part :=
  { s.me with pc := s.me.pc + 8, inflight := s.me.inflight ++ [{ id := s.nextId, writes := ws, flags := flags }] }

/-- The read that a lane of a load sends: it waits at its line's home, or is on its way (R314, R373). -/
def loadReq (s : State) (o : FM) (scope : Nat) (x : Nat × Spot) : Req :=
  let n := 2 ^ o.size.toNat
  { s.request (.read o.d.toNat (o.mq.getLsbD 0) s.nextId) s.nextId n scope (o.mq.toNat / 2) false (needOf o true false).acc
      o.size.toNat (s.ea o n) x 0 with acq := decide (o.ord = 1) }

/-- The state after a load none of whose bytes is at hand: the lanes in `out` have a request each on its way, `waiting` others wait at
their lines' homes, and the result waits for them all. -/
def loadSent (s : State) (o : FM) (scope waiting : Nat) (out : List (Nat × Spot)) : State :=
  { s with
    nextId := s.nextId + 1
    me := { s.me with pc := s.me.pc + 8, pending := s.me.pending ++ out.map (loadReq s o scope)
                      inflight := s.me.inflight ++ [{ id := s.nextId, waits := waiting + out.length }] } }

/-- A lane of a load goes to its home: it acquires, it reads outside the device, or an earlier packet of the core is on its way (R306,
R312, R373). -/
def goesOut (s : State) (o : FM) (level : Nat) (x : Spot) : Bool :=
  o.ord == 1 || isOutside x.ua || s.late (x.level level) x.ua

/-- LD outside a transaction, and RLD of one peer. Where the bytes of every lane are at hand, they are put in flight and the part goes
on; but for copies that reads leave in caches, nothing else changes (R117, R242). Where those of no lane are, each lane's read joins the
waiters of its line, or is on its way, and the result waits for them: the part goes on, and no byte changes (R124, R314, R373). Reads
at a narrow scope may have to make room in a cache: no copy is dirty then. -/
def Claims.LoadsPutMemoryInFlight : Prop :=
  ∀ (o : FM) (s : State) (xs : List (Nat × Spot)),
    let n := 2 ^ o.size.toNat
    let ls := lanesOf (s.active o.guard)
    let ld := Ready (.ld o) s ∧ Placed s (needOf o true false) ls (s.ea o n) xs
    let rld := Ready (.rld o) s ∧ PlacedAtPeer s (needOf o true false) ls (s.ea o n) xs
    s.me.levels = [] → s.blocked (xs.map (·.2)) n false = none → (∀ x ∈ xs, s.planeFull x.2 = false) →
    ∀ (i : Instr) (scope : Nat), (i = .ld o ∧ scope = o.scope.toNat ∧ ld) ∨ (i = .rld o ∧ scope = 4 ∧ rld) →
      let level := s.levelOf s.me scope
      let far (x : Nat × Spot) : Bool := s.needsFill s.here (x.2.level level) x.2.ua
      (Plain s n xs → (∀ x ∈ xs, goesOut s o level x.2 = false ∧ far x = false) → s.readsBefore (xs.map (·.2)) n = false →
        CleanCopies s ∨ level = 2 →
        ∃ t, exec i s = .next t ∧ SameButCopies s t ∧
          t.me = loadInFlight s (xs.flatMap fun x => landing o.d.toNat n x.1 (bytesSeen s x.2 n) (o.mq.getLsbD 0)) 0) ∧
      let (out, waiting) := xs.partition fun x => goesOut s o level x.2
      ∀ u : State, xs ≠ [] → (∀ x ∈ waiting, far x = true) → s.joinAll (waiting.map (loadReq s o scope)) = some u →
        exec i s = .next (loadSent { u with me := s.me, nextId := s.nextId } o scope waiting.length out)

/-- LDD decodes each lane's elements under the page's format and scale code and puts them in flight (R121, R292). -/
def Claims.DecodingLoadsPutElementsInFlight : Prop :=
  ∀ (o : FM) (s : State) (xs : List (Nat × Spot)), Ready (.ldd o) s →
    let count := 2 ^ (o.mq.toNat % 4)
    let ea := s.ea o 1
    let gs := xs.map (groupAt count ea)
    let spots := gs.flatMap Group.spots
    -- an element of a group, as its code reads it
    let elem (g : Group) (k : Nat) : Word32 × BitVec 6 :=
      let code := if g.blk = 0 then 0 else bytesSeen s { g.spot with ua := g.scale } 1
      decodeElem s.ftz g.fmt g.blk code (bytesSeen s g.spot g.bytes / 2 ^ (k * fmtBits g.fmt) % 2 ^ fmtBits g.fmt)
    s.me.levels = [] → Placed s (groupNeed o true false) (lanesOf (s.active o.guard)) ea xs →
    (∀ x ∈ xs, groupExtra count (ea x.1) x.2 = none) → s.blocked (spots.map (·.2)) 16 false = none →
    s.readsBefore (spots.map (·.2)) 16 = false → s.me.got = [] →
    (∀ x ∈ spots, s.needsFill s.here (x.2.level (s.levelOf s.me o.scope.toNat)) x.2.ua = false ∧
      s.late (x.2.level (s.levelOf s.me o.scope.toNat)) x.2.ua = false) →
    (∀ g ∈ gs, Plain s g.bytes [(g.lane, g.spot)] ∧ (g.blk ≠ 0 → Plain s 1 [(g.lane, { g.spot with ua := g.scale })])) →
    CleanCopies s ∨ (o.ord ≠ 1 ∧ s.levelOf s.me o.scope.toNat = 2) →
    ∃ t, exec (.ldd o) s = .next t ∧ SameButCopies s t ∧
      t.me = loadInFlight s
        (gs.flatMap fun g => (List.range count).map fun k => (32 * (o.d.toNat + k) + g.lane, (elem g k).1))
        ((gs.flatMap fun g => (List.range count).map fun k => (elem g k).2).foldl (· ||| ·) 0)

/-- A word that writes memory appends its stores, under one number, to those that are not yet performed, and goes on; the frame is
everything else. -/
def stored (s : State) (rs : List Req) : State :=
  { s with nextId := s.nextId + 1, me := { s.me with pending := s.me.pending ++ rs, pc := s.me.pc + 8 } }

/-- The stores of the lanes `xs`: one for each lane, at its place; each byte is the byte of some lane that writes it (R117). -/
def StoresOf (s : State) (o : FM) (scope : Nat) (data : Nat → Nat) (xs : List (Nat × Spot)) (rs : List Req) : Prop :=
  let n := 2 ^ o.size.toNat
  rs.length = xs.length ∧ ∀ (i : Nat) (x : Nat × Spot) (r : Req), xs[i]? = some x → rs[i]? = some r →
    r = { id := s.nextId, part := s.me.id, lane := x.1, kind := .write, addr := x.2.ua, size := n, key := x.2.key,
          scope := if x.2.mt = 0 then scope else 4, rel := decide (o.ord = 2), harvest := s.ctx.harvest, hedge := s.ctx.hedge,
          data := r.data, policy := o.mq.toNat / 2, critical := x.2.critical, pc := s.me.pc, va := s.ea o n x.1,
          acc := (needOf o false true).acc, sizeCode := o.size.toNat, second := s.me.second, spans := x.2.spans } ∧
    r.data < 2 ^ (8 * n) ∧ ∀ j, j < n → ∃ y ∈ xs, y.2.ua ≤ x.2.ua + j ∧ x.2.ua + j < y.2.ua + n ∧
      r.data / 2 ^ (8 * j) % 256 = data y.1 / 2 ^ (8 * (x.2.ua + j - y.2.ua)) % 256

/-- ST outside a transaction, and RST of one peer: the stores of the active lanes are issued, and nothing else changes (R117,
R124). -/
def Claims.StoresIssueTheirBytes : Prop :=
  ∀ (o : FM) (s : State) (xs : List (Nat × Spot)),
    let n := 2 ^ o.size.toNat
    let ls := lanesOf (s.active o.guard)
    s.me.levels = [] → o.defer = false →
    (Ready (.st o) s → Placed s (needOf o false true) ls (s.ea o n) xs → s.readsBefore (xs.map (·.2)) n = false →
      (∀ x ∈ xs, s.planeFull x.2 = false) →
      ∃ rs, exec (.st o) s = .next (stored s rs) ∧ StoresOf s o o.scope.toNat (s.laneData o.d.toNat n) xs rs) ∧
    (Ready (.rst o) s → PlacedAtPeer s (needOf o false true) ls (s.ea o n) xs → s.sendWait (xs.map (·.2)) n = none →
      ∃ rs, exec (.rst o) s = .next (stored s rs) ∧ StoresOf s o 4 (s.laneData o.d.toNat n) xs rs)

/-- STQ encodes each lane's elements, and each block's scale code, and issues their stores, a byte each (R239); the flags of the
encoding join FFLAGS (R122). A byte that no other group writes is the byte of its group's encoding. -/
def Claims.QuantisingStoresIssueEncodedElements : Prop :=
  ∀ (o : FM) (s : State) (xs : List (Nat × Spot)), Ready (.stq o) s →
    let count := 2 ^ (o.mq.toNat % 4)
    let gs := xs.map (groupAt count (s.ea o 1))
    let spots := (gs.flatMap Group.spots).map (·.2)
    let enc (g : Group) : Nat × BitVec 6 := s.encodeGroup o.d.toNat count (o.mq.getLsbD 2) gs g
    let scale (g : Group) (r : Req) : Prop := r.addr = g.scale ∧ r.data = (s.blockCode o.d.toNat count gs g).1
    s.me.levels = [] → Placed s (groupNeed o false true) (lanesOf (s.active o.guard)) (s.ea o 1) xs →
    (∀ x ∈ xs, groupExtra count (s.ea o 1 x.1) x.2 = none) →
    (∀ g ∈ gs, g.blk ≠ 0 → covered g (s.blockGives o.d.toNat count gs g) = true) →
    s.readsBefore spots 16 = false → (∀ x ∈ spots, s.planeFull x = false) →
    ∃ rs, exec (.stq o) s = .next { stored s rs with
        gang := { s.gang with fflags := s.gang.fflags ||| (gs.map fun g => (enc g).2).foldl (· ||| ·) 0 } } ∧
      (∀ (i : Nat) (g : Group), gs[i]? = some g → ∀ b, b < g.bytes → ∃ r ∈ rs, r.addr = g.spot.ua + b ∧ r.size = 1 ∧
        ((∀ (j : Nat) (h : Group), gs[j]? = some h → j ≠ i → overlaps h.spot.ua h.bytes g.spot.ua g.bytes = false) →
          r.data = (enc g).1 / 2 ^ (8 * b) % 256)) ∧
      (∀ g ∈ gs, g.blk ≠ 0 → ∃ r ∈ rs, r.size = 1 ∧ ∃ h ∈ gs, h.scale = g.scale ∧ h.blk ≠ 0 ∧ scale h r) ∧
      ∀ r ∈ rs, r.kind = .write ∧ r.part = s.me.id ∧ r.size = 1 ∧
        ((∃ g ∈ gs, g.spot.ua ≤ r.addr ∧ r.addr < g.spot.ua + g.bytes) ∨ ∃ g ∈ gs, g.blk ≠ 0 ∧ scale g r)

/-- EMAX of R294, by FMT code: FP16, BF16, E5M2, E4M3, F4, I8, I4. -/
def topBinade (f : Nat) : Int := [0, 15, 127, 15, 8, 2, 6, 2].getD f 0

/-- The scale code of a block is the one that R294 computes: from its largest finite element a it is floor(log2 a) - EMAX + 127, not
below 1, and one more where a would overflow under it. NaN, infinities and zeros give the codes of R294, and the code keeps the largest
element within the format. -/
def Claims.BlockScalesFitTheLargestElement : Prop :=
  ∀ (f : Nat) (xs : List FVal), 1 ≤ f → f ≤ 7 →
    let (m, e) := amax xs
    let spills (c : Int) : Prop := (encodeTo f (scaleF (.fin false m e) (127 - c)) 0 false).2 &&& (flagOF ||| flagSAT) ≠ 0
    -- what the largest finite element is
    (∀ n k h, .fin n k h ∈ xs → ratOf false k h ≤ ratOf false m e) ∧ (m ≠ 0 → ∃ n, .fin n m e ∈ xs) ∧
    ((∃ x ∈ xs, isNan x = true) → blockScale f xs = (0xFF, 0)) ∧
    ((∀ x ∈ xs, isNan x = false) →
      (m = 0 → blockScale f xs = (if xs.contains (.inf false) ∨ xs.contains (.inf true) then 0x7F else 0, 0)) ∧
      ∀ k : Int, (2 : Rat) ^ k ≤ ratOf false m e → ratOf false m e < 2 ^ (k + 1) →
        let c := k - topBinade f + 127
        (c < 1 → blockScale f xs = (1, flagUF)) ∧
        (1 ≤ c → spills c → blockScale f xs = ((c + 1).toNat, 0)) ∧
        (1 ≤ c → ¬spills c → blockScale f xs = (c.toNat, 0)) ∧ ¬spills (blockScale f xs).1)

/-- DEFER in a furrow (R129): ST, RST and RED record their lanes and their effect, and perform nothing; without a furrow or with
sixteen entries recorded they trap ILLEGAL. -/
def Claims.DeferredWordsAreRecorded : Prop :=
  ∀ (o : FM) (s : State) (xs : List (Nat × Spot)), o.defer = true → s.me.levels = [] → s.me.recording = none →
    let n := 2 ^ o.size.toNat
    let ls := lanesOf (s.active o.guard)
    let with_ (k : DeferKind) (data : Nat → Nat) : State := { s with me := { s.me with
      pc := s.me.pc + 8
      deferred := s.me.deferred ++ [{
        kind := k, lanes := ls.map fun l => { lane := l, va := s.ea o n l, data := data l }, scope := o.scope.toNat,
        ord := o.ord.toNat, size := o.size.toNat, space := o.space.toNat, mop := o.mop.toNat, unsigned := o.mq.getLsbD 0 }] } }
    (s.me.inFurrow = true → s.me.deferred.length < 16 →
      (Ready (.st o) s → Placed s (needOf o false true) ls (s.ea o n) xs →
        exec (.st o) s = .next (with_ .st (s.laneData o.d.toNat n))) ∧
      (Ready (.red o) s → Placed s (needOf o true true (some o.mop.toNat)) ls (s.ea o n) xs →
        exec (.red o) s = .next (with_ .red (s.redData o))) ∧
      (Ready (.rst o) s → PlacedAtPeer s (needOf o false true) ls (s.ea o n) xs →
        exec (.rst o) s = .next (with_ .rst (s.laneData o.d.toNat n)))) ∧
    (s.me.inFurrow = false ∨ 16 ≤ s.me.deferred.length → Ready (.st o) s → exec (.st o) s = .next (s.trapAux 1 7))

/-- Memory as a reader with one key sees it, byte by byte. -/
def view (s : State) (key : Nat) (a : Nat) : Byte := s.readByte key a

/-- The bytes of a store put at its place. -/
def overwrite (m : Nat → Byte) (a n x : Nat) : Nat → Byte :=
  fun b => if a ≤ b ∧ b < a + n then BitVec.ofNat 8 (x / 2 ^ (8 * (b - a))) else m b

/-- An access of a part can reach its point now (R242, R249, R256, R306, R314, R319): it is no fence, what must precede it has been
performed, no earlier packet is on its way and no G packet stands before it, it waits in no slice, nothing holds, owns, zeroes or gates
its bytes, its line is at hand, its target and the way to a place outside the device stand, and some gang of its workgroup still
runs. -/
def CanReach (s : State) (part index : Nat) (r : Req) : Prop :=
  let p := s.getPart part
  part ≠ 0 ∧ p.id = part ∧ p.pending[index]? = some r ∧ r.part = part ∧ r.kind ≠ .fence ∧ s.joined r = false ∧
  p.mayGo index r = true ∧ s.behind p r = false ∧ s.gFirst (s.coreOfPart p) (s.levelOf p r.scope) r = false ∧
  s.targetGone p r = false ∧ s.lost r = none ∧ s.clear r = true ∧
  s.needsFill (s.coreOfPart p) (s.levelOf p r.scope) r.addr = false ∧
  ∃ g ∈ s.gangsOfWg (s.getGang p.gang).workgroup, s.gangOver g.id = false

/-- No L1 of the part's core and no sector holds a copy of the line of an access, which lies in device memory if anywhere that is
cached. -/
def UncopiedAt (s : State) (r : Req) : Prop :=
  isHbm r.addr = true → 0 < r.key ∧ r.addr + r.size ≤ hbmEnd ∧
    (∀ x ∈ (s.getCore (s.coreOfPart (s.getPart r.part))).l1, x.line ≠ r.addr / 128) ∧ ∀ e ∈ s.sectors, e.2.line ≠ r.addr / 128

/-- A store at device scope reaches its home (R242, R253): its bytes are there for a reader with its key, and every other byte reads
as before, for that key everywhere and for any key outside the 32-byte sectors that it touches; its entry leaves the part, no
register changes. -/
def Claims.PerformedStoresReachMemory : Prop :=
  ∀ (s : State) (part index : Nat) (r : Req), memoryWf s = true → CanReach s part index r → r.kind = .write → 3 ≤ r.scope →
    0 < r.size → r.rel = false → isDoorbell r.addr = false → UncopiedAt s r →
    ∃ t, exec (.accessPerformed part index) s = .next t ∧
      (t.getPart part).pending = (s.getPart part).pending.erase r ∧ t.me.g = s.me.g ∧ t.gang = s.gang ∧ t.gangs = s.gangs ∧
      (∀ a, view t r.key a = overwrite (view s r.key) r.addr r.size r.data a) ∧
      (∀ key a, (isHbm r.addr = true → a / 32 ∉ sectorsOf r.addr r.size) → (a < r.addr ∨ r.addr + r.size ≤ a) →
        view t key a = view s key a) ∧
      memoryWf t = true

/-- A read on its way is answered (R242, R373, R381): its bytes join its word's result, which then waits for one answer less, and its
entry leaves the part. No byte of memory changes; reads at a narrow scope and acquires may have to make room in caches, where no copy
is dirty then. -/
def Claims.SentReadsAreAnswered : Prop :=
  ∀ (s : State) (part index : Nat) (r : Req) (d res : Nat) (sx : Bool), CanReach s part index r → r.kind = .read d sx res →
    s.isPoisoned r.addr r.size = false → UncopiedAt s r → r.addr % 128 + r.size ≤ 128 →
    CleanCopies s ∨ (r.acq = false ∧ s.levelOf (s.getPart part) r.scope = 2) →
    let p := s.getPart part
    let x := leNat (overlay (p.before r) r.addr (s.homeRead r.key r.addr r.size))
    let answered (y : LaneResult) : LaneResult :=
      { y with writes := y.writes ++ landing d r.size r.lane x sx, waits := y.waits - 1 }
    ∃ t, exec (.accessPerformed part index) s = .next t ∧ t.mem = s.mem ∧
      t.getPart part = { p with pending := p.pending.erase r
                                inflight := p.inflight.map fun y => if y.id = res then answered y else y }

/-- A read at the level of a write, by the same core with the same key, gives the bytes written: the L1 (0), the sector copy (1), the
home (2) (R242, R245). -/
def Claims.ReadsSeeWritesAtTheirLevel : Prop :=
  ∀ (s : State) (u w : Alloc) (core level key a : Nat) (bs : List Byte), memoryWf s = true → (isHbm a = true → 0 < key) →
    bs ≠ [] → a % 128 + bs.length ≤ 128 → isDoorbell a = false →
    (∀ x ∈ (s.getCore core).l1, SMap.wf 0 x.data = true) → (∀ e ∈ s.sectors, SMap.wf 0 e.2.data = true) →
    ((s.pointWrite u core level key a bs).pointRead w core level key a bs.length).2 = bs

/-- The result of an atomic (R126) on n-bit values: its new value from the old value, the operand b and the swap value c. -/
def atomResult (mop n : Nat) (unsigned : Bool) (old b c : Nat) : Nat :=
  let v (x : Nat) : Int := if unsigned then x else (BitVec.ofNat n x).toInt
  match mop with
  | 0 => (old + b) % 2 ^ n
  | 1 => if v b < v old then b else old
  | 2 => if v old < v b then b else old
  | 3 => old &&& b
  | 4 => old ||| b
  | 5 => old ^^^ b
  | 6 => b
  | 7 => if old = b then c else old
  | 8 => if b ≤ old then 0 else old + 1
  | 9 => if old = 0 ∨ b < old then b else old - 1
  | 10 => atomFadd old b
  | 11 => atomFmin old b
  | _ => atomFmax old b

/-- The state after the lanes of an atomic have left: a request each, of the pass that its location gives it (R128), and for one that returns old values a result that waits for
them. -/
def atomicsSent (s : State) (o : FM) (ret : Bool) (scope : Nat) (xs : List (Nat × Spot)) : State :=
  let n := 2 ^ o.size.toNat
  let req (x : Nat × Spot) : Req :=
    let (b, c) := s.atomOperand o.d.toNat n o.mop.toNat x.1
    { s.request (.atomic o.mop.toNat (o.mq.getLsbD 0) (if ret then some o.d.toNat else none) s.nextId) s.nextId n scope 0
        (decide (2 ≤ o.ord.toNat)) (needOf o true true).acc o.size.toNat (s.ea o n) x b c with
      acq := decide (o.ord.toNat % 2 = 1), pass := passOf xs x }
  { s with
    nextId := s.nextId + 1
    me := { s.me with
      pc := s.me.pc + 8, pending := s.me.pending ++ xs.map req
      inflight := if ret ∧ xs ≠ [] then s.me.inflight ++ [{ id := s.nextId, waits := xs.length }] else s.me.inflight } }

/-- ATOM, RED and RAT send a request for each lane (R128), and nothing else changes. -/
def Claims.AtomicsLeaveForTheirLocations : Prop :=
  ∀ (o : FM) (s : State) (xs : List (Nat × Spot)),
    let n := 2 ^ o.size.toNat
    let ls := lanesOf (s.active o.guard)
    let need := needOf o true true (some o.mop.toNat)
    s.me.levels = [] → o.defer = false → s.sendWait (xs.map (·.2)) n = none →
    (Ready (.atom o) s → Placed s need ls (s.ea o n) xs →
      exec (.atom o) s = .next (atomicsSent s o true o.scope.toNat xs)) ∧
    (Ready (.red o) s → Placed s need ls (s.ea o n) xs →
      exec (.red o) s = .next (atomicsSent s o false o.scope.toNat xs)) ∧
    (Ready (.rat o) s → PlacedAtPeer s need ls (s.ea o n) xs → exec (.rat o) s = .next (atomicsSent s o true 4 xs))

/-- An atomic reaches its location (R126, R128): its read, modify and write are one indivisible step, memory holds the new value
and every other byte reads as before for its key, and the old value joins the result of a word that returns it. -/
def Claims.AtomicsReadModifyAndWriteAtOnce : Prop :=
  ∀ (s : State) (part index : Nat) (r : Req) (mop res : Nat) (u : Bool) (dst : Option Nat), memoryWf s = true →
    CanReach s part index r → r.kind = .atomic mop u dst res → mop ≤ 12 → r.size = 4 ∨ r.size = 8 → r.addr % r.size = 0 →
    isDoorbell r.addr = false → UncopiedAt s r →
    s.isPoisoned r.addr r.size = false → (r.rel = true ∨ r.acq = true → CleanCopies s) →
    let p := s.getPart part
    let old := leNat ((List.range r.size).map fun i => view s r.key (r.addr + i))
    let answered (d : Nat) (y : LaneResult) : LaneResult :=
      { y with writes := y.writes ++ landing d r.size r.lane old false, waits := y.waits - 1 }
    ∃ t, exec (.accessPerformed part index) s = .next t ∧
      (∀ a, view t r.key a =
        overwrite (view s r.key) r.addr r.size (atomResult mop (8 * r.size) u old r.data r.data2) a) ∧
      t.getPart part = { p with
        pending := p.pending.erase r
        inflight := match dst with
          | some d => p.inflight.map fun y => if y.id = res then answered d y else y
          | none => p.inflight }

/-- A misaligned active lane makes an access trap PROT with AUX 0x01 before any lane performs: LANES names every such lane and ADDR the
lowest one's address (R118). -/
def Claims.MisalignedLanesTrap : Prop :=
  ∀ (o : FM) (s : State) (l0 : Nat) (bad : List Nat),
    let n := 2 ^ o.size.toNat
    let trap (need : Need) : State :=
      s.raise { code := 8, aux := 1, lanes := maskOfList (l0 :: bad), acc := need.acc, size := need.sizeCode, addr := s.ea o n l0 }
    ((lanesOf (s.active o.guard)).filter fun l => decide ((s.ea o n l).toNat % n ≠ 0)) = l0 :: bad → o.defer = false →
    (Ready (.ld o) s → exec (.ld o) s = .next (trap (needOf o true false))) ∧
    (Ready (.st o) s → exec (.st o) s = .next (trap (needOf o false true))) ∧
    (Ready (.atom o) s → s.me.levels = [] → exec (.atom o) s = .next (trap (needOf o true true))) ∧
    (Ready (.red o) s → s.me.levels = [] → exec (.red o) s = .next (trap (needOf o true true)))

/-- Lanes of a load that meet page faults park at the word with a PAGE record, and the part goes on with the lanes that have their
data: the record names the word, the lanes and their pages (R118, R201, R210). -/
def Claims.PageFaultsParkTheirLanes : Prop :=
  ∀ (o : FM) (s : State) (xs : List (Nat × Spot)) (ps : List (Nat × Nat)), Ready (.ld o) s → o.space = 4 → o.ord = 0 →
    let n := 2 ^ o.size.toNat
    let ls := lanesOf (s.active o.guard)
    let ea := s.ea o n
    let need := needOf o true false
    s.me.levels = [] → s.me.replay = none → s.me.parked.length < 4 → s.faultRecords s.here < 256 → ps ≠ [] →
    (∀ l ∈ ls, (ea l).toNat % n = 0) →
    (∀ l ∈ ls, (∃ x, (l, x) ∈ xs ∧ s.vaPlace need (ea l).toNat = .spot x) ∨
      ∃ a, (l, a) ∈ ps ∧ s.vaPlace need (ea l).toNat = .fault 7 a) →
    xs.map (·.1) = ls.filter (fun l => xs.any fun x => x.1 == l) → ps.map (·.1) = ls.filter (fun l => ps.any fun x => x.1 == l) →
    (∀ x ∈ xs, ∀ p ∈ ps, x.1 ≠ p.1) → Plain s n xs →
    (∀ x ∈ xs, isOutside x.2.ua = false ∧ s.late (x.2.level (s.levelOf s.me o.scope.toNat)) x.2.ua = false) →
    s.readsBefore (xs.map (·.2)) n = false →
    CleanCopies s ∨ s.levelOf s.me o.scope.toNat = 2 → s.blocked (xs.map (·.2)) n false = none →
    (∀ x ∈ xs, s.needsFill s.here (x.2.level (s.levelOf s.me o.scope.toNat)) x.2.ua = false) →
    ∃ t r, exec (.ld o) s = .next t ∧ t.me.parked = s.me.parked ++ [r] ∧ r.pc = s.me.pc ∧
      r.lanes = maskOfList (ps.map (·.1)) ∧ r.info.code = 7 ∧ r.info.aux = (ps.map (·.2)).headD 0 ∧
      r.info.addr = ea ((ps.map (·.1)).headD 0) ∧ (∀ p ∈ ps, (ea p.1).toNat / 4096 ∈ r.pages.map (·.1)) ∧
      t.me.pc = s.me.pc + 8 ∧ t.me.state = s.me.state ∧
      t.me.inflight = (loadInFlight s (xs.flatMap fun x => landing o.d.toNat n x.1 (bytesSeen s x.2 n) (o.mq.getLsbD 0)) 0).inflight ∧
      t.mem = s.mem ∧ t.gang = s.gang ∧
      ∀ p ∈ ps, t.notifications.any (fun m => m.asid == s.ctx.asid && m.page == (ea p.1).toNat / 4096) = true

/-- FENCE (R131, R250): with no earlier access outstanding it takes effect at once. A release leaves no byte dirty in the core's L1,
nor in its sector at device scope; an acquire leaves no copy there. Otherwise the fence joins the part's accesses, and inside a
transaction it does nothing. -/
def Claims.FencesOrderAccesses : Prop :=
  ∀ (o : FM) (s : State), Ready (.fence o) s →
    let level := s.levelOf s.me o.scope.toNat
    let k (t : State) : Core := t.getCore s.here
    (s.me.levels ≠ [] → exec (.fence o) s = .next (wentOn s)) ∧
    (s.me.levels = [] → s.me.fenced = false → s.me.pending ≠ [] → o.ord ≠ 1 →
      exec (.fence o) s = .next (stored s
        [{ id := s.nextId, part := s.me.id, kind := .fence, addr := 0, size := 0, scope := o.scope.toNat, data := o.ord.toNat }])) ∧
    (s.me.levels = [] → s.me.pending = [] → s.me.reading = false →
      ∃ t, exec (.fence o) s = .next t ∧ t.me = { s.me with pc := s.me.pc + 8 } ∧ t.gang = s.gang ∧
        (2 ≤ o.ord.toNat → 1 ≤ level → ∀ x ∈ (k t).l1, x.dirty = []) ∧
        (2 ≤ o.ord.toNat → 2 ≤ level → ∀ e ∈ t.sectors, e.1 = coreSector s.here → e.2.dirty = []) ∧
        (o.ord.toNat % 2 = 1 → 1 ≤ level → (k t).l1 = []) ∧
        (o.ord.toNat % 2 = 1 → 2 ≤ level → ∀ e ∈ t.sectors, e.1 ≠ coreSector s.here))

/-- CLEAN, INVAL, ICINV and PF (R123, R132, R133): with no access of the part outstanding, CLEAN at device scope leaves no byte of the
range dirty in any L1 or sector, and INVAL leaves no copy; ICINV leaves no word of the range in the hedge's instruction caches and
parks the part until its cores have acknowledged; PF goes on, whatever its addresses, and where no copy is dirty changes no byte of memory. -/
def Claims.CacheWordsActOnTheirRange : Prop :=
  ∀ (o : FM) (s : State),
    let start := (s.rg o.a.toNat).toNat
    let len := (s.rg o.b.toNat).toNat
    let hit (line : Nat) : Bool := onRange (s.rangeFrames start len) start len (128 * line) 128
    let went (t : State) : Prop := t.me = { s.me with pc := s.me.pc + 8 } ∧ t.gang = s.gang
    let quiet := s.me.levels = [] ∧ s.me.pending = [] ∧ 0 < len ∧ len ≤ 2 ^ 32
    let ids := s.allCores.map (·.id)
    (ids.Nodup ∧ 0 ∉ ids ∧ (∀ e ∈ s.sectors, e.1 < 6) → quiet → o.space = 4 → 3 ≤ o.scope.toNat → (o.guard.ge = true → s.active o.guard ≠ 0) →
      (Ready (.clean o) s → ∃ t, exec (.clean o) s = .next t ∧ went t ∧
        (∀ c ∈ t.allCores, ∀ x ∈ c.l1, hit x.line = true → x.dirty = []) ∧
        ∀ e ∈ t.sectors, hit e.2.line = true → e.2.dirty = []) ∧
      (Ready (.inval o) s → ∃ t, exec (.inval o) s = .next t ∧ went t ∧
        (∀ c ∈ t.allCores, ∀ x ∈ c.l1, hit x.line = false) ∧ ∀ e ∈ t.sectors, hit e.2.line = false)) ∧
    (∀ h : Hedge, Ready (.icinv o) s → quiet → s.hedge? s.ctx.hedge = some h → h.coreList ≠ [] →
      ∃ t, exec (.icinv o) s = .next t ∧ t.me = { s.me with state := .parked .icinv, acks := h.coreList } ∧
        ∀ c ∈ h.coreList, ∀ w ∈ (t.getCore c).icache, onRange (s.rangeFrames start len) start len (w.1 % 2 ^ 64) 8 = false) ∧
    (Ready (.pf o) s → ∃ t, exec (.pf o) s = .next t ∧ t.me = { s.me with pc := s.me.pc + 8 } ∧ t.gang = s.gang ∧
      (CleanCopies s → t.mem = s.mem ∧ t.tags = s.tags))

/-! ## Transactions, waits, stiles and furrows (R135 to R153, R267 to R281) -/

/-- The level that ATTEMPT or OTHERWISE opens at the word in issue: its checkpoint is the gang registers, the return stack and the
number of deferred effects (R135, R270). -/
def newLevel (s : State) (alt : Bool) (o : FB) : Level :=
  { alt := alt, target := targetOf s o, start := s.me.pc, g := s.me.g, stack := s.me.stack, ndef := s.me.deferred.length }

/-- CONSEC as the attempt at this word finds it (R276). -/
def consecHere (s : State) : BitVec 3 := if s.me.lastStart = some s.me.pc then s.me.consec else 0

end Sys2Proof

/-- ATTEMPT and OTHERWISE (R136, R137): a level opens and the part goes on. An outermost attempt clears XSTAT.CODE and LEVEL, and
from its seventh run in a row at one place it takes the hedge's serial token; a fifth level aborts with code 4; OTHERWISE
outside a transaction is ILLEGAL. -/
def Obligations.LevelsOpen : Prop :=
  ∀ (o : FB) (s : State), s.me.inflight = [] →
    let inner (alt : Bool) : State :=
      { s with me := { s.me with levels := newLevel s alt o :: s.me.levels, pc := s.me.pc + 8 } }
    let outer (serial : Bool) : Part :=
      { s.me with levels := [newLevel s false o], pc := s.me.pc + 8, consec := consecHere s, xcode := 0, xlevel := 0, serial := serial }
    (Ready (.attempt o) s → s.me.levels = [] → s.me.settled = true → CleanCopies s → consecHere s ≠ 6 →
      ∃ t, exec (.attempt o) s = .next t ∧ t.me = outer s.me.serial ∧ SameButCopies s t) ∧
    (∀ h, Ready (.attempt o) s → s.me.levels = [] → s.me.settled = true → CleanCopies s → consecHere s = 6 →
      s.hedge? s.ctx.hedge = some h → h.token = none → h.waiters = [] →
      ∃ t, exec (.attempt o) s = .next t ∧ t.me = outer true ∧ ∃ h', t.hedge? s.ctx.hedge = some h' ∧ h'.token = some s.me.id) ∧
    (∀ h, Ready (.attempt o) s → s.me.levels = [] → s.me.settled = true → consecHere s = 6 →
      s.hedge? s.ctx.hedge = some h → (∃ p, h.token = some p ∧ p ≠ s.me.id) →
      ∃ t, exec (.attempt o) s = .next t ∧ t.me = { s.me with consec := 6, state := .parked .serial } ∧
        ∃ h', t.hedge? s.ctx.hedge = some h' ∧ ∃ w ∈ h'.waiters, w.2 = s.me.id) ∧
    (Ready (.attempt o) s → s.me.levels ≠ [] → s.me.levels.length < 4 → exec (.attempt o) s = .next (inner false)) ∧
    (Ready (.otherwise o) s → s.me.levels ≠ [] → s.me.levels.length < 4 → exec (.otherwise o) s = .next (inner true)) ∧
    (Ready (.attempt o) s → s.me.levels.length = 4 → exec (.attempt o) s = .next (s.hwAbort 4)) ∧
    (Ready (.otherwise o) s → s.me.levels.length = 4 → exec (.otherwise o) s = .next (s.hwAbort 4)) ∧
    (Ready (.otherwise o) s → s.me.levels = [] → exec (.otherwise o) s = .next (s.trapAux 1 7))

namespace Sys2Proof

/-- The bytes that a transaction has buffered, newest first (R267). -/
def buffered (s : State) (a : Nat) : Option Byte := ((s.me.levels.flatMap (·.writes)).find? fun b => b.addr == a).map (·.val)

/-- The lines that the open transaction has written. -/
def writtenLines (s : State) : List Nat := (s.me.levels.flatMap (·.writes)).map fun b => b.addr / 128

/-- Nothing stands in the way of a commit: no engine, hold, zeroing, gated bank or earlier request meets its lines (R256, R276,
R314). -/
def CommitFree (s : State) : Prop :=
  (∀ h ∈ s.holds, h.part ≠ s.me.id → h.line ∉ writtenLines s ∧ (h.exclusive = true → h.line ∉ s.me.readLines.map (·.line))) ∧
  ∀ l ∈ writtenLines s, s.ownedUnit 0 (128 * l) 128 = false ∧ s.zeroingAt (128 * l) 128 = false ∧ s.gatedAt (128 * l) = false ∧
    s.queued (128 * l) 128 = false

end Sys2Proof

/-- SETTLE (R138, R275): an inner level closes into its parent. The outermost commits: when no line that it read has changed, its
buffered bytes are in memory, every watcher of a written line is sent a notice, and its levels are gone; when one has, the
transaction aborts with code 1 and writes nothing. -/
def Obligations.SettleClosesOrCommits : Prop :=
  ∀ (o : FX) (s : State), Ready (.settle o) s → s.me.inflight = [] →
    (s.me.levels = [] → exec (.settle o) s = .next (s.trapAux 1 7)) ∧
    (∀ l p rest, s.me.levels = l :: p :: rest →
      exec (.settle o) s = .next { s with me := { s.me with
        pc := s.me.pc + 8
        levels := { p with reads := p.reads ++ l.reads, writes := l.writes ++ p.writes, kept := p.kept ++ l.kept } :: rest } }) ∧
    (∀ (l : Level) (key : Nat), s.me.levels = [l] → CommitFree s → s.me.doomed = false →
      (∀ r ∈ s.me.readLines, s.versionOf r.line = r.version) → CleanCopies s → memoryWf s = true →
      (∀ b ∈ l.writes, (isHbm b.addr = true → b.key = key ∧ 0 < key) ∧ isDoorbell (128 * (b.addr / 128)) = false) →
      ∃ t, exec (.settle o) s = .next t ∧ t.me.levels = [] ∧ t.me.consec = 0 ∧ t.me.serial = false ∧ t.me.pc = s.me.pc + 8 ∧
        t.me.g = s.me.g ∧ t.gang = s.gang ∧ (∀ a, view t key a = (buffered s a).getD (view s key a)) ∧
        ∀ line ∈ writtenLines s, ∀ e, s.versions.find? (fun e => e.line == line) = some e →
          ∀ c ∈ s.noticeTargets e, (c, line) ∈ t.notices) ∧
    (∀ l : Level, s.me.levels = [l] → CommitFree s → CleanCopies s →
      s.me.doomed = true ∨ (s.me.serial = false ∧ ∃ r ∈ s.me.readLines, s.versionOf r.line ≠ r.version) →
      ∃ t, exec (.settle o) s = .next t ∧ t.me = (s.hwAbort 1).me ∧ SameButCopies (s.hwAbort 1) t)

namespace Sys2Proof

/-- A hardware abort (R141) leaves the part as it stood at its outermost level: gang registers, return stack and deferred effects are
the checkpoint's, XSTAT says why and how deep, the PC is the level's target, the token and its holds are gone; memory is
untouched. -/
def Claims.HardwareAbortsRestoreTheCheckpoint : Prop :=
  ∀ (s : State) (code : Nat) (outer : Level), s.me.levels.getLast? = some outer → s.me.id ≠ 0 →
    (∀ p ∈ s.parts, p.id ≠ s.me.id) →
    let t := s.hwAbort code
    t.me = { s.me with
      levels := [], g := outer.g, stack := outer.stack, deferred := s.me.deferred.take outer.ndef
      xlevel := BitVec.ofNat 3 s.me.levels.length, xcode := BitVec.ofNat 8 code
      consec := if code = 1 then (if s.me.consec.toNat < 6 then s.me.consec + 1 else 6)
        else if code = 7 then s.me.consec else 0
      pc := outer.target, lastStart := some outer.start, doomed := false, parked := [], replay := none, trap := none
      recording := none, got := []
      state := .ready, drain := false, serial := false } ∧
    (∀ h ∈ t.hedges, h.token ≠ some s.me.id) ∧ (∀ h ∈ t.holds, h.part ≠ s.me.id) ∧
    t.mem = s.mem ∧ t.gang = s.gang ∧ t.parts = s.parts

/-- ABANDON, RETRY and XSTAT (R139, R140, R142): ABANDON leaves the innermost level for its target, with code 0x80 plus its number;
RETRY leaves for the nearest alternative, whose level keeps what the levels left had read, or sleeps on everything read; XSTAT gives
the register and may clear its code. -/
def Claims.GivingUpALevel : Prop :=
  ∀ (o : FX) (s : State), s.me.inflight = [] →
    (∀ l rest, Ready (.abandon o) s → s.me.levels = l :: rest → rest ≠ [] →
      exec (.abandon o) s = .next { s with me := { s.me with
        levels := rest, g := l.g, stack := l.stack, deferred := s.me.deferred.take l.ndef, pc := l.target, recording := none
        xcode := BitVec.ofNat 8 (0x80 + o.qual.toNat % 128), xlevel := BitVec.ofNat 3 (rest.length + 1) } }) ∧
    (∀ l, Ready (.abandon o) s → s.me.levels = [l] → s.me.id ≠ 0 →
      ∃ t, exec (.abandon o) s = .next t ∧
        t.me = { s.me with
          levels := [], g := l.g, stack := l.stack, deferred := s.me.deferred.take l.ndef, pc := l.target, consec := 0
          recording := none
          xcode := BitVec.ofNat 8 (0x80 + o.qual.toNat % 128), xlevel := 1, serial := false } ∧ t.mem = s.mem ∧ t.gang = s.gang) ∧
    (∀ gone alt rest, Ready (.retry o) s → s.me.levels = gone ++ alt :: rest → (∀ l ∈ gone, l.alt = false) → alt.alt = true →
      ∃ keep, keep = (gone ++ [alt]).flatMap (fun l => l.reads ++ l.kept) ∧
      exec (.retry o) s = .next { s with me := { s.me with
        levels := (match rest with | l :: ls => { l with kept := l.kept ++ keep } :: ls | [] => [])
        g := alt.g, stack := alt.stack, deferred := s.me.deferred.take alt.ndef, pc := alt.target, recording := none
        xcode := 7, xlevel := BitVec.ofNat 3 (rest.length + 1) } }) ∧
    (Ready (.retry o) s → s.me.levels ≠ [] → (∀ l ∈ s.me.levels, l.alt = false) → s.me.id ≠ 0 →
      ∃ t x, exec (.retry o) s = .next t ∧ t.me = { s.me with state := .asleep, sleep := some x, serial := false } ∧
        x.lines = s.me.readLines ∧ x.unanswered = s.me.readLines ∧ t.mem = s.mem ∧ t.gang = s.gang) ∧
    (Ready (.abandon o) s → s.me.levels = [] → exec (.abandon o) s = .next (s.trapAux 1 7)) ∧
    (Ready (.retry o) s → s.me.levels = [] → exec (.retry o) s = .next (s.trapAux 1 7)) ∧
    (Ready (.xstat o) s →
      let t := wroteGang s o.d (BitVec.ofNat 64 (systemRegister s 0 5))
      exec (.xstat o) s =
        .next (if o.qual.getLsbD 0 then { t with me := { t.me with xcode := 0, xlevel := 0 } } else t))

/-- What no transaction may hold aborts it with code 5 (R120, R143): STQ, the peer words, atomics, cache maintenance, COPY, MSGSEND,
LAUNCH, DTURN and the stile words but STWAIT. EXIT, REGANG and ACQUIRE trap ILLEGAL there, EXIT in a furrow too, and MSGSEND and LAUNCH
in a furrow (R79, R81, R88, R154). -/
def Claims.DisallowedWordsAbortOrTrap : Prop :=
  ∀ s : State,
    (∀ o : FM, ∀ i ∈ [Instr.stq o, .rld o, .rst o, .rat o, .atom o, .red o, .clean o, .inval o, .icinv o],
      Ready i s → s.me.levels ≠ [] → exec i s = .next (s.hwAbort 5)) ∧
    (∀ o : FX, ∀ i ∈ [Instr.copy o, .msgsend o, .launch o, .dturn o, .stinit o, .starr o, .stexp o],
      Ready i s → s.me.levels ≠ [] → exec i s = .next (s.hwAbort 5)) ∧
    (∀ o : FX, ∀ i ∈ [Instr.msgsend o, .launch o],
      Ready i s → s.me.levels = [] → s.me.inFurrow = true → exec i s = .next (s.trapAux 1 7)) ∧
    ∀ o : FX, s.me.inflight = [] →
      (Ready (.exit o) s → s.me.levels ≠ [] ∨ s.me.inFurrow = true → exec (.exit o) s = .next (s.trapAux 1 7)) ∧
      (Ready (.regang o) s → s.me.levels ≠ [] → exec (.regang o) s = .next (s.trapAux 1 7)) ∧
      (Ready (.acquire o) s → s.me.levels ≠ [] → s.gang.full = false → exec (.acquire o) s = .next (s.trapAux 1 7))

/-- The part may open an outermost attempt at this word without waiting and without the serial token. -/
def CanAttempt (s : State) : Prop :=
  s.me.inflight = [] ∧ s.me.got = [] ∧ s.me.levels = [] ∧ s.me.settled = true ∧ s.me.serial = false ∧ s.me.doomed = false ∧
  consecHere s ≠ 6 ∧ CleanCopies s ∧ s.versions.length < 16000

/-- A transactional read of n bytes can be made at these places now (R267, R268). -/
def TxReadable (s : State) (n : Nat) (xs : List (Nat × Spot)) : Prop :=
  ∀ x ∈ xs, x.2.mt = 0 ∧ x.2.ua % 128 + n ≤ 128 ∧ s.isPoisoned x.2.ua n = false ∧
    s.heldByOther s.me.id x.2.ua n false = none ∧ s.ownedUnit 0 x.2.ua n = false ∧ s.zeroingAt x.2.ua n = false ∧
    s.gatedAt x.2.ua = false ∧ s.needsFill s.here 2 x.2.ua = false ∧ s.late 2 x.2.ua = false

/-- The bytes that a transaction reads at a place: its own buffered bytes, and memory's where it has none (R267). -/
def txSeen (s : State) (x : Spot) (n : Nat) : Nat :=
  leNat ((List.range n).map fun i => (buffered s (x.ua + i)).getD (view s x.key (x.ua + i)))

/-- A transactional read has entered its lines in the innermost read set, each with the version that its home answered (R267), and put
a result in flight; no byte of memory has changed. -/
def TxRead (s t : State) (lv : Level) (rest : List Level) (xs : List (Nat × Spot)) (ws : List (Nat × Word32)) (f : BitVec 6) : Prop :=
  ∃ reads : List ReadLine,
    t.me = { loadInFlight s ws f with levels := { lv with reads := lv.reads ++ reads } :: rest } ∧ t.mem = s.mem ∧ t.gang = s.gang ∧
    (∀ r ∈ reads, r.version = s.versionOf r.line ∧ ∃ x ∈ xs, r.line = x.2.ua / 128) ∧
    ∀ x ∈ xs, ∃ r ∈ lv.reads ++ reads, r.line = x.2.ua / 128

/-- LD, LDD and ST inside a transaction (R267 to R269): reads see the transaction's own stores and enter their lines in the read set;
stores are buffered in the write set, and memory does not change. Lines that are not plain memory of the device abort with code 8, a
read set of more than 64 lines with code 2, a write set of more than 16 with code 3. The holder of the serial token has its holds in
place of versions (R276). -/
def Claims.TransactionsReadAndBuffer : Prop :=
  ∀ (o : FM) (s : State) (xs : List (Nat × Spot)) (lv : Level) (rest : List Level),
    s.me.levels = lv :: rest → s.me.got = [] → s.versions.length < 16000 → (s.me.serial = true → CleanCopies s) →
    let n := 2 ^ o.size.toNat
    let ls := lanesOf (s.active o.guard)
    let lines := xs.map fun x => x.2.ua / 128
    let plain : Prop := ∀ x ∈ xs, x.2.mt = 0
    (Ready (.ld o) s → Placed s (needOf o true false) ls (s.ea o n) xs →
      (¬plain → exec (.ld o) s = .next (s.hwAbort 8)) ∧
      (plain → 64 < (distinct (s.me.readCount ++ lines)).length → exec (.ld o) s = .next (s.hwAbort 2)) ∧
      ((distinct (s.me.readCount ++ lines)).length ≤ 64 → TxReadable s n xs →
        ∃ t, exec (.ld o) s = .next t ∧
          TxRead s t lv rest xs (xs.flatMap fun x => landing o.d.toNat n x.1 (txSeen s x.2 n) (o.mq.getLsbD 0)) 0)) ∧
    (Ready (.ldd o) s → Placed s (groupNeed o true false) ls (s.ea o 1) xs →
      let count := 2 ^ (o.mq.toNat % 4)
      let gs := xs.map (groupAt count (s.ea o 1))
      let spots := gs.flatMap Group.spots
      let elem (g : Group) (k : Nat) : Word32 × BitVec 6 :=
        let code := if g.blk = 0 then 0 else txSeen s { g.spot with ua := g.scale } 1
        decodeElem s.ftz g.fmt g.blk code (txSeen s g.spot g.bytes / 2 ^ (k * fmtBits g.fmt) % 2 ^ fmtBits g.fmt)
      (∀ x ∈ xs, groupExtra count (s.ea o 1 x.1) x.2 = none) →
      (distinct (s.me.readCount ++ spots.map fun x => x.2.ua / 128)).length ≤ 64 → TxReadable s 16 spots →
      (∀ g ∈ gs, s.isPoisoned g.spot.ua g.bytes = false) →
      ∃ t, exec (.ldd o) s = .next t ∧
        TxRead s t lv rest spots
          (gs.flatMap fun g => (List.range count).map fun k => (32 * (o.d.toNat + k) + g.lane, (elem g k).1))
          ((gs.flatMap fun g => (List.range count).map fun k => (elem g k).2).foldl (· ||| ·) 0)) ∧
    (Ready (.st o) s → o.defer = false → Placed s (needOf o false true) ls (s.ea o n) xs →
      (¬plain → exec (.st o) s = .next (s.hwAbort 8)) ∧
      (plain → 16 < (distinct (s.me.writeLines ++ lines)).length → exec (.st o) s = .next (s.hwAbort 3)) ∧
      (plain → (distinct (s.me.writeLines ++ lines)).length ≤ 16 →
        (s.me.serial = true → s.txBlocked (xs.map (·.2)) n true = false ∧
          ∀ x ∈ xs, s.ownedFirst x.2 n = false ∧ s.filling x.2 n = false) →
        ∃ t writes, exec (.st o) s = .next t ∧
          t.me = { s.me with pc := s.me.pc + 8, levels := { lv with writes := writes } :: rest } ∧
          t.mem = s.mem ∧ t.gang = s.gang ∧ (s.me.serial = false → t = { s with me := t.me }) ∧
          ∀ a, let stores (x : Nat × Spot) : Prop := x.2.ua ≤ a ∧ a < x.2.ua + n
            ((∀ x ∈ xs, ¬stores x) → buffered t a = buffered s a) ∧
            ((∃ x ∈ xs, stores x) → ∃ y ∈ xs, stores y ∧
              buffered t a = some (BitVec.ofNat 8 (s.laneData o.d.toNat n y.1 / 2 ^ (8 * (a - y.2.ua)))))))

/-- The comparisons of WAITW (R144) on unsigned and signed values of n bytes. -/
def waitMeets (mop n x y : Nat) : Bool :=
  let i (v : Nat) : Int := (BitVec.ofNat (8 * n) v).toInt
  match mop with
  | 0 => x = y
  | 1 => x ≠ y
  | 2 => i x < i y
  | 3 => i x ≤ i y
  | 4 => i x > i y
  | 5 => i x ≥ i y
  | 6 => x < y
  | 7 => x ≤ y
  | 8 => x > y
  | _ => x ≥ y

/-- WAITW on device memory outside a transaction (R144): with no active lane, or with every lane's value meeting its comparand, the
part goes on; else it sleeps at the word on the lines that it read. Memory does not change. -/
def Claims.WordWaitsGoOnOrSleep : Prop :=
  ∀ (o : FM) (s : State) (xs : List (Nat × Spot)), Ready (.waitw o) s →
    let n := 2 ^ o.size.toNat
    let ls := lanesOf (s.active o.guard)
    let meets : Prop := ∀ x ∈ xs, waitMeets o.mop.toNat n (leNat (s.homeRead x.2.key x.2.ua n)) (s.laneData o.d.toNat n x.1) = true
    (s.me.inflight = [] → ls = [] → exec (.waitw o) s = .next (wentOn s)) ∧
    (CanAttempt s → o.space = 4 → ls ≠ [] → Placed s (needOf o true false) ls (s.ea o n) xs → TxReadable s n xs →
      (∀ l ∈ ls, ∃ e, s.xlate (s.ea o n l).toNat = .hit e ∧ e.mt = 0) →
      (meets → ∃ t, exec (.waitw o) s = .next t ∧ t.me.pc = s.me.pc + 8 ∧ t.me.levels = [] ∧ t.me.state = s.me.state ∧
        t.me.xcode = 0 ∧ t.me.consec = 0 ∧ t.me.g = s.me.g ∧ t.mem = s.mem ∧ t.gang = s.gang) ∧
      (¬meets → ∃ t x, exec (.waitw o) s = .next t ∧ t.me.pc = s.me.pc ∧ t.me.state = .asleep ∧ t.me.sleep = some x ∧
        (∀ y ∈ xs, ∃ r ∈ x.lines, r.line = y.2.ua / 128) ∧ t.me.levels.length = 1 ∧ t.mem = s.mem ∧ t.gang = s.gang))

/-- WAITW of which a lane names host memory or a peer is polled (R145): each poll reads the values; where they meet the comparands the
part goes on, else it waits at the word, .polling, for its next poll. Memory does not change. -/
def Claims.PolledWaitsGoOnOrPollAgain : Prop :=
  ∀ (o : FM) (s : State) (xs : List (Nat × Spot)), Ready (.waitw o) s → s.me.inflight = [] → s.me.levels = [] → o.space = 4 →
    let n := 2 ^ o.size.toNat
    let ls := lanesOf (s.active o.guard)
    let level := s.levelOf s.me o.scope.toNat
    let meets : Prop := ∀ x ∈ xs, waitMeets o.mop.toNat n (bytesSeen s x.2 n) (s.laneData o.d.toNat n x.1) = true
    (∀ l ∈ ls, ∃ e, s.xlate (s.ea o n l).toNat = .hit e) → (∃ l ∈ ls, ∃ e, s.xlate (s.ea o n l).toNat = .hit e ∧ e.mt ≠ 0) →
    Placed s (needOf o true false) ls (s.ea o n) xs → Plain s n xs → s.blocked (xs.map (·.2)) n false = none → s.me.got = [] →
    (∀ x ∈ xs, s.late (x.2.level level) x.2.ua = false ∧ s.needsFill s.here (x.2.level level) x.2.ua = false) → CleanCopies s →
    (meets → ∃ t, exec (.waitw o) s = .next t ∧ t.me = (wentOn s).me ∧ SameButCopies s t) ∧
    (¬meets → ∃ t, exec (.waitw o) s = .next t ∧ t.me = { s.me with state := .polling } ∧ SameButCopies s t)

/-- Completion of a stile (R146): when no arrival and no byte is outstanding the phase advances and REMAIN is loaded again. -/
def stileDone (t : Stile) : Stile :=
  if t.remain = 0 ∧ t.pending = 0 then { t with phase := (t.phase + 1) % 2 ^ 31, remain := t.expect } else t

/-- An arrival of count c and a change of PENDING (R148, R149, R281); a poisoned stile does not change. -/
def stileArrival (t : Stile) (c : Nat) : Stile :=
  if t.poison then t
  else if t.remain < c then { t with poison := true, cause := if t.cause = 0 then 1 else t.cause }
  else stileDone { t with remain := t.remain - c }

def stileExpected (t : Stile) (n : Int) : Stile :=
  if t.poison then t
  else if -2 ^ 47 ≤ t.pending + n ∧ t.pending + n < 2 ^ 47 then stileDone { t with pending := t.pending + n }
  else { t with poison := true, cause := if t.cause = 0 then 2 else t.cause }

/-- The stile that gA names lies at a place that can be reached (R146). -/
def StileAt (s : State) (o : FX) (r w : Bool) (x : Spot) : Prop :=
  (s.rg o.a.toNat).toNat % 16 = 0 ∧ s.place (stileNeed o r w) none 0 (s.rg o.a.toNat) = .spot x ∧ x.ua % 128 + 16 ≤ 128 ∧
  s.isPoisoned x.ua 16 = false ∧ isHbm x.ua = false ∧ isOutside x.ua = false ∧ isDoorbell x.ua = false

/-- The stile as memory holds it. -/
def stileIn (s : State) (x : Spot) : Stile := stileOf (leNat (s.homeRead 0 x.ua 16))

end Sys2Proof

/-- STINIT, STARR and STEXP (R147 to R149): the whole stile is stored, or read and written in one indivisible step; STARR gives the
phase from before its arrival. -/
def Obligations.StileWordsActOnTheStile : Prop :=
  ∀ (o : FX) (s : State) (x : Spot), s.me.levels = [] → memoryWf s = true →
    let b := s.rg o.b.toNat
    let c := if o.b = 0 then 1 else b.toNat
    let fresh : Stile := { phase := 0, poison := false, expect := b.toNat, remain := b.toNat, pending := 0, cause := 0, top := 0 }
    let other (t : State) : Prop := ∀ key a, (a < x.ua ∨ x.ua + 16 ≤ a) → view t key a = view s key a
    (Ready (.stinit o) s → 1 ≤ b.toNat → b.toNat ≤ 65535 → StileAt s o false true x → s.readsBefore [x] 16 = false →
      exec (.stinit o) s = .next (stored s [
        s.request .write s.nextId 16 (if o.qual.getLsbD 0 then 2 else 1) 0 false (stileNeed o false true).acc 4
          (fun _ => s.rg o.a.toNat) (0, x) fresh.toNat])) ∧
    (Ready (.starr o) s → 1 ≤ c → c ≤ 65535 → StileAt s o true true x → s.blocked [x] 16 true = none → s.me.settled = true →
      s.late 2 x.ua = false → CleanCopies s →
      ∃ t, exec (.starr o) s = .next t ∧ t.me = (wroteGang s o.d (BitVec.ofNat 64 (stileIn s x).phase)).me ∧ t.gang = s.gang ∧
        stileIn t x = stileArrival (stileIn s x) c ∧ other t) ∧
    (Ready (.stexp o) s → StileAt s o true true x → s.blocked [x] 16 true = none → s.late 2 x.ua = false →
      (∀ r ∈ s.me.pending, overlaps r.addr r.size x.ua 16 = false) →
      ∃ t, exec (.stexp o) s = .next t ∧ t.me = { s.me with pc := s.me.pc + 8 } ∧ t.gang = s.gang ∧
        stileIn t x = stileExpected (stileIn s x) b.toInt ∧ other t)

namespace Sys2Proof

/-- STWAIT outside a transaction (R150): a phase other than gB lets the part go on, the same phase puts it to sleep at the
word on the stile's line. -/
def Claims.StileWaitsGoOnOrSleep : Prop :=
  ∀ (o : FX) (s : State) (x : Spot), Ready (.stwait o) s → CanAttempt s → StileAt s o true false x → TxReadable s 4 [(0, x)] →
    (stileIn s x).poison = false →
    (BitVec.ofNat 64 (stileIn s x).phase ≠ s.rg o.b.toNat →
      ∃ t, exec (.stwait o) s = .next t ∧ t.me.pc = s.me.pc + 8 ∧ t.me.levels = [] ∧ t.me.state = s.me.state ∧
        t.me.g = s.me.g ∧ t.mem = s.mem ∧ t.gang = s.gang) ∧
    (BitVec.ofNat 64 (stileIn s x).phase = s.rg o.b.toNat →
      ∃ t y, exec (.stwait o) s = .next t ∧ t.me.pc = s.me.pc ∧ t.me.state = .asleep ∧ t.me.sleep = some y ∧
        (∃ r ∈ y.lines, r.line = x.ua / 128) ∧ t.mem = s.mem ∧ t.gang = s.gang)

/-- FBEGIN opens a furrow, and notes the restart point with the return stack (R152, R331); FEND of a furrow without deferred effects
closes it (R153). In harvest work a furrow opens only outside a handler and at most seven calls deep (R337). -/
def Claims.FurrowsOpenAndClose : Prop :=
  ∀ (o : FX) (s : State), s.me.inflight = [] →
    (Ready (.fbegin o) s → s.me.inFurrow = false → s.me.levels = [] →
      (s.ctx.harvest = true → s.me.stack.length ≤ 7 ∧ s.me.inHandler = false) →
      exec (.fbegin o) s = .next { s with me := { s.me with
        inFurrow := true, deferred := [], restart := s.me.pc, restack := s.me.stack, pc := s.me.pc + 8 } }) ∧
    (Ready (.fbegin o) s → s.me.inFurrow = true ∨ s.me.levels ≠ [] → exec (.fbegin o) s = .next (s.trapAux 1 7)) ∧
    (Ready (.fend o) s → s.me.state = .ready → s.me.inFurrow = true → s.me.levels = [] → s.me.settled = true → s.me.deferred = [] →
      exec (.fend o) s = .next { s with me := { s.me with
        inFurrow := false, restarted := false, fending := false, pc := s.me.pc + 8 } }) ∧
    (Ready (.fend o) s → s.me.inFurrow = false ∨ s.me.levels ≠ [] → exec (.fend o) s = .next (s.trapAux 1 7))

/-- FEND releases what its furrow recorded (R129, R130, R153): the lanes of an entry leave for their points with its scope and ordering,
as its instruction would have made them leave, and the part is parked at FEND until they have all been performed; then the furrow
closes. -/
def Claims.FendPerformsDeferredEffects : Prop :=
  ∀ (o : FX) (s : State), Ready (.fend o) s → s.me.inflight = [] → s.me.state = .ready → s.me.inFurrow = true → s.me.levels = [] →
    (∀ (e : Deferred) (xs : List (Nat × Spot)), s.me.deferred = [e] → s.me.settled = true →
      let n := 2 ^ e.size
      let req (x : Nat × Spot) : Req :=
        { s.request (match e.kind with | .red => .atomic e.mop e.unsigned none s.nextId | _ => .write) s.nextId n
            (match e.kind with | .rst => 4 | _ => e.scope) 0 (decide (2 ≤ e.ord)) e.need.acc e.size e.va x (e.data x.1) with
          acq := decide (e.ord % 2 = 1), pass := match e.kind with | .red => passOf xs x | _ => 0 }
      xs ≠ [] → xs.map (·.1) = e.lanes.map (·.lane) → (e.lanes.map (·.lane)).Nodup →
      (∀ x ∈ xs, (e.va x.1).toNat % n = 0 ∧
        if e.kind = .rst then s.peerPlace e.need (e.va x.1) = .spot x.2 ∧ ∀ y ∈ xs, peerOf (e.va y.1) = peerOf (e.va x.1)
        else s.place e.need none x.1 (e.va x.1) = .spot x.2) →
      s.sendWait (xs.map (·.2)) n = none →
      exec (.fend o) s = .next { s with
        nextId := s.nextId + 1
        me := { s.me with fending := true, deferred := [], pending := xs.map req, state := .parked .effect } }) ∧
    (s.me.fending = true → s.me.deferred = [] → s.me.pending ≠ [] →
      exec (.fend o) s = .next { s with me := { s.me with state := .parked .effect } }) ∧
    (s.me.fending = true → s.me.deferred = [] → s.me.pending = [] →
      exec (.fend o) s = .next { s with me := { s.me with
        inFurrow := false, restarted := false, fending := false, pc := s.me.pc + 8 } })

/-! ## Tiles, banks and the matrix unit (R167 to R187, R404) -/

/-- A tile or matrix word whose checks up to R404 step 2 pass: outside a transaction, in a part that holds every slice of its
gang that has not exited (R168, R171). -/
def MatrixReady (i : Instr) (s : State) : Prop :=
  Ready i s ∧ s.me.levels = [] ∧ s.me.slices = s.gang.started &&& ~~~s.gang.gone

/-- The formats of an MMA or MMAS suit (R404 step 6): the bank is loaded, the accumulators are of format 0, A's tiles have one format
that the unit multiplies, and PREC suits it. -/
def multiplyFormats (s : State) (o : FX) (paired : Bool) : Bool :=
  let d (t : Nat) := shadowTile s.wg s.openKinds t
  let f := (d o.a.toNat).fmt
  (shadowBank s.wg s.openKinds o.b.toNat).1 ≠ 0 && f ≠ 0 && !(f = 6 && o.qual.toNat % 4 = 0) && (d o.d.toNat).fmt = 0 &&
    (!paired || (d (o.d.toNat + 1)).fmt = 0) &&
    (!o.qual.getLsbD 9 || (List.range 4).all fun i => (d (o.a.toNat + i)).fmt = f)

/-- A's place lies within its tile or tiles (R182). -/
def multiplyGeometry (s : State) (o : FX) : Bool :=
  let w := (shadowBank s.wg s.openKinds o.b.toNat).1
  let aoff := o.qual.toNat / 4 % 128
  let bits := fmtBits (shadowTile s.wg s.openKinds o.a.toNat).fmt
  if o.qual.getLsbD 9 then (aoff + 1) * w * bits ≤ 2048
  else 128 * aoff % (32 * bits) = 0 && 128 * aoff + 32 * bits * w ≤ 16384

/-- The operation that a word queues; none where the formats (R170, R179), the geometry (R182) or the pair (R184) do not allow
one. Descriptors are those that the gang's earlier operations leave (R170). -/
def operationOf (s : State) : Instr → Option MatKind
  | .tzero o => some (.tzero o.d.toNat)
  | .tmov o => some (.tmov o.d.toNat o.a.toNat)
  | .cimsel o => some (.cimsel (if o.qual.getLsbD 0 then none else some o.d.toNat))
  | .cimld o =>
    let tr := o.qual.getLsbD 3
    let d (i : Nat) := shadowTile s.wg s.openKinds (o.a.toNat + i)
    let ok : Bool := (d 0).fmt ≠ 0 && (!tr || (List.range 4).all fun i => (d i).fmt = (d 0).fmt && (d i).blk = 0)
    if ok then some (.cimld o.d.toNat o.a.toNat (o.qual.toNat % 8) tr (o.qual.toNat / 16 % 4)) else none
  | .mmas o => multiplyOf s o none
  | .mma o =>
    match s.pairing (shadowBank s.wg s.openKinds o.b.toNat).1 with
    | .ok p => multiplyOf s o (some p)
    | .error _ => none
  | _ => none
where
  multiplyOf (s : State) (o : FX) (p : Option (Nat × Nat)) : Option MatKind :=
    if multiplyFormats s o p.isSome && multiplyGeometry s o then
      some (.mma o.d.toNat o.a.toNat o.b.toNat (o.qual.getLsbD 9) (o.qual.toNat / 4 % 128) (o.qual.toNat % 4) p)
    else none

/-- An operation on these tiles can be queued at once (R169): fewer than 255 operations since the last SHEAF, a free entry in the
quadrant's queue, and no tile that a copy owns. -/
def CanQueue (s : State) (tiles : List Nat) : Prop :=
  s.gang.shOpen < 255 ∧ (∀ t ∈ tiles, ∀ o ∈ s.ownedTiles, o.2 ≠ 16 * s.wg.id + t) ∧
  (s.core.matq.filter fun o => o.quadrant == s.gang.quad).length < 16 ∧ s.me.fenced = false ∧ s.me.settled = true

/-- The state after an operation has been queued (R169, R256): the part's earlier writes leave for the device's scope, the operation
is the youngest of its core, SHEAFN.OPEN counts it, and it owns the lines `own`. -/
def queued (s : State) (k : MatKind) (own : List Nat) : State :=
  let u := s.release s.here 2
  let op : MatOp := { id := s.nextId, gang := s.gang.id, workgroup := s.wg.id, quadrant := s.gang.quad, harvest := s.ctx.harvest,
                      kind := k, pc := s.me.pc }
  { u with
    core := { u.core with matq := u.core.matq ++ [op] }
    gang := { u.gang with shOpen := u.gang.shOpen + 1, opsIssued := u.gang.opsIssued + 1 }
    owned := u.owned ++ own.map fun l => (s.nextId, l)
    me := { u.me with pc := u.me.pc + 8 }
    nextId := s.nextId + 1 }

/-- The format and geometry of a place's page (R170). -/
def pageOf (x : Word64 × Spot) : Nat × Nat := ((x.2.entry.getD default).fmt, (x.2.entry.getD default).blk)

/-- The rows of a TLD or TST lie at places that can be read or written; the first page's format and geometry are f and b. -/
def PlacedRows (s : State) (need : Need) (vas : List Word64) (f b : Nat) (xs : List (Word64 × Spot)) : Prop :=
  xs.map (·.1) = vas ∧ (∀ x ∈ xs, s.vaPlace need x.1.toNat = .spot x.2) ∧ ∃ x, xs.head? = some x ∧ pageOf x = (f, b)

/-- They lie in pages of that one format and geometry (R170, R172). -/
def RowsAt (s : State) (need : Need) (vas : List Word64) (f b : Nat) (xs : List (Word64 × Spot)) : Prop :=
  PlacedRows s need vas f b xs ∧ ∀ x ∈ xs, pageOf x = (f, b)

/-- What the accesses of a TLD and of a TST need (R172, R174). -/
def tldNeed : Need := { space := 4, size := 16, r := true, w := false, scope := 3, sizeCode := 4 }

def tstNeed : Need := { space := 4, size := 16, r := false, w := true, scope := 3, sizeCode := 4 }

end Sys2Proof

/-- TZERO, TMOV, CIMLD, CIMSEL, MMA, MMAS, TLD and TST queue their operation and go on (R169, R172, R174, R175, R179 to R184). That a
TST records the format that its tile will have, as the gang's earlier operations leave it, is the model's reading (log 32). Formats
that do not suit trap PROT with AUX 0x08: of a CIMLD's tiles, of an MMA's or MMAS's tiles and bank, and of a TLD's or TST's pages,
where ADDR is the first row piece in a page of another format. A's place outside its tile is ILLEGAL with AUX 7 after the formats
(R182), then PAIR_ABSENT names what a paired MMA lacks (R184, R404); a 256th operation since the last SHEAF is ILLEGAL too. Outside its
gang's whole part a word traps MATRIX_MASK, and inside a transaction it aborts it with code 5. -/
def Obligations.MatrixWordsQueueTheirOperation : Prop :=
  ∀ (i : Instr) (o : FX) (s : State) (k : MatKind) (xs : List (Word64 × Spot)) (f b : Nat),
    (MatrixReady i s → operationOf s i = some k →
      (CanQueue s k.tiles → exec i s = .next (queued s k [])) ∧
      (255 ≤ s.gang.shOpen → exec i s = .next (s.trapAux 1 7))) ∧
    -- the formats of tiles and banks, the geometry and the pair
    (MatrixReady (.cimld o) s → operationOf s (.cimld o) = none → exec (.cimld o) s = .next (s.trapAux 8 8)) ∧
    (∀ paired : Bool, let w := if paired then Instr.mma o else .mmas o
      MatrixReady w s →
        (multiplyFormats s o paired = false → exec w s = .next (s.trapAux 8 8)) ∧
        (multiplyFormats s o paired = true → multiplyGeometry s o = false → exec w s = .next (s.trapAux 1 7))) ∧
    (MatrixReady (.mma o) s → multiplyFormats s o true = true → multiplyGeometry s o = true →
      let absent (aux : Nat) : Prop := exec (.mma o) s = .next (s.trapAux 0x0D aux)
      let missing (v : Workgroup) : Prop := v.state ≠ .running ∨ s.gangsOfWg v.id = []
      (s.ctx.padW ≤ s.wg.px + 1 → absent 1) ∧
      (s.wg.px + 1 < s.ctx.padW → s.follower = none → absent 3) ∧
      ∀ v, s.wg.px + 1 < s.ctx.padW → s.follower = some v →
        (missing v → absent 3) ∧ (¬missing v → s.offerOf v = none → absent 2) ∧
        ∀ c, ¬missing v → s.offerOf v = some c → (v.bank c).w ≠ (shadowBank s.wg s.openKinds o.b.toNat).1 → absent 4) ∧
    -- the rows of TLD and TST
    (let n := o.qual.toNat % 64 + 1
     let row0 := o.qual.toNat / 64
     let base := s.rg o.a.toNat
     let stride := s.rg o.b.toNat
     -- the addresses of the 16-byte pieces of n rows
     let pieces (bytes : Nat) := (List.range n).flatMap fun r => (List.range (bytes / 16)).map fun c =>
       base + BitVec.ofNat 64 r * stride + BitVec.ofNat 64 (16 * c)
     let differ (need : Need) (x : Word64 × Spot) : State :=
       s.raise { code := 8, aux := 8, lanes := s.present, acc := need.acc, size := 4, addr := x.1 }
     let d := shadowTile s.wg s.openKinds o.d.toNat
     -- an accumulator's row holds 64 values, a row of another format 256 bytes of them
     let elems := if d.acc then 64 else 2048 / fmtBits d.fmt
     let row := elems * fmtBits f / 8
     base.toNat % 32 = 0 → stride.toNat % 32 = 0 → row0 + n ≤ 64 →
     (MatrixReady (.tld o) s → CanQueue s [o.d.toNat] → RowsAt s tldNeed (pieces 256) f b xs →
       exec (.tld o) s = .next (queued s (.tld o.d.toNat row0 n f b (xs.map chunkOf)) [])) ∧
     (MatrixReady (.tst o) s → CanQueue s [o.d.toNat] → RowsAt s tstNeed (pieces row) f b xs →
       exec (.tst o) s = .next (queued s
         (.tst o.d.toNat row0 n (o.c.toNat % 2 == 1) (if d.acc then none else some d.fmt) d.blk f b (xs.map chunkOf))
         (distinct ((chunkBytes b (xs.map chunkOf)).map fun c => c.1 / 128)))) ∧
     ∀ x, xs.find? (fun x => pageOf x ≠ (f, b)) = some x →
       (MatrixReady (.tld o) s → PlacedRows s tldNeed (pieces 256) f b xs → exec (.tld o) s = .next (differ tldNeed x)) ∧
       (MatrixReady (.tst o) s → PlacedRows s tstNeed (pieces row) f b xs → exec (.tst o) s = .next (differ tstNeed x))) ∧
    (Ready i s → i.issueClass = .matrix → (∀ x, i ≠ .trd x ∧ i ≠ .mwait x) → s.me.levels ≠ [] → exec i s = .next (s.hwAbort 5)) ∧
    (Ready i s → i.issueClass = .matrix → (∀ x, i ≠ .trd x ∧ i ≠ .twr x ∧ i ≠ .mwait x) → s.me.levels = [] →
      s.me.slices ≠ s.gang.started &&& ~~~s.gang.gone → exec i s = .next (s.trapAux 0x0C 0))

namespace Sys2Proof

/-- Where the bytes of a lane lie in a tile (R176): in the sidecar or not, the first byte, and how many. -/
def tileBytes (o : FX) (l : Nat) : Bool × Nat × Nat :=
  let h := o.qual.toNat / 512 % 2
  let idx := o.qual.toNat % 64
  if o.qual.getLsbD 10 then (true, 8 * (32 * h + l), 8)
  else if o.qual.getLsbD 11 then (false, 256 * (32 * h + l) + 4 * idx, 4)
  else (false, 256 * idx + 128 * h + 4 * l, 4)

/-- A byte of a tile's data or sidecar. -/
def byteOf (t : Tile) (side : Bool) (i : Nat) : Byte := if side then SMap.get 0 t.side i else SMap.get 0 t.data i

/-- No operation of the gang and no copy works on the tile, and the matrix unit runs nothing. -/
def TileFree (s : State) (t : Nat) : Prop :=
  s.core.running = none ∧ (∀ o ∈ s.core.matq, o.gang = s.gang.id → t ∉ o.kind.tiles) ∧ ∀ o ∈ s.ownedTiles, o.2 ≠ 16 * s.wg.id + t

/-- TRD puts the tile's bytes of each active lane in flight, and TWR writes them into the tile, which is then valid and no
accumulator (R176, R177). Every other byte of the tile stays. -/
def Claims.TileReadsAndWrites : Prop :=
  ∀ (o : FX) (s : State), TileFree s o.a.toNat →
    let t := s.wg.tile o.a.toNat
    let ls := lanesOf (s.active o.guard)
    let at_ (l : Nat) := tileBytes o l
    (Ready (.trd o) s → t.bad = [] → exec (.trd o) s = .next { s with
      me := loadInFlight s (ls.flatMap fun l => landing o.d.toNat (at_ l).2.2 l
        (leNat ((List.range (at_ l).2.2).map fun i => byteOf t (at_ l).1 ((at_ l).2.1 + i))) false) 0
      nextId := s.nextId + 1 }) ∧
    (Ready (.twr o) s → s.me.levels = [] → SMap.wf 0 t.data = true → SMap.wf 0 t.side = true →
      ∃ u : Tile, exec (.twr o) s = .next { s with
          me := { s.me with pc := s.me.pc + 8 }, wg := { s.wg with tiles := SMap.put {} s.wg.tiles o.a.toNat u } } ∧
        u.valid = true ∧ u.acc = false ∧
        (if o.c.toNat / 256 % 2 = 1 then u.fmt = BitVec.ofNat 4 o.c.toNat ∧ u.blk = BitVec.ofNat 2 (o.c.toNat / 16)
         else u.fmt = t.fmt ∧ u.blk = t.blk) ∧
        (∀ l ∈ ls, ∀ i, i < (at_ l).2.2 → byteOf u (at_ l).1 ((at_ l).2.1 + i) =
          BitVec.ofNat 8 (s.laneData o.d.toNat (at_ l).2.2 l / 2 ^ (8 * i))) ∧
        ∀ side a, (∀ l ∈ ls, ¬((at_ l).1 = side ∧ (at_ l).2.1 ≤ a ∧ a < (at_ l).2.1 + (at_ l).2.2)) →
          byteOf u side a = byteOf t side a)

/-- SHEAF numbers the operations since the last one (R186): gD takes the number, which goes up by one, and OPEN starts again; with
operations still to retire its word keeps waiting, and with none the number stands in the word and in DONE at once. MWAIT (R187)
goes on when the sheaf word has reached gB, taken modulo 2^16, and else sleeps on it. -/
def Claims.SheavesNumberAndWait : Prop :=
  ∀ (o : FX) (s : State),
    let a := (s.rg o.a.toNat).toNat
    let word := spadAddr s.here (s.wg.sbase + a)
    let k := s.gang.shNext
    let t := wroteGang s o.d (k.zeroExtend 64)
    let g : Gang := { s.gang with shNext := k + 1, shOpen := 0 }
    let sheaf : Sheaf := { number := k.toNat, word := word, upTo := s.gang.opsIssued, upToId := s.nextId }
    -- operations that have not retired, or stores of theirs that are not yet performed
    let open_ : Prop := s.gang.opsRetired < s.gang.opsIssued ∨ ∃ r ∈ s.gang.stores, r.id < s.nextId
    a % 8 = 0 → a < s.wg.scr → s.gang.sheaves = [] →
    (MatrixReady (.sheaf o) s → s.gang.id ≠ 0 → open_ →
      exec (.sheaf o) s = .next { t with gang := { g with sheaves := [sheaf] } }) ∧
    (MatrixReady (.sheaf o) s → s.gang.id ≠ 0 → ¬open_ → (s.heldByOther 0 word 8 true) = none →
      s.ownedUnit 0 word 8 = false →
      exec (.sheaf o) s = .next ((({ t with gang := g } : State).homeWrite 0 word (leBytes 8 k.toNat)).updGang s.gang.id fun x =>
        { x with sheaves := [], shDone := k })) ∧
    (let w := leNat (s.homeRead 0 word 8) % 65536
     let reached : Prop := (w + 65536 - (s.rg o.b.toNat).toNat % 65536) % 65536 < 32768
     Ready (.mwait o) s → s.me.slices = s.gang.started &&& ~~~s.gang.gone → CanAttempt s → a + 8 ≤ s.wg.scr →
     TxReadable s 8 [(0, { ua := word })] →
     (reached → ∃ u, exec (.mwait o) s = .next u ∧ u.me.pc = s.me.pc + 8 ∧ u.me.levels = [] ∧ u.me.state = s.me.state ∧
       u.me.g = s.me.g ∧ u.mem = s.mem ∧ u.gang = s.gang) ∧
     (¬reached → ∃ u y, exec (.mwait o) s = .next u ∧ u.me.pc = s.me.pc ∧ u.me.state = .asleep ∧ u.me.sleep = some y ∧
       (∃ r ∈ y.lines, r.line = word / 128) ∧ u.mem = s.mem ∧ u.gang = s.gang))

/-- Some gang of the workgroup still runs. -/
def Living (s : State) (w : Nat) : Prop := ∃ g ∈ s.gangsOfWg w, s.gangOver g.id = false

/-- MATRIX_OP_START takes the oldest operation of the class and quadrant whose turn it is, G before H (R169), gives it its effect
(R175, R179 to R183) and lets it run; MATRIX_OP_RETIRE ends it, and FFLAGS take its flags (R169, R186). That the whole effect takes place
at the start, and that CIMLD of a tile that has become FMT 0 does nothing, is the model's choice (log 32). -/
def Claims.OperationsTakeTheirTurn : Prop :=
  ∀ (s : State) (core : Nat) (o : MatOp),
    let c := s.getCore core
    let v := s.getWg o.workgroup
    -- the effect on the workgroup's tiles and offer, and the flags
    let effect : Option ((Workgroup → Workgroup) × BitVec 6) := match o.kind with
      | .tzero t => some (fun w => { w with tiles := SMap.put {} w.tiles t { side := mapOf 512 fun _ => 0x7F, valid := true } }, 0)
      | .tmov d a => some (fun w => { w with tiles := SMap.put {} w.tiles d (w.tile a) }, 0)
      | .cimsel b => some (fun w => { w with offer := b }, 0)
      | .cimld b t p tr col =>
        some (fun w => if (w.tile t).fmt = 0 then w else { w with banks := SMap.put {} w.banks b (loadPart w (w.bank b) t p tr col) }, 0)
      | .mma acc a b tr aoff prec none => if (v.bank b).w = 0 then none else
        let r := multiplyInto v a tr aoff prec (v.bank b) (v.tile acc)
        some (fun w => { w with tiles := SMap.put {} v.tiles acc r.1 }, r.2)
      | _ => none
    (∀ f fl, c.running = none → c.slaved = none → o ∈ c.matq → s.tilesFree o = true → s.opPoisoned o = false →
      -- its class and quadrant are next, and it is their oldest
      (o.harvest = true → ∀ x ∈ c.matq, x.harvest = true) →
      (let turn (x : MatOp) : Nat := (x.quadrant + 4 - (if o.harvest then c.rotH else c.rotG) % 4) % 4
       (∀ x ∈ c.matq, x.quadrant < 4) ∧ (∀ x ∈ c.matq, x.harvest = o.harvest → turn o ≤ turn x) ∧
       c.matq.find? (fun x => x.quadrant == o.quadrant && x.harvest == o.harvest) = some o) →
      effect = some (f, fl) →
      exec (.matrixOpStart core) s = .next ((s.updWg o.workgroup f).updCore core fun x => { x with
        matq := x.matq.filter fun y => y.id != o.id
        running := some { o with flags := fl, before := o.kind.written.map fun t => (t, v.tile t) }
        rotG := if o.harvest then x.rotG else (o.quadrant + 1) % 4
        rotH := if o.harvest then (o.quadrant + 1) % 4 else x.rotH })) ∧
    (c.running = some o → (∀ d a b tr aoff prec p, o.kind ≠ .mma d a b tr aoff prec (some p)) → Living s o.workgroup →
      (s.getGang o.gang).sheaves = [] →
      exec (.matrixOpRetire core) s = .next ((s.updCore core fun x => { x with running := none }).updGang o.gang fun g =>
        { g with fflags := g.fflags ||| o.flags, opsRetired := g.opsRetired + 1 }))

/-- The unit of a core takes this operation next, and nothing stands in its way (R169). -/
def UnitTakes (s : State) (core : Nat) (o : MatOp) : Prop :=
  let c := s.getCore core
  c.running = none ∧ c.slaved = none ∧ c.nextOp = some o ∧ s.opFree o = true ∧ s.opPoisoned o = false

/-- A segment of a tile row from two 16-byte pieces: 32 bytes and a scale code, with the flags (R172, R173). Pages without blocks give
raw bytes under 0x7F, and a segment within one block takes that block's code; of several blocks the largest code counts, and what another
code covers is encoded again under it, element by element. -/
def SegmentIs (s : State) (f b : Nat) (p q : Chunk) (bytes : List Byte) (code : Nat) : Prop :=
  let raw := s.homeRead p.key p.ua 16 ++ s.homeRead q.key q.ua 16
  let places := [(p.key, p.sc0), (p.key, p.sc1), (q.key, q.sc0), (q.key, q.sc1)]
  let codes := places.map fun x => leNat (s.homeRead x.1 x.2 1)
  let largest := codes.foldl max 0
  let e := fmtBits f
  let element (xs : List Byte) (i : Nat) : Nat := leNat xs / 2 ^ (i * e) % 2 ^ e
  bytes.length = 32 ∧
  if b = 0 then bytes = raw ∧ code = 0x7F
  else if (distinct (places.map (·.2))).length = 1 then bytes = raw ∧ code = codes.headD 0
  else code = largest ∧ ∀ k, k < 4 →
    let c := codes.getD k 0
    let part (xs : List Byte) := (xs.drop (8 * k)).take 8
    if c = 0 then part bytes = List.replicate 8 0
    else if c = largest ∨ largest = 0xFF then part bytes = part raw
    else ∀ i, i < 64 / e → element (part bytes) i =
      (encodeTo f (scaleF (valueOf f (element (part raw) i)) ((c : Int) - largest)) 0 false).1 % 2 ^ e

/-- What row r of a tile becomes on its page (R174): the element i of the row, under the code of its block. -/
def storedAs (t : Tile) (src : Option Nat) (sblk f b : Nat) (sat : Bool) (r : Nat) (cs : List Chunk) (i : Nat) : Nat :=
  let count := rowElems src
  let place (j : Nat) : Nat := (rowPlaces f count cs).getD j 0
  let value (j : Nat) : FVal := (storedElem t src r j).1
  if rawPath src sblk f b ∨ (b = 0 ∧ f = 0 ∧ src = none) then (storedElem t src r i).2
  else if b = 0 then (encodeTo f (value i) 0 sat).1
  else (encodeUnder f (blockScale f (((List.range count).filter fun j => place j = place i).map value)).1 (value i) sat).1

/-- TLD fills its rows of the tile from memory, and gives the tile its pages' format (R172, R173); TST turns its rows into stores of its
gang (R174), each of which reaches memory when it is performed; a paired MMA writes both accumulators, the second over the follower's
bank, whose unit it occupies until it retires (R184, R185). An operation that retires completes its gang's sheaf when none of its
operations and stores is left (R186). When each of this happens is the model's choice (log 32). -/
def Claims.TransfersAndPairsTakeEffect : Prop :=
  ∀ (s : State) (core : Nat) (o : MatOp), UnitTakes s core o → o.workgroup ≠ 0 → (s.getWg o.workgroup).id = o.workgroup →
    let v := s.getWg o.workgroup
    SMap.wf {} v.tiles = true →
    (∀ t row0 n f b cs, o.kind = .tld t row0 n f b cs → cs.length = 16 * n → row0 + n ≤ 64 → f < 8 →
      SMap.wf 0 (v.tile t).data = true → SMap.wf 0 (v.tile t).side = true →
      ∃ u, exec (.matrixOpStart core) s = .next u ∧
        let old := v.tile t
        let new := (u.getWg o.workgroup).tile t
        new.fmt = BitVec.ofNat 4 f ∧ new.blk = BitVec.ofNat 2 b ∧ new.acc = false ∧ new.valid = true ∧
        (∀ i, i < 8 * n → ∃ bytes code, SegmentIs s f b (cs.getD (2 * i) default) (cs.getD (2 * i + 1) default) bytes code ∧
          byteOf new true (8 * row0 + i) = BitVec.ofNat 8 code ∧
          ∀ j, j < 32 → byteOf new false (32 * (8 * row0 + i) + j) = bytes.getD j 0) ∧
        (∀ a, a < 256 * row0 ∨ 256 * (row0 + n) ≤ a → byteOf new false a = byteOf old false a) ∧
        (∀ a, a < 8 * row0 ∨ 8 * (row0 + n) ≤ a → byteOf new true a = byteOf old true a)) ∧
    (∀ t row0 n sat src sblk f b cs, o.kind = .tst t row0 n sat src sblk f b cs → f < 8 →
      (s.getGang o.gang).id = o.gang → o.gang ≠ 0 →
      let per := rowElems src * fmtBits f / 128
      0 < per → cs.length = per * n →
      ∃ (u : State) (new : List Req), exec (.matrixOpStart core) s = .next u ∧
        (u.getGang o.gang).stores = (s.getGang o.gang).stores ++ new ∧ u.mem = s.mem ∧
        (∀ r k, r < n → k < per → ∃ q ∈ new, q.addr = (cs.getD (per * r + k) default).ua ∧ q.size = 16 ∧
          ∀ i, i < 128 / fmtBits f → q.data / 2 ^ (i * fmtBits f) % 2 ^ fmtBits f =
            storedAs (v.tile t) src sblk f b sat (row0 + r) ((cs.drop (per * r)).take per) (k * (128 / fmtBits f) + i) % 2 ^ fmtBits f) ∧
        (b ≠ 0 → ∀ r i, r < n → i < rowElems src →
          let row := (cs.drop (per * r)).take per
          let place (j : Nat) : Nat := (rowPlaces f (rowElems src) row).getD j 0
          ∃ q ∈ new, q.addr = place i ∧ q.size = 1 ∧ (rawPath src sblk f b = false → q.data = (blockScale f
            (((List.range (rowElems src)).filter fun j => place j = place i).map fun j => (storedElem (v.tile t) src (row0 + r) j).1)).1)) ∧
        ∀ q ∈ new, q.id = o.id ∧ q.kind = .write ∧ q.harvest = o.harvest ∧ (q.size = 1 → b ≠ 0)) ∧
    (∀ acc a bank tr aoff prec g c, o.kind = .mma acc a bank tr aoff prec (some (g, c)) →
      let mine := v.bank bank
      let other := (s.getWg g).bank c
      mine.w ≠ 0 → other.w = mine.w →
      ∃ u, exec (.matrixOpStart core) s = .next u ∧
        (u.getWg o.workgroup).tile acc = (multiplyInto v a tr aoff prec mine (v.tile acc)).1 ∧
        (u.getWg o.workgroup).tile (acc + 1) = (multiplyInto v a tr aoff prec other (v.tile (acc + 1))).1 ∧
        (u.getCore (s.getWg g).core).slaved = some core)

/-- A store of a gang's TST is performed at its home (R174, R242): its bytes are there, and it leaves the gang. An operation that retires
writes the sheaf word of its gang's one open sheaf, once no operation and no store stands before that sheaf (R186). -/
def Claims.TileStoresAndSheavesReachMemory : Prop :=
  (∀ (s : State) (part i : Nat) (r : Req), memoryWf s = true →
    let p := s.getPart part
    let g := s.getGang p.gang
    g.stores[i]? = some r → g.id ≠ 0 → g.sheaves = [] → Living s g.workgroup →
    s.wayTaken (s.coreOfPart p) 2 r.addr r.id r.harvest = false → s.gFirst (s.coreOfPart p) 2 r = false →
    s.heldByOther 0 r.addr r.size true = none → s.unitFree r.id r.addr r.size true = true →
    0 < r.size → isPeer r.addr = false → isDoorbell r.addr = false →
    (isHbm r.addr = true → 0 < r.key ∧ r.addr + r.size ≤ hbmEnd ∧
      (∀ k ∈ s.allCores, ∀ x ∈ k.l1, x.line ∉ linesOf r.addr r.size) ∧ ∀ e ∈ s.sectors, e.2.line ∉ linesOf r.addr r.size) →
    ∃ t, exec (.accessPerformed part (p.pending.length + i)) s = .next t ∧
      (t.getGang p.gang).stores = g.stores.erase r ∧
      (∀ a, view t r.key a = overwrite (view s r.key) r.addr r.size r.data a) ∧ memoryWf t = true) ∧
  ∀ (s : State) (core : Nat) (o : MatOp) (h : Sheaf),
    let g := s.getGang o.gang
    let retired : State := (s.updCore core fun x => { x with running := none }).updGang o.gang fun g =>
      { g with fflags := g.fflags ||| o.flags, opsRetired := g.opsRetired + 1 }
    let free : Prop := s.heldByOther 0 h.word 8 true = none ∧ s.ownedUnit 0 h.word 8 = false
    let done : Prop := h.upTo ≤ g.opsRetired + 1 ∧ ∀ r ∈ g.stores, h.upToId ≤ r.id
    (s.getCore core).running = some o → (∀ d a b tr aoff prec p, o.kind ≠ .mma d a b tr aoff prec (some p)) →
    Living s o.workgroup → g.id = o.gang → g.id ≠ 0 → g.sheaves = [h] →
    (¬done → exec (.matrixOpRetire core) s = .next retired) ∧
    (done → free → exec (.matrixOpRetire core) s =
      .next ((retired.homeWrite 0 h.word (leBytes 8 h.number)).updGang o.gang fun x =>
        { x with sheaves := [], shDone := BitVec.ofNat 16 h.number }))

/-! ## Engine words (R155 to R165, R305, R308, R364) -/

/-- A block of n times 64 bytes stands where the part can read it now: in its scratchpad, or in global memory, each 64 bytes at
a place. -/
def BlockAt (s : State) (va : Word64) (n : Nat) (spad : Bool) (xs : List Spot) : Prop :=
  if spad then
    xs = [{ ua := spadAddr s.here (s.wg.sbase + va.toNat) }] ∧ va.toNat % 64 = 0 ∧ va.toNat + 64 * n ≤ s.wg.scr ∧
    s.blocked xs (64 * n) false = none ∧ ∀ x ∈ xs, s.isPoisoned x.ua (64 * n) = false
  else xs.length = n ∧ ∀ (i : Nat) (x : Spot), xs[i]? = some x → Readable s (va + BitVec.ofNat 64 (64 * i)) 64 6 x

/-- The bytes of the block. -/
def blockSeen (s : State) (n : Nat) (spad : Bool) (xs : List Spot) : List Byte :=
  let k := if spad then 64 * n else 64
  xs.flatMap fun x => leBytes k (seen s x k)

/-- A status lands as a lane result in every present lane, and the part goes on. -/
def withStatus (s : State) (d : Field) (b : Bool) (waits : Nat := 0) (turn : Bool := false) : State :=
  { s with
    me := { s.me with
      pc := s.me.pc + 8
      inflight := s.me.inflight ++ [{ id := s.nextId, preds := (lanesOf s.present).map fun l => (32 * d.toNat + l, b)
                                      waits := waits, turn := turn }] }
    nextId := s.nextId + 1 }

/-- The part may hand work to an engine now: outside a transaction, with its own accesses performed. -/
def MayHandOver (s : State) : Prop := s.me.levels = [] ∧ s.me.fenced = false ∧ s.me.settled = true

/-- COPY hands a well-formed descriptor to the core's engine with status 1, or answers 0 when the engine holds 32 copies of its
core; a descriptor that fails its check traps PROT with AUX 0x07 (R155 to R157). -/
def Claims.CopiesAreHandedOver : Prop :=
  ∀ (o : FX) (s : State) (xs : List Spot) (stile : Option Spot), Ready (.copy o) s → MayHandOver s →
    let spad := o.qual.getLsbD 1
    let va := s.rg o.a.toNat
    let c := copyDescOf (blockSeen s 4 spad xs)
    let mine := s.copies.filter fun j => match j.owner with | .gang _ _ _ k => k == s.here | .queue .. => false
    let u := s.release s.here 2
    let j := c.job s.nextId (.gang s.me.id s.gang.id s.wg.id s.here)
      { who := .copy s.nextId, hedge := s.ctx.hedge, die := coreDie s.here, asid := s.ctx.asid, root := s.ctx.root, key := s.ctx.key
        codeKey := s.ctx.codeKey, harvest := s.ctx.harvest }
      s.ctx.id s.ctx.harvest (stile.map (·.ua))
    BlockAt s va 4 spad xs →
    (c.ok (some s.wg.ntiles) = false →
      exec (.copy o) s = .next (s.raise { code := 8, aux := 7, lanes := s.present, acc := 64, size := 6, addr := va })) ∧
    (c.ok (some s.wg.ntiles) = true →
      (match stile with | none => o.b = 0 | some x => o.b ≠ 0 ∧ StileAt s { o with a := o.b } true true x) →
      exec (.copy o) s = .next (if 32 ≤ mine.length then withStatus s o.d false
        else withStatus (({ u with copies := u.copies ++ [j], nextId := u.nextId + 1 } : State).own j) o.d true))

/-- MSGSEND sends the payload to the core that gA names, and its status waits for the target's answer; where no such core is, the
status is 0 at once (R161). A handler address that is no landing pad with the tag traps LPAD, and nothing is sent. LAUNCH offers its
packet to a device queue of the context's hedge and ASID with room, with status 1; any other handle answers 0 (R163, R364). -/
def Claims.MessagesAndLaunchesLeave : Prop :=
  ∀ (o : FX) (s t : State) (xs : List Spot), MayHandOver s → s.me.inFurrow = false →
    (Ready (.msgsend o) s → (s.rg o.c.toNat).toNat % 8 = 0 → LandsOn s (s.rg o.c.toNat) o.qual t →
      -- t is the state with the handler's word fetched
      let u := t.release t.here 2
      let dst := coreOfId ((t.rg o.a.toNat).toNat / 256 % 256)
      (∀ c, dst = some c → exec (.msgsend o) s = .next (withStatus { u with messages := u.messages ++ [{
        context := t.ctx.id, src := t.here, srcId := coreIdOf t.gang t.here, dst := c, part := t.me.id, res := t.nextId
        handler := s.rg o.c.toNat, payload := (List.range 8).map fun i => t.rg (o.b.toNat + i), harvest := t.ctx.harvest }] }
        o.d false (waits := 1))) ∧
      (dst = none → exec (.msgsend o) s = .next (withStatus t o.d false))) ∧
    (∀ w : Word64, Ready (.msgsend o) s → (s.rg o.c.toNat).toNat % 8 = 0 → s.fetch (s.rg o.c.toNat) = (t, .word w) →
      (w.toNat / 2 ^ 56 ≠ 9 → exec (.msgsend o) s = .next (t.trapAux 5 1)) ∧
      (w.toNat / 2 ^ 56 = 9 → w.toNat / 2 ^ 8 % 2 ^ 12 ≠ o.qual.toNat → exec (.msgsend o) s = .next (t.trapAux 5 2))) ∧
    (let spad := o.qual.getLsbD 0
     let q := (s.rg o.b.toNat).toNat
     let mine : Prop := q < 2 ^ 14 ∧ s.qStopped q = false ∧ s.qDev q = true ∧ s.qHedge q = s.ctx.hedge ∧ s.qAsid q = s.ctx.asid ∧ s.ctx.level < 4
     Ready (.launch o) s → BlockAt s (s.rg o.a.toNat) 1 spad xs →
     (¬mine → exec (.launch o) s = .next (withStatus s o.d false)) ∧
     (mine →
       let u := s.release s.here 2
       let slot := u.qRing q + 64 * (u.qWidx q % u.qSize q)
       (u.qRidx q + u.qSize q ≤ u.qWidx q ∨ (u.qSize q ≤ u.ordinaryUsed q + 4 ∧ u.floorFree q (s.ctx.level + 1) = false) →
         exec (.launch o) s = .next (withStatus u o.d false)) ∧
       ∀ e : TlbEntry, u.qWidx q < u.qRidx q + u.qSize q → u.ordinaryUsed q + 4 < u.qSize q → u.engineSpot (u.queueSpace q) slot 64 false true = .got e →
       let v := u.engineWrite (u.entryKey (u.queueSpace q) e) (e.phys slot) (blockSeen s 1 spad xs) (entryCritical (some e)) (u.queueSpace q).harvest
       let y := v.getQueue q
       exec (.launch o) s = .next (withStatus ((v.setQueue { y with
         levels := y.levels ++ [(u.qWidx q, s.ctx.level + 1)]
         parents := y.parents ++ [(u.qWidx q, s.ctx.id)] }).takeWidx q (u.qWidx q + 1)) o.d true)))

/-- DTURN queues a request to turn the droveway, or answers 0 where the die's queue refuses it; DSTAT reads the droveway's counts as
the part's die sees them (R164, R165, R308). -/
def Claims.DrovewayWordsAskAndRead : Prop :=
  ∀ (o : FX) (s : State),
    let n := o.qual.toNat % 64
    let die := coreDie s.here
    let mine := s.drove.queue.filter fun t => t.die == die
    let refused : Prop := 16 ≤ mine.length ∨ 4 ≤ (mine.filter fun t => t.hedge == s.ctx.hedge).length ∨
      (s.ctx.harvest = true ∧ 8 ≤ (mine.filter fun t => t.harvest).length)
    (Ready (.dturn o) s → s.me.levels = [] →
      (refused → exec (.dturn o) s = .next (withStatus s o.d false (turn := true))) ∧
      (¬refused → exec (.dturn o) s = .next (withStatus { s with drove := { s.drove with queue := s.drove.queue ++ [{
        die := die, hedge := s.ctx.hedge, context := s.ctx.id, harvest := s.ctx.harvest
        goal := if die = 0 then n else 64 - n, tick := s.tick }] } } o.d true (turn := true)))) ∧
    (Ready (.dstat o) s →
      let inward := if die = 0 then s.drove.in0 else s.drove.in1
      let outward := if die = 0 then s.drove.in1 else s.drove.in0
      let goal := if die = 0 then s.drove.goal else 64 - s.drove.goal
      exec (.dstat o) s = .next (wroteGang s o.d (BitVec.ofNat 64
        (inward + 2 ^ 8 * outward + 2 ^ 16 * s.drove.turning + 2 ^ 24 * goal + 2 ^ 32 * mine.length))))

/-! ## Scripts (R366 to R369) -/

/-- A script register as an op reads it: s0 reads 0. -/
def scriptReg (s : State) (i : BitVec 4) : Word64 := if i = 0 then 0 else s.scr.s.getD i.toNat 0

/-- The run after an op that writes a register and goes on at a word; a write to s0 is ignored. -/
def scriptWrote (s : State) (d : BitVec 4) (x : Word64) (pc : Nat) : State :=
  { s with scr := { s.scr with
    s := if d = 0 then s.scr.s else s.scr.s.setIfInBounds d.toNat x
    pc := pc
    steps := s.scr.steps + 1 } }

/-- The value that an op gives its register (R367). -/
def scriptValue (s : State) : Instr → Option (BitVec 4 × Word64)
  | .sli o => some (o.d, BitVec.ofInt 64 o.imm.toInt)
  | .slui o => some (o.d, BitVec.ofNat 64 ((scriptReg s o.d).toNat * 2 ^ 16 + o.imm.toNat))
  | .sarg o => some (o.d, s.scr.args.getD o.imm.toNat 0)
  | .sadd o => some (o.d, scriptReg s o.a + scriptReg s o.b)
  | .ssub o => some (o.d, scriptReg s o.a - scriptReg s o.b)
  | .sand o => some (o.d, scriptReg s o.a &&& scriptReg s o.b)
  | .sor o => some (o.d, scriptReg s o.a ||| scriptReg s o.b)
  | .sxor o => some (o.d, scriptReg s o.a ^^^ scriptReg s o.b)
  | .saddi o => some (o.d, scriptReg s o.a + BitVec.ofInt 64 o.imm.toInt)
  | .sshl o => some (o.d, BitVec.ofNat 64 ((scriptReg s o.a).toNat * 2 ^ o.imm.toNat))
  | .sshr o => some (o.d, BitVec.ofNat 64 ((scriptReg s o.a).toNat / 2 ^ o.imm.toNat))
  | _ => none

/-- The run of a queue comes to its end, and so does the packet that it runs for. -/
def runEnded (s : State) (status aux : Nat) : State :=
  let t : State := { s with scr := { s.scr with live := false } }
  let q := t.getQueue s.scr.queue
  t.setQueue { q with packets := q.packets.map fun p =>
    if p.seq = s.scr.seq ∧ p.ended = none then { p with ended := some (status, aux) } else p }

/-- Script ops on registers (R367): a result goes to sD and the run goes on; branches go forward where their comparison holds; SLOOP
counts down and goes back until its register is 0; SDONE ends the packet normally, SABORT with SCRIPTABORT (0x45) and its AUX. -/
def Claims.ScriptOpsActOnTheirRegisters : Prop :=
  ∀ (i : Instr) (s : State), s.scr.live = true →
    (∀ d x, scriptValue s i = some (d, x) → exec i s = .next (scriptWrote s d x (s.scr.pc + 1))) ∧
    ∀ o : FS,
      let go (b : Bool) : State := scriptWrote s 0 0 (if b then s.scr.pc + o.imm.toNat else s.scr.pc + 1)
      let a := scriptReg s o.a
      let b := scriptReg s o.b
      exec (.sbeq o) s = .next (go (decide (a = b))) ∧ exec (.sbne o) s = .next (go (decide (a ≠ b))) ∧
      exec (.sblt o) s = .next (go (decide (a.toInt < b.toInt))) ∧
      exec (.sloop o) s = .next (if scriptReg s o.d = 0 then scriptWrote s 0 0 (s.scr.pc + 1)
        else scriptWrote s o.d (scriptReg s o.d - 1) (s.scr.pc - o.imm.toNat)) ∧
      exec .sdone s = .next (runEnded s 0 0) ∧ exec (.sabort o) s = .next (runEnded s 0x45 (o.imm.toNat % 256))

/-- The n bytes at an address of a queue's space can be reached now through this page. -/
def QueueReach (s : State) (q va n : Nat) (r w : Bool) (e : TlbEntry) : Prop := s.engineSpot (s.queueSpace q) va n r w = .got e

/-- What an engine's read with acquire of a queue's bytes behind a page leaves, and the bytes. -/
def queueRead (s : State) (q va n : Nat) (e : TlbEntry) : State × List Byte := s.spaceRead (s.queueSpace q) e va n

/-- The engines' write of bytes in a queue's space. -/
def queueWrite (s : State) (q va : Nat) (bs : List Byte) (e : TlbEntry) : State := s.spaceWrite (s.queueSpace q) e va bs

/-- A signal behind a page takes a new value from its old one, in one step: what was released to its line comes first. -/
def signalled (s : State) (q va : Nat) (e : TlbEntry) (f : Word64 → Word64) : State :=
  let t := s.promoteAt (e.phys va) 8
  let old := BitVec.ofNat 64 (leNat (t.homeRead (t.entryKey (s.queueSpace q) e) (e.phys va) 8))
  t.spaceWrite (s.queueSpace q) e va (leBytes 8 (f old).toNat)

/-- SLD, SST and SSIG (R367, R369): a load and a store in a script window, and an add to a signal; outside the four windows, or
where the address is no signal, the packet ends with SCRIPTFAULT (0x44) and the step index, nothing being read or written. SENQ
writes its packet into a queue of the hedge and ASID and gives 1, or 0 where the queue is full; with .must a full queue ends the
packet with QUEUE_FULL (0x10). The fault on a misaligned address and the numbering of its steps are the model's reading (log 38). -/
def Claims.ScriptWordsReachMemory : Prop :=
  ∀ (o : FS) (s : State) (e : TlbEntry), s.scr.live = true →
    let q := s.scr.queue
    let va := (scriptReg s o.a + BitVec.ofInt 64 o.imm.toInt).toNat
    let inside (va n : Nat) : Prop := va % 8 = 0 ∧ ∃ w ∈ s.windowsOf q, w.1 ≤ va ∧ va + n ≤ w.1 + w.2
    let sig := (scriptReg s o.a).toNat
    let dest := (scriptReg s o.b).toNat
    (inside va 8 → QueueReach s q va 8 true false e →
      let r := queueRead s q va 8 e
      exec (.sld o) s = .next (scriptWrote r.1 o.d (BitVec.ofNat 64 (leNat r.2)) (s.scr.pc + 1))) ∧
    (inside va 8 → QueueReach s q va 8 false true e →
      exec (.sst o) s = .next (scriptWrote (queueWrite s q va (leBytes 8 (scriptReg s o.d).toNat) e) 0 0 (s.scr.pc + 1))) ∧
    (sig % 8 = 0 → e.ext = true → QueueReach s q sig 8 true true e →
      exec (.ssig o) s = .next (scriptWrote (signalled s q sig e (· + scriptReg s o.b)) 0 0 (s.scr.pc + 1))) ∧
    (¬inside va 8 → exec (.sld o) s = .next (runEnded s 0x44 (s.scr.steps % 256)) ∧
      exec (.sst o) s = .next (runEnded s 0x44 (s.scr.steps % 256))) ∧
    (sig % 8 ≠ 0 → exec (.ssig o) s = .next (runEnded s 0x44 (s.scr.steps % 256))) ∧
    (∀ slot : TlbEntry, dest < 2 ^ 14 → s.qStopped dest = false → s.qHedge dest = s.qHedge q → s.qAsid dest = s.qAsid q →
      inside sig 64 → sig % 4096 + 64 ≤ 4096 → QueueReach s q sig 64 true false e →
      let t := (queueRead s q sig 64 e).1
      let at_ := t.qRing dest + 64 * (t.qWidx dest % t.qSize dest)
      let room : Prop := t.qWidx dest < t.qRidx dest + t.qSize dest ∧
        (t.qDev dest = true → t.ordinaryUsed dest + 4 < t.qSize dest)
      let u := queueWrite t dest at_ (queueRead s q sig 64 e).2 slot
      let y := u.getQueue dest
      (room → QueueReach t dest at_ 64 false true slot →
        exec (.senq o) s = .next (scriptWrote
          ((u.setQueue { y with levels := y.levels ++ [(t.qWidx dest, 0)], parents := y.parents ++ [(t.qWidx dest, 0)] }).takeWidx
            dest (t.qWidx dest + 1)) o.d 1 (s.scr.pc + 1))) ∧
      (¬room → exec (.senq o) s =
        .next (if o.imm.getLsbD 0 then runEnded t 0x10 1 else scriptWrote t o.d 0 (s.scr.pc + 1)))) ∧
    (s.qHedge dest ≠ s.qHedge q ∨ s.qAsid dest ≠ s.qAsid q → exec (.senq o) s = .next (runEnded s 0x44 (s.scr.steps % 256)))

/-! ## Queues and packets (R346 to R359, R366, R405) -/

/-- Every packet of the queue that has come to its end has been held against the queue (R356). -/
def Judged (s : State) (q : Nat) : Prop := ∀ p ∈ (s.getQueue q).packets, (s.packetEnd p).isSome = true → p.judged = true

/-- The next packet of a queue is p, and its turn has come: the queue's descriptor stands since this boot, its ASID's entry is valid,
no other queue of its engine comes first, its slot is read, which leaves the state u, and the packets before it allow it (R346, R353,
R387, R400). -/
def ReadyPacket (s : State) (q : Nat) (p : Packet) (u : State) : Prop :=
  Judged s q ∧ s.qStopped q = false ∧ s.nextSeq q < s.qWidx q ∧ s.servedFirst q = false ∧ s.asidFault q = none ∧
  (let va := s.qRing q + 64 * (s.nextSeq q % s.qSize q)
   ∃ e, QueueReach s q va 64 true false e ∧ u = (queueRead s q va 64 e).1 ∧
    p = { seq := s.nextSeq q, level := s.packetLevel q (s.nextSeq q)
          words := (List.range 8).map fun i => BitVec.ofNat 64 (leNat (((queueRead s q va 64 e).2.drop (8 * i)).take 8)) }) ∧
  u.qAborted q = false ∧ u.mayStart q p.seq (decide (p.word 0 / 256 % 2 = 1)) = true

/-- It may start: its fields are in range as well, and the signals that it names are signals (R349, R405). -/
def NextPacket (s : State) (q : Nat) (p : Packet) (u : State) : Prop :=
  ReadyPacket s q p u ∧ p.fieldsOk = true ∧ ∀ va ∈ p.signals, ∃ e, u.signalSpot (s.queueSpace q) va false = .got e

/-- The queue has taken up a packet, and is the last that its engine has served (R346). -/
def tookUp (s : State) (q : Nat) (p : Packet) : State :=
  let x := s.getQueue q
  { s with queues := s.queues.filter (fun y => decide (y.handle ≠ q)) ++ [{ x with taken := p.seq + 1, packets := x.packets ++ [p] }] }

/-- A packet that has started, and one that has come to its end as well. -/
def started (s : State) (p : Packet) : Packet := { p with started := some s.tick }

def endedAt (s : State) (p : Packet) (status aux : Nat) : Packet := { p with started := some s.tick, ended := some (status, aux) }

/-- Blocks of n bytes, one after the other from an address of a space on, are these bytes, and reading them in turn leads from s
to t. -/
def TableAt (x : Space) (n : Nat) (s : State) (va : Nat) (bss : List (List Byte)) (t : State) : Prop :=
  match bss with
  | [] => t = s
  | b :: rest => ∃ e, s.engineSpot x va n true false = .got e ∧ b = (s.spaceRead x e va n).2 ∧
    TableAt x n (s.spaceRead x e va n).1 (va + n) rest t

/-- The page of a signal as its check finds it, whatever its EXT says (R405). -/
def QueueSignal (u : State) (x : Space) (va : Nat) (e : TlbEntry) : Prop := u.engineSpot x va 8 true true false = .got e

/-- Packets start in their order (R353): a NOP ends at once; a SIGNAL sets or adds to its signal (R354); a COPY whose descriptor passes
its check goes to the engine's copy channel (R353); a LAUNCH whose header is well formed makes a context, live and with no paddock
placed (R352). -/
def Claims.PacketsStart : Prop :=
  ∀ (q : Nat) (s : State) (p : Packet) (u t : State) (e : TlbEntry) (bss : List (List Byte)) (x : Header) (h : Hedge),
    NextPacket s q p u →
    (p.type = 0 → exec (.nopPacket q) s = .next (tookUp u q (endedAt u p 0 0))) ∧
    (p.type = 4 → QueueReach u q (p.word 2) 8 true true e → p.word 2 % 8 = 0 → e.ext = true →
      let v := signalled u q (p.word 2) e fun old =>
        if p.word 0 / 512 % 2 = 1 then BitVec.ofNat 64 (p.word 3) else old + BitVec.ofNat 64 (p.word 3)
      exec (.signalPacket q) s = .next (tookUp v q (endedAt v p 0 0))) ∧
    (p.type = 2 → p.word 2 % 64 = 0 → bss.length = 4 → TableAt (u.queueSpace q) 64 u (p.word 2) bss t →
      let c := copyDescOf bss.flatten
      (c.ok none = false → exec (.copyPacket q) s = .next (tookUp t q (endedAt t p 0x41 1))) ∧
      (c.ok none = true →
        let j := c.job t.nextId (.queue q p.seq) (u.queueSpace q) 0 (t.qHarvest q) none
        let v := tookUp t q (started t p)
        exec (.copyPacket q) s = .next (({ v with copies := v.copies ++ [j], nextId := v.nextId + 1 } : State).own j))) ∧
    (p.type = 1 → u.qHedge q < 48 → u.hedge? (u.qHedge q) = some h → t.hedge? (u.qHedge q) = some h → h.cores ≠ 0 →
      (∀ fail k, u.readHeader q p.words fail k = k t x) → t.headerFault h (t.qHarvest q) x.kernel x.grid = none →
      ∃ v c, exec (.launchPacket q) s = .next v ∧ v.ctxs = t.ctxs ++ [c] ∧ c.id = t.nextId ∧ v.nextId = t.nextId + 1 ∧
        c.live = true ∧ c.placed = 0 ∧ c.queue = q ∧ c.seq = p.seq ∧ c.asid = t.qAsid q ∧ c.hedge = t.qHedge q ∧
        c.harvest = t.qHarvest q ∧ c.level = p.level ∧ c.arg = BitVec.ofNat 64 (p.word 3) ∧
        c.trapArea = BitVec.ofNat 64 (p.word 6) ∧ c.entry = BitVec.ofNat 64 x.kernel.entry ∧ c.npad = x.grid.npad ∧
        v.getQueue q = { t.getQueue q with
          taken := p.seq + 1
          packets := (t.getQueue q).packets ++ [{ p with context := some c.id, bucket := x.bucket }] } ∧
        { v with ctxs := t.ctxs, nextId := t.nextId, queues := t.queues } = t)

/-- The write set of a part's open transaction holds bytes whose stores were translated for an ASID in a range of addresses. -/
def wroteUnder (asid start len : Nat) (z : Part) : Bool :=
  z.levels.any fun l => l.writes.any fun b => b.spans.any fun x => x.1 == asid && overlaps x.2.1 x.2.2 start len

/-- TLBINV (R230): once the accesses that were translated in its range have been accepted, no TLB and no walk cache holds an entry of
the range, and an open transaction with a store that was translated there aborts (the model's reading, log 48); until then the packet
waits, and a queue that is not privileged is refused with AUX 8. -/
def Claims.TlbinvDropsItsRange : Prop :=
  ∀ (q : Nat) (s : State) (p : Packet) (u : State), NextPacket s q p u → p.type = 6 →
    let asid := p.word 2
    let root := (u.readAsid asid).root
    let inRange (b : TlbEntry) : Bool := b.asid == asid && overlaps (4096 * b.page) (2 ^ b.lg) (p.word 3) (p.word 4)
    let moving := u.migrating root asid (p.word 3) (p.word 4)
    let through : Prop := u.drained asid (p.word 3) (p.word 4) moving = true
    (u.qPriv q = false → exec (.tlbinv q) s = .next (tookUp u q (endedAt u p 0x41 8))) ∧
    (u.qPriv q = true → (u.allCores.map (·.id)).Nodup → (∀ k ∈ u.allCores, k.id ≠ 0) → through →
      ∃ t, exec (.tlbinv q) s = .next t ∧ (∀ k ∈ t.allCores, ∀ b ∈ k.tlb ++ k.qtlb.map (·.2), inRange b = false) ∧
        (∀ b ∈ t.walkCache, b.inRange asid (p.word 3) (p.word 4) = false) ∧
        t.getQueue q = (tookUp u q (endedAt u p 0 0)).getQueue q ∧
        (moving = [] → t.owned = u.owned ∧ t.parts = u.parts.map fun z =>
          if z.state ≠ .exited ∧ wroteUnder asid (p.word 3) (p.word 4) z = true then { z with doomed := true } else z) ∧
        { t with core := u.core, cores := u.cores, walkFaults := u.walkFaults, walkCache := u.walkCache, queues := u.queues, me := u.me
                 parts := u.parts, owned := u.owned } = u) ∧
    (u.qPriv q = true → ¬through → exec (.tlbinv q) s = .next u)

/-- The step that takes up a packet of a type. -/
def packetStep (q : Nat) : Nat → Instr
  | 0 => .nopPacket q
  | 1 => .launchPacket q
  | 2 => .copyPacket q
  | 3 => .barrierPacket q
  | 4 => .signalPacket q
  | 5 => .scriptRun q
  | _ => .tlbinv q

/-- The AUX of a launch whose fields are in range, if the engine refuses it (R352): a G descriptor on an H queue, a launch-time limit of
H work, gang slots or blocks of a quadrant beyond 8 and 32, lane indices beyond the widths, a paddock that fits nowhere. -/
def headerRefusal (s : State) (h : Hedge) (harvestQueue : Bool) (k : Kernel) (g : Grid) : Option Nat :=
  let gangs (quad : Nat) : Nat := ((List.range g.gangs).filter fun i => i % 4 == quad).length
  let spare (quad : Nat) : Bool := decide (gangs quad * k.vfull ≤ 32 - h.gfloor ∧ gangs quad ≤ 8 - h.sfloor)
  let small : Bool := decide (k.padW = 1 ∧ k.padH = 1 ∧ k.scr ≤ 65536 ∧ k.tiles ≤ 4 ∧ k.cim ≤ 1 ∧
    512 * g.gangs + 4096 * (g.gangs * k.vfull) + k.scr ≤ 524288)
  if harvestQueue = true ∧ k.harvest = false then some 2
  else if harvestQueue = true ∧ ¬(small = true ∧ ∀ quad ∈ List.range 4, spare quad = true) then some 3
  else if ∃ quad ∈ List.range 4, 8 < gangs quad ∨ 32 < gangs quad * k.vfull then some 4
  else if 2 ^ sumOf id k.widths < g.npad * (k.padW * k.padH) * g.gangs * 32 then some 5
  else if s.rectangles h 0 k.padW k.padH = [] ∧ s.rectangles h 1 k.padW k.padH = [] then some 6
  else none

/-- A kernel descriptor's bytes give these fields (R352), each in its range: some field outside it, or a reserved one that is not 0,
gives none. -/
def DescriptorFields (b : List Byte) : Prop :=
  let at_ (i n : Nat) : Nat := leNat ((b.drop i).take n)
  let inRange : Prop := at_ 8 1 ≤ 1 ∧ 1 ≤ at_ 9 1 ∧ at_ 9 1 ≤ at_ 10 1 ∧ at_ 10 1 ≤ 16 ∧ at_ 11 1 ≤ 16 ∧ at_ 12 1 ≤ 2 ∧
    1 ≤ at_ 13 1 ∧ at_ 13 1 ≤ 12 ∧ 1 ≤ at_ 14 1 ∧ at_ 14 1 ≤ 8 ∧ at_ 13 1 * at_ 14 1 ≤ 24 ∧ 1 ≤ at_ 15 1 ∧ at_ 15 1 ≤ 6 ∧
    at_ 16 4 % 256 = 0 ∧ at_ 16 4 ≤ 524288 ∧ at_ 26 38 = 0 ∧
    (∀ i < 6, if i < at_ 15 1 then 1 ≤ at_ (20 + i) 1 ∧ at_ (20 + i) 1 ≤ 64 else at_ (20 + i) 1 = 0) ∧
    at_ 20 1 + at_ 21 1 + at_ 22 1 + at_ 23 1 + at_ 24 1 + at_ 25 1 ≤ 64
  (¬inRange → kernelOf b = none) ∧
  (inRange → at_ 0 8 % 8 = 0 → kernelOf b = some
    { entry := at_ 0 8, harvest := decide (at_ 8 1 = 1), vpro := at_ 9 1, vfull := at_ 10 1, tiles := at_ 11 1, cim := at_ 12 1
      padW := at_ 13 1, padH := at_ 14 1, scr := at_ 16 4
      widths := [at_ 20 1, at_ 21 1, at_ 22 1, at_ 23 1, at_ 24 1, at_ 25 1] })

/-- A packet that fails a check ends with REJECTED (0x41) and has no effect: a bad field with AUX 1, a signal that is misaligned or lies
on a page with EXT = 0 with AUX 0x0B, one that cannot be reached with AUX 7, an ASID that the table refuses with its AUX (which the
model looks at before the slot, log 37), a launch whose header cannot be read, holds a bad field or breaks a limit with the AUX of that;
a launch that no bucket takes ends with NOBUCKET (0x43), and in an aborted queue every packet is skipped with ABORTED (0x42) (R349, R352,
R356, R360, R387, R405). -/
def Claims.PacketsAreRefusedAtTheirStart : Prop :=
  (∀ (s : State) (h : Hedge) (x : Bool) (k : Kernel) (g : Grid), g.gangs ≤ 32 → s.headerFault h x k g = headerRefusal s h x k g) ∧
  (∀ b : List Byte, b.length = 64 → DescriptorFields b) ∧
  (∀ (q : Nat) (s : State) (p : Packet) (u : State), ReadyPacket s q p u →
    (p.fieldsOk = false → exec (packetStep q p.type) s = .next (tookUp u q (endedAt u p 0x41 1))) ∧
    (∀ pre va post, p.fieldsOk = true → (p.type = 6 → u.qPriv q = true) → p.signals = pre ++ va :: post →
      (∀ a ∈ pre, ∃ e, u.signalSpot (s.queueSpace q) a false = .got e) →
      let bad : Packet := { p with mute := decide (va = p.word 1) }
      (va % 8 ≠ 0 → exec (packetStep q p.type) s = .next (tookUp u q (endedAt u bad 0x41 0x0B))) ∧
      (∀ e, va % 8 = 0 → QueueSignal u (s.queueSpace q) va e → e.ext = false →
        exec (packetStep q p.type) s = .next (tookUp u q (endedAt u bad 0x41 0x0B))) ∧
      (∀ v c a, va % 8 = 0 → u.engineSpot (s.queueSpace q) va 8 true true false = .bad v c a →
        exec (packetStep q p.type) s = .next (tookUp v q (endedAt v bad 0x41 7))))) ∧
  (∀ (q : Nat) (s : State) (p : Packet) (u t : State) (x : Header) (h : Hedge), NextPacket s q p u → p.type = 1 → u.qHedge q < 48 →
    u.hedge? (u.qHedge q) = some h →
    (h.cores = 0 → exec (.launchPacket q) s = .next (tookUp u q (endedAt u p 0x41 6))) ∧
    (h.cores ≠ 0 →
      (∀ aux, (∀ fail k, u.readHeader q p.words fail k = fail t (.reject aux)) →
        exec (.launchPacket q) s = .next (tookUp t q (endedAt t p 0x41 aux))) ∧
      ((∀ fail k, u.readHeader q p.words fail k = fail t .noBucket) →
        exec (.launchPacket q) s = .next (tookUp t q (endedAt t p 0x43 0))) ∧
      (∀ aux, (∀ fail k, u.readHeader q p.words fail k = k t x) → x.grid.gangs ≤ 32 →
        headerRefusal t h (t.qHarvest q) x.kernel x.grid = some aux →
        exec (.launchPacket q) s = .next (tookUp t q (endedAt t p 0x41 aux))))) ∧
  ∀ (q : Nat) (s : State) (p : Packet) (e : TlbEntry) (aux : Nat),
    let n := s.nextSeq q
    let va := s.qRing q + 64 * (n % s.qSize q)
    let blank : Packet := { seq := n, words := List.replicate 8 0, level := s.packetLevel q n }
    let u := (queueRead s q va 64 e).1
    let packet : Packet := { blank with
      words := (List.range 8).map fun i => BitVec.ofNat 64 (leNat (((queueRead s q va 64 e).2.drop (8 * i)).take 8)) }
    Judged s q → s.qStopped q = false → n < s.qWidx q → s.servedFirst q = false →
    (s.asidFault q = some aux → s.qAborted q = false → s.mayStart q n true = true →
      exec (.nopPacket q) s = .next (tookUp s q (endedAt s blank 0x41 aux))) ∧
    (s.asidFault q = none → QueueReach s q va 64 true false e → p = packet → u.qAborted q = true →
      exec (.nopPacket q) s = .next (tookUp u q
        { p with skipped := true, ended := some (0x42, 0), abortv := BitVec.ofNat 64 (u.qAbortv q) }))

/-- The signals at these addresses, read in turn with acquire, lie behind these pages and have these values, and reading them leads
from s to t (R355). -/
def Watches (x : Space) (s : State) (vas : List Nat) (es : List TlbEntry) (vs : List Word64) (t : State) : Prop :=
  match vas with
  | [] => es = [] ∧ vs = [] ∧ t = s
  | va :: rest => ∃ e es' vs', es = e :: es' ∧ s.signalSpot x va false = .got e ∧
    vs = BitVec.ofNat 64 (leNat (s.spaceRead x e va 8).2) :: vs' ∧ Watches x (s.spaceRead x e va 8).1 rest es' vs' t

/-- A packet that has come to a bad end aborts its queue at once with the value minus its status, before anything else of the queue
starts (R356); the queue holds no launch that waits for its first paddock. -/
def Claims.BadEndsAbortTheQueue : Prop :=
  ∀ (q : Nat) (s : State) (p : Packet) (st aux : Nat),
    (s.getQueue q).packets.filter (fun z => !z.judged && (s.packetEnd z).isSome) = [p] → s.packetEnd p = some (st, aux) →
    st ≠ 0 → st ≠ 0x42 → st < 2 ^ 8 → s.qAborted q = false → memoryWf s = true → s.sectors = [] → queueAddr s q + 256 ≤ hbmEnd →
    (s.getQueue q).packets.filter Packet.offered = [] → s.waitingBarrier q = none →
    ∃ u, exec (.barrierEvaluate q) s = .next u ∧ u.qAborted q = true ∧ u.qAbortv q = 2 ^ 64 - st ∧ u.tick = s.tick ∧
      (u.getQueue q).packets = (s.getQueue q).packets.map (fun z =>
        if (s.packetEnd z).isSome = true then { z with judged := true } else z)

/-- A BARRIER without regions (R355, R356): when every watched signal is 0 it ends; while one is positive and none negative it waits,
and it is evaluated again after a write, or by a poll where a signal lies in host or peer memory; a negative signal ends it with
ABORTED (0x42), the queue aborts, and the first negative value is ABORTV. -/
def Claims.BarriersWaitForTheirSignals : Prop :=
  ∀ (q : Nat) (s t : State) (p : Packet) (es : List TlbEntry) (vs : List Word64), p.type = 3 →
    let allZero : Prop := ∀ v ∈ vs, v = 0
    let negative : Option Word64 := vs.find? fun v => v.msb
    -- the packet of the queue with its number takes an end
    let closed (t : State) (st aux : Nat) : State :=
      let x := t.getQueue q
      t.setQueue { x with packets := x.packets.map fun z =>
        if z.seq = p.seq ∧ z.ended = none then { z with ended := some (st, aux) } else z }
    let aborts (t : State) (v : Word64) (u : State) : Prop :=
      u.qAborted q = true ∧ u.qAbortv q = v.toNat ∧
      ∃ z ∈ (u.getQueue q).packets, z.seq = p.seq ∧ z.ended = some (0x42, 0) ∧ z.abortv = v ∧ u.tick = t.tick
    let quiet : Prop := (t.getQueue q).packets.filter Packet.offered = [] ∧ memoryWf t = true ∧ t.sectors = [] ∧
      t.qAborted q = false ∧ queueAddr t q + 256 ≤ hbmEnd
    let edge (t : State) : State := t.setQueue { t.getQueue q with regions := [] }
    (∀ u, NextPacket s q p u → p.word 7 = 0 →
      let t0 := tookUp u q (started u p)
      Watches (t0.queueSpace q) t0 p.watched es vs t →
      (allZero → exec (.barrierPacket q) s = .next (closed (edge t) 0 0)) ∧
      (¬allZero → negative = none → exec (.barrierPacket q) s = .next t) ∧
      (∀ v, negative = some v → quiet → ∃ u, exec (.barrierPacket q) s = .next u ∧ aborts t v u)) ∧
    (Judged s q → s.waitingBarrier q = some p → p.regions = [] → Watches (s.queueSpace q) s p.watched es vs t →
      (allZero → exec (.barrierEvaluate q) s = .next (closed (edge t) 0 0)) ∧
      (¬allZero → negative = none → exec (.barrierEvaluate q) s = .next t) ∧
      (∀ v, negative = some v → quiet → ∃ u, exec (.barrierEvaluate q) s = .next u ∧ aborts t v u) ∧
      (let outside : Prop := ∃ e ∈ es, e.mt ≠ 0
       (∀ t' es' vs', outside → Watches (t.queueSpace q) t p.watched es' vs' t' → (∀ v ∈ vs', v = 0) →
        exec (.barrierPoll q) s = .next (closed (edge t') 0 0)) ∧
       (¬outside → exec (.barrierPoll q) s = .next t)))

/-- SCRIPT packets (R366): OPN 1 loads a script that passes verification, and one that fails leaves the script in place and ends with
REJECTED, AUX 0x0A; OPN 0 runs the loaded script from its first word with zero registers and the packet's words. -/
def Claims.ScriptPacketsLoadAndRun : Prop :=
  ∀ (q : Nat) (s : State) (p : Packet) (u t : State) (bss : List (List Byte)), NextPacket s q p u → p.type = 5 →
    let ws : List (BitVec 32) := bss.map fun b => BitVec.ofNat 32 (leNat b)
    (p.word 0 / 512 % 8 = 1 → p.word 2 % 4 = 0 → 1 ≤ p.word 3 → p.word 3 ≤ 256 → bss.length = p.word 3 →
      TableAt (u.queueSpace q) 4 u (p.word 2) bss t →
      (scriptOk ws = true →
        exec (.scriptLoad q) s = .next (tookUp (t.setQueue { t.getQueue q with script := ws }) q (endedAt t p 0 0))) ∧
      (scriptOk ws = false → exec (.scriptLoad q) s = .next (tookUp t q (endedAt t p 0x41 0x0A)))) ∧
    (p.word 0 / 512 % 8 = 0 →
      let x := u.getQueue q
      (x.script ≠ [] → exec (.scriptRun q) s = .next { tookUp u q (started u p) with
        scripts := (tookUp u q (started u p)).scripts ++ [{ queue := q, seq := p.seq, live := true, args := p.words, words := x.script }] }) ∧
      (x.script = [] → exec (.scriptRun q) s = .next (tookUp u q (endedAt u p 0x41 9))))

/-- Signals of a queue are updated in turn, which leads from s to t (R354). -/
def Updated (q : Nat) (f : Word64 → Word64) (s : State) (vas : List Nat) (t : State) : Prop :=
  match vas with
  | [] => t = s
  | va :: rest => ∃ e : TlbEntry, va % 8 = 0 ∧ e.ext = true ∧ QueueReach s q va 8 true true e ∧
    Updated q f (signalled s q va e f) rest t

/-- PACKET_COMPLETE: the record of the packet that has come to its end (of several the model leaves the order open, log 37) goes to the
completion ring field by field (R358), CWIDX goes up by one, then its signal goes down by one at a normal end, takes the abort value
where the packet was skipped or is a BARRIER that failed, and minus the status after any other end, as does the target of a skipped
SIGNAL (R354, R356), and RIDX passes it; a full ring holds it. DOORBELL_WRITE (R348): a write of the whole doorbell word in range becomes
WIDX, and nothing else happens at a doorbell. -/
def Claims.CompletionsAndDoorbells : Prop :=
  ∀ (q : Nat) (s : State) (p : Packet) (e : TlbEntry) (w : Nat),
    (let x := s.getQueue q
     let i := s.qCwidx q
     let va := s.qCring q + 64 * (i % s.qCrsize q)
     Judged s q →
     (i - s.qCridx q = s.qCrsize q → exec (.packetComplete q) s = .next s) ∧
     (∀ (status aux : Nat) (t : State), x.packets.filter (fun p => !p.completed && (s.packetEnd p).isSome) = [p] →
       s.packetEnd p = some (status, aux) → i - s.qCridx q ≠ s.qCrsize q → QueueReach s q va 64 false true e →
       let report := p.context.bind fun c => (s.getCtx c).report
       let fields : List (Nat × Nat) :=
         [(8, p.seq), (1, p.type), (1, status), (1, aux), (1, p.level), (4, p.bucket.getD (2 ^ 32 - 1)),
          (8, if p.skipped then 0 else Config.elapsed s.tick), (8, if status = 0x42 then p.abortv.toNat else 0),
          (8, match report with | some r => r.pc.toNat | none => 0), (8, match report with | some r => r.slot.toNat | none => 0), (16, 0)]
       let u := queueWrite s q va (fields.flatMap fun f => leBytes f.1 f.2) e
       let v := u.wr (queueAddr u q + 56) 8 (i + 1)
       let told := ([if p.mute then 0 else p.word 1] ++ if p.skipped = true ∧ p.type = 4 then [p.word 2] else []).filter (· ≠ 0)
       (∀ a ∈ told, ∃ f : TlbEntry, a % 8 = 0 ∧ f.ext = true ∧ QueueReach s q a 8 true true f) →
       Updated q (fun old => if status = 0 then old - 1 else if status = 0x42 then p.abortv else 0 - BitVec.ofNat 64 status) v told t →
       exec (.packetComplete q) s = .next (t.closePacket q p))) ∧
    (∀ (die index : Nat), die < 2 → index < 2 ^ 13 → w < 2 ^ 64 →
      let handle := 2 ^ 13 * die + index
      let word := hbmEnd + 2 ^ 25 * die + 4096 * index
      (s.qStopped handle = false → s.qWidx handle < w → w ≤ s.qRidx handle + s.qSize handle →
        exec (.doorbellWrite word (leBytes 8 w)) s =
          .next ((s.wr (queueAddr s handle + 24) 8 w).putBytes word (leBytes 8 w))) ∧
      (¬(s.qWidx handle < w ∧ w ≤ s.qRidx handle + s.qSize handle) →
        exec (.doorbellWrite word (leBytes 8 w)) s = .next s))

/-! ## Steps without a word: what parts wait for (R47, R88, R133, R196, R203 to R205, R229, R274 to R284, R314, R394) -/

/-- A part, gang or workgroup of this number exists. -/
def HasPart (s : State) (n : Nat) : Prop := n ≠ 0 ∧ ∃ p ∈ s.allParts, p.id = n

def HasGang (s : State) (n : Nat) : Prop := ∃ g ∈ s.allGangs, g.id = n

/-- The last value that a result writes for a key, else the old one. -/
def lastWrite {α : Type} (ws : List (Nat × α)) (k : Nat) (old : α) : α := ((ws.reverse.find? fun w => w.1 == k).map (·.2)).getD old

end Sys2Proof

/-- A lane result lands (R47): registers, predicates and FFLAGS of its gang take it, and the part has it in flight no more. Parked
lanes replay from the earliest record's word once the driver has served every page (R203). A trap that waited for lane results is
delivered once they have landed (R205); a part of a saved workgroup does neither until it is restored (R197, R212). -/
def Obligations.ResultsLandAndFaultsReplay : Prop :=
  ∀ (s : State) (part index : Nat) (r : LaneResult) (t : TrapRec) (x : Spot), HasPart s part →
    let p := s.getPart part
    let g := s.getGang p.gang
    let u := s.takeUp part
    let rests : Prop := (s.getWg g.workgroup).state = .saved
    (p.inflight[index]? = some r → r.waits = 0 → r.poison = none → HasGang s p.gang → Living s g.workgroup →
      (s.getWg g.workgroup).id = g.workgroup → (s.getWg g.workgroup).state ≠ .evicted → SMap.wf 0 g.v = true →
      ∃ v : State, exec (.laneResultLand part index) s = .next v ∧
        v.allParts = s.allParts.map (fun x => if x.id = part then
          { x with inflight := dropAt x.inflight index, drain := x.drain && !(dropAt x.inflight index).isEmpty } else x) ∧
        (v.getGang p.gang).fflags = g.fflags ||| r.flags ∧
        (∀ k, SMap.get 0 (v.getGang p.gang).v k = lastWrite r.writes k (SMap.get 0 g.v k)) ∧
        (∀ (q l : Nat), q < 8 → l < 32 → ((v.getGang p.gang).q.getD q 0).getLsbD l = lastWrite r.preds (32 * q + l) ((g.q.getD q 0).getLsbD l)) ∧
        (∀ k, k ∈ (v.getGang p.gang).badV ↔ k ∈ g.badV ∧ ∀ e ∈ r.writes, e.1 ≠ k) ∧
        { v with me := s.me, parts := s.parts, gang := s.gang, gangs := s.gangs } = s) ∧
    (p.inflight[index]? = some r → r.waits ≠ 0 → exec (.laneResultLand part index) s = .next s) ∧
    (p.state = .faultParked → ¬rests → p.trap = none → (∀ x ∈ p.parked, x.pages = [] ∧ x.refused = []) →
      let recs := p.parked.filter fun x => decide (x.pc.toNat < p.pc.toNat)
      let q : Part := { p with parked := [], state := .ready }
      exec (.faultReplay part) s = .next { u with me := match recs with
        | x :: _ => { q with pc := x.pc, replay := some { stop := p.pc, recs := recs, held := none } }
        | [] => q }) ∧
    (p.state = .faultParked → rests ∨ (∃ x ∈ p.parked, x.pages ≠ []) → exec (.faultReplay part) s = .next s) ∧
    (p.state = .parked .trap → rests → exec (.trapDelivery part) s = .next s) ∧
    (p.state = .parked .trap → ¬rests → p.trap = some t → p.second = false → p.replay = none → t.pc = p.pc → CanEnter u t x →
      exec (.trapDelivery part) s = .next (entered u t x))

namespace Sys2Proof

/-- A walk that ends with a translation puts it into the TLB of every core and quadrant that waits for it, and one that ends with a
fault leaves the fault for them (R223, R229). A line that arrives is resident, and its slice serves the reads that waited (R314). A
released buffer reads zero (R394). The last acknowledgement lets ICINV go on (R133). -/
def Claims.WalksFillsAndAnswersArrive : Prop :=
  ∀ (s : State) (n m : Nat),
    (∀ w : Walk, s.walks.find? (fun x => x.sector == n) = some w →
      let s0 : State := { s with walks := s.walks.filter fun x => !(x.sector == w.sector && x.asid == w.asid && x.page == w.page) }
      -- what the walk leaves in the sector's walk cache, and what it finds
      let out := s0.sectorWalk n w.root w.asid (4096 * w.page)
      (∀ e, out.2 = .leaf e →
        ∃ t, exec (.pageWalk n) s = .next t ∧
          (∀ q ∈ w.quads, (t.getCore (q / 4)).tlb.head? = some e ∧ (q % 4, e) ∈ (t.getCore (q / 4)).qtlb) ∧
          (∀ c, (∀ q ∈ w.quads, q / 4 ≠ c) → t.getCore c = s.getCore c) ∧ { t with core := s.core, cores := s.cores } = out.1) ∧
      (∀ code aux, out.2 = .fault code aux →
        exec (.pageWalk n) s = .next { out.1 with
          walkFaults := s.walkFaults ++ (distinct (w.quads.map (· / 4))).map fun c =>
            { core := c, asid := w.asid, page := w.page, code := code, aux := aux } })) ∧
    (∀ (x : Miss) (r : Req) (dst res : Nat) (sx : Bool), s.misses.find? (fun y => y.slice == n && y.line == m) = some x →
      x.waiters = [r] → r.kind = .read dst sx res → r.acq = false → s.ways n ≠ 0 →
      (x.harvest = true → s.gMiss n = false) → s.reqFree r = true → HasPart s r.part →
      Living s (s.getGang (s.getPart r.part).gang).workgroup → s.ingress = [] → (∀ k ∈ s.allCores, k.l1 = []) →
      s.sectors = [] → isHbm r.addr = true → s.isPoisoned r.addr r.size = false → r.addr % 128 + r.size ≤ 128 →
      let p := s.getPart r.part
      let bytes := leNat (overlay (p.pending.filter fun y => decide (y.id < r.id)) r.addr (s.homeRead r.key r.addr r.size))
      ∃ t, exec (.missFill n m) s = .next t ∧ (∃ y ∈ t.resident, y.line = m) ∧ (∀ y ∈ t.misses, ¬(y.slice = n ∧ y.line = m)) ∧
        t.allParts = s.allParts.map (fun q => if q.id = r.part then
          { q with pending := q.pending.erase r, inflight := q.inflight.map fun y => if y.id = res then
            { y with writes := y.writes ++ landing dst r.size r.lane bytes sx, waits := y.waits - 1 } else y } else q) ∧ t.mem = s.mem) ∧
    (∀ z : Zeroing, s.zeroing[n]? = some z → memoryWf s = true → z.base + z.length ≤ 524288 → z.core < 192 →
      ∃ t, exec (.zeroingComplete n) s = .next t ∧ t.zeroing = dropAt s.zeroing n ∧ memoryWf t = true ∧
        ∀ key a, view t key a =
          (if spadAddr z.core z.base ≤ a ∧ a < spadAddr z.core z.base + z.length then 0 else view s key a)) ∧
    (∃ t, exec (.invalidationAcknowledged n m) s = .next t ∧
      t.allParts = s.allParts.map (fun p => if p.id = n then
        let rest := p.acks.filter (· != m)
        if p.state = .parked .icinv ∧ rest = [] then { p with acks := [], state := .ready, pc := p.pc + 8 } else { p with acks := rest }
        else p) ∧ { t with me := s.me, parts := s.parts } = s)

/-- ACQUIRE_GRANT gives the head request of its class, G before H, the full allotment when it fits (R88, R196): the gang its blocks,
and at the workgroup's first grant its tiles, scratchpad and banks; the gang's waiting parts go on. SERIAL_TOKEN_GRANT gives a free
token to the first waiter, G before H (R276). -/
def Claims.WaitersAreGranted : Prop :=
  ∀ (s : State) (n : Nat),
    (∀ a : AcqReq, ((s.getCore n).acquires.find? (fun x => !x.harvest) = some a ∨
        ((∀ x ∈ (s.getCore n).acquires, x.harvest = true) ∧ s.gWaits n = false ∧ (s.getCore n).acquires.head? = some a)) →
      let g := s.getGang a.gang
      let w := s.getWg g.workgroup
      let c := s.getCtx w.context
      (s.fits n (s.acquireWant g) everyone = false → exec (.acquireGrant n) s = .next s) ∧
      (s.fits n (s.acquireWant g) everyone = true → w.core = n →
        ∃ (t : State) (base : Nat) (banks : BitVec 2), exec (.acquireGrant n) s = .next t ∧
          t.allGangs = s.allGangs.map (fun x => if x.id = a.gang then { x with vblk := max x.vblk c.vfull, full := true } else x) ∧
          t.allWgs = s.allWgs.map (fun x => if x.id = w.id ∧ w.granted = false then
            { x with granted := true, scr := c.scr, sbase := base, ntiles := c.tiles, cim := banks, tiles := [], banks := [] } else x) ∧
          (∀ x ∈ (t.getCore n).acquires, x.gang ≠ a.gang) ∧
          t.allParts = s.allParts.map (fun p => if p.gang = a.gang ∧ p.state = .parked .acquire
            then { p with state := .ready, pc := p.pc + 8 } else p) ∧
          { t with me := s.me, parts := s.parts, gang := s.gang, gangs := s.gangs, wg := s.wg, wgs := s.wgs,
                   core := s.core, cores := s.cores } = s)) ∧
    (∀ (h : Hedge) (w : Bool × Nat), s.hedge? n = some h → h.token = none →
      (h.waiters.find? (fun x => !x.1) = some w ∨ ((∀ x ∈ h.waiters, x.1 = true) ∧ h.waiters.head? = some w)) →
      ∃ t, exec (.serialTokenGrant n) s = .next t ∧
        t.hedges = s.hedges.map (fun x => if x.n = n then
          { x with token := some w.2, waiters := x.waiters.filter fun y => y.2 != w.2 } else x) ∧
        t.allParts = s.allParts.map (fun p => if p.id = w.2 then { p with state := .ready, serial := true } else p) ∧
        { t with me := s.me, parts := s.parts, hedges := s.hedges } = s) ∧
    (∀ h : Hedge, s.hedge? n = some h → h.token ≠ none → exec (.serialTokenGrant n) s = .next s)

/-- A notice that reaches a core wakes the parts that sleep on its line there, and dooms the open attempts that read the line, but
for one that runs under the serial token (R274, R276, R279); a woken part restarts at its outermost attempt with XSTAT 7. A sleeper
whose line has not changed is registered, and one whose line has changed wakes (R278). A polled wait polls again (R145). A context in
which every part waits for itself ends with status 0x40 (R283, R284). -/
def Claims.NoticesAndTimersWake : Prop :=
  ∀ (s : State) (n i : Nat),
    (∀ core line, s.notices[i]? = some (core, line) →
      ∃ t, exec (.notice i) s = .next t ∧ t.notices = dropAt s.notices i ∧ { t with me := s.me, parts := s.parts, notices := s.notices } = s ∧
        t.allParts.length = s.allParts.length ∧
        ∀ (k : Nat) (p : Part), s.allParts[k]? = some p →
          let w := s.getWg (s.getGang p.gang).workgroup
          (w.state = .running → w.core = core → p.state = .asleep → (∃ x, p.sleep = some x ∧ ∃ r ∈ x.lines, r.line = line) →
            t.allParts[k]? = some p.wake) ∧
          (w.state = .running → w.core = core → p.state ≠ .asleep → p.serial = false → (∃ r ∈ p.readLines, r.line = line) →
            t.allParts[k]? = some { p with doomed := true }) ∧
          (w.state ≠ .running ∨ (p.state ≠ .asleep ∧ (w.core ≠ core ∨ p.serial = true ∨ ∀ r ∈ p.readLines, r.line ≠ line)) →
            t.allParts[k]? = some p)) ∧
    (∀ (x : Sleep) (r : ReadLine), HasPart s n →
      let p := s.getPart n
      let w := s.getWg (s.getGang p.gang).workgroup
      p.state = .asleep → p.sleep = some x → x.unanswered[i]? = some r → w.state = .running →
      let u := s.watchLine (s.getCtx w.context).hedge w.core r.line
      ∃ t, exec (.registerAnswer n i) s = .next t ∧ t.versions = u.versions ∧
        t.allParts = u.allParts.map (fun q => if q.id = n then
          (if u.versionOf r.line = r.version then { q with sleep := some { x with unanswered := dropAt x.unanswered i } } else q.wake)
          else q)) ∧
    (∃ t, exec (.pollInterval n) s = .next t ∧ { t with me := s.me, parts := s.parts } = s ∧
      t.allParts = s.allParts.map (fun p => if p.id = n ∧ p.state = .polling then { p with state := .ready } else p)) ∧
    (let c := s.getCtx n
     (c.live = true → s.deadlocked n = true → c.id = n → n ≠ 0 → ∃ t, exec (.watchdogExpiry n) s = .next t ∧
       (t.getCtx n).live = false ∧
       (c.report = none → (t.getCtx n).report = some { status := 0x40, aux := 0, pc := 0, slot := 0 }) ∧
       (c.report ≠ none → (t.getCtx n).report = c.report)) ∧
     (c.live = false ∨ s.deadlocked n = false → exec (.watchdogExpiry n) s = .next s))

/-! ## Copies and messages (R158 to R162, R316, R317) -/

/-- Index k of element e (R158): i0 runs fastest. -/
def elementIndex (exts : List Nat) (e k : Nat) : Nat := e / (exts.take k).foldl (· * ·) 1 % exts.getD k 1

/-- The address of element e on one side of a copy (R158); addresses wrap at 2^64. -/
def elementAddress (base esz : Nat) (exts : List Nat) (strides : List Int) (e : Nat) (gathered : Option Nat := none) : Nat :=
  -- index k of element e; a gather takes index 1 from its list
  let index (k : Nat) : Nat := if k = 1 then gathered.getD (elementIndex exts e 1) else elementIndex exts e k
  let sum : Int := (List.range (exts.length - 1)).foldl (fun a k => a + (index (k + 1) : Int) * strides.getD k 0) 0
  (((base : Int) + (index 0 * 2 ^ esz : Nat) + sum) % 2 ^ 64).toNat

/-- The source address of the copy's next element, with what of it leaves for a peer before the element itself: a gather reads index 1,
32 bits wide, from its list (R158). -/
def ElementSource (s : State) (j : CopyJob) (va : Nat) (told : State → State) : Prop :=
  let from_ (g : Option Nat) : Nat := elementAddress j.src j.esz j.exts j.sstr j.next g
  if j.gather = true then
    ∃ a key e, s.copySpot j 4 ((j.idxa + 4 * elementIndex j.exts j.next 1) % 2 ^ 64) 4 true false = .spot a key e ∧
      s.copyFree j a 4 false = true ∧ va = from_ (some (leNat (s.homeRead key a 4))) ∧
      told = fun u => u.sendPeer a j.harvest (entryCritical e)
  else va = from_ none ∧ told = id

/-- The copy is under way, and its stile, in a scratchpad, is free for it (R256, R276). -/
def CopyGoes (s : State) (j : CopyJob) : Prop :=
  s.copies.find? (fun x => x.id == j.id) = some j ∧ j.landed = false ∧ j.failed = none ∧ j.next < elements j.exts ∧ j.exts ≠ [] ∧
  ∀ c, j.stile = some c → isSpad c = true ∧ c % 128 + 16 ≤ 128 ∧ s.heldByOther 0 c 16 true = none ∧ s.ownedUnit j.id c 16 = false

/-- The stile at a place. -/
def stileNow (s : State) (c : Nat) : Stile := stileOf (leNat (s.homeRead 0 c 16))

/-- The copy is over: it goes with all that it owns, and a queue's packet ends with it (R159, R160, R353). -/
def copyOver (s : State) (j : CopyJob) (status aux : Nat) : State :=
  let u : State := { s with
    copies := s.copies.filter fun x => x.id != j.id
    owned := s.owned.filter fun x => x.1 != j.id
    ownedTiles := s.ownedTiles.filter fun x => x.1 != j.id }
  match j.owner with
  | .gang .. => u
  | .queue q seq =>
    let x := u.getQueue q
    u.setQueue { x with packets := x.packets.map fun p =>
      if p.seq = seq ∧ p.ended = none then { p with ended := some (status, aux) } else p }

/-- The workgroup of a gang's copy lives on. -/
def OwnerLives (s : State) (j : CopyJob) : Prop := ∀ part gang w core, j.owner = .gang part gang w core → Living s w

/-- The next element of a copy meets PROT, PEER_GONE or POISON, a code that leaves the state v: at its index, at its source, by its
poisoned bytes, or at its destination in memory (R160). -/
def ElementFaults (s : State) (j : CopyJob) (v : State) (code : Nat) : Prop :=
  let n := 2 ^ j.esz
  (j.gather = true ∧ ∃ aux,
    s.copySpot j 4 ((j.idxa + 4 * elementIndex j.exts j.next 1) % 2 ^ 64) 4 true false = .bad v code aux) ∨
  ∃ va told, ElementSource s j va told ∧
    ((∃ aux, s.copySpot j j.ssp va n true false = .bad v code aux) ∨
      ∃ a key e, s.copySpot j j.ssp va n true false = .spot a key e ∧ s.copyFree j a n false = true ∧
        ((s.isPoisoned a n = true ∧ v = s ∧ code = 11) ∨
          (s.isPoisoned a n = false ∧ j.dsp ≠ 5 ∧ ∃ aux,
            s.copySpot j j.dsp (elementAddress j.dst j.esz j.exts j.dstr j.next) n false true = .bad v code aux)))

/-- An element of a tensor copy lands (R158, R159), its source gathered or not. In memory its bytes stand at the destination and every
other byte reads as before; in a tile they stand in its data with the segment's scale code, and the tile takes the format of the pages.
Where a stile is named its PENDING goes down by the bytes. The copy goes on with the next element, and after the last it goes, with its
ownership, once it has added 1 to its completion word where it has one. -/
def Claims.CopyElementsLand : Prop :=
  ∀ (s : State) (j : CopyJob) (va : Nat) (told : State → State) (a b key key' : Nat) (e e' : Option TlbEntry), memoryWf s = true →
    let n : Nat := 2 ^ j.esz
    let onward : CopyJob := { j with next := j.next + 1, landed := decide (elements j.exts ≤ j.next + 1) }
    let counted (t : State) : Prop := ∀ c, j.stile = some c → stileNow t c = stileExpected (stileNow s c) (-(n : Int))
    (CopyGoes s j → ElementSource s j va told → s.copySpot j j.ssp va n true false = .spot a key e → s.copyFree j a n false = true →
      s.isPoisoned a n = false →
      (let d := elementAddress j.dst j.esz j.exts j.dstr j.next
       j.dsp ≠ 5 → s.copySpot j j.dsp d n false true = .spot b key' e' → s.copyFree j b n true = true → (isHbm b = true → 0 < key') →
       isDoorbell b = false → (isHbm b = true → b + n ≤ hbmEnd ∧ ∀ x ∈ s.sectors, x.2.line ≠ b / 128) → b % 128 + n ≤ 128 →
       (∀ c, j.stile = some c → b + n ≤ c ∨ c + 16 ≤ b) →
       ∃ t, exec (.copyElementLand j.id) s = .next t ∧ memoryWf t = true ∧
         (∀ x, (∀ c, j.stile = some c → x < c ∨ c + 16 ≤ x) →
           view t key' x = overwrite (view s key') b n (leNat (s.homeRead key a n)) x) ∧ counted t ∧
         t.copies = s.copies.map (fun x => if x.id = j.id then onward else x) ∧ t.me = s.me ∧ t.gang = s.gang) ∧
      (∀ f : TlbEntry, j.dsp = 5 → e = some f → j.workgroup ≠ 0 → (∃ x ∈ s.allWgs, x.id = j.workgroup) →
       let w := s.getWg j.workgroup
       let k := j.dst / 2 ^ 16 % 16
       let d := elementAddress (j.dst % 2 ^ 14) j.esz j.exts j.dstr j.next
       let code := if f.blk = 0 then 0x7F else s.readByte key (f.scaleAddr va)
       (∀ x ∈ s.ownedTiles, x.1 < j.id → x.2 ≠ 16 * j.workgroup + k) →
       -- every element of the copy has the format of the first, and every element of a segment its block
       (j.fmt = none ∨ j.fmt = some (f.fmt, f.blk)) → (f.blk = 0 ∨ 256 ≤ blkElems f.blk * fmtBits f.fmt) →
       (f.blk = 0 ∨ ∀ p, lookupKey j.segs (d / 32) = some p → p = f.scaleAddr va) →
       (f.blk ≠ 0 → s.isPoisoned (f.scaleAddr va) 1 = false) →
       SMap.wf {} w.tiles = true → SMap.wf 0 (w.tile k).data = true → SMap.wf 0 (w.tile k).side = true →
       ∃ t, exec (.copyElementLand j.id) s = .next t ∧ counted t ∧
         (let x := (t.getWg j.workgroup).tile k
          (∀ i, SMap.get 0 x.data i = if d ≤ i ∧ i < d + n then (s.homeRead key a n).getD (i - d) 0 else SMap.get 0 (w.tile k).data i) ∧
          (∀ i, SMap.get 0 x.side i = if i = d / 32 then code else SMap.get 0 (w.tile k).side i) ∧
          x.fmt.toNat = f.fmt % 16 ∧ x.blk.toNat = f.blk % 4 ∧ x.acc = false ∧ x.valid = true) ∧
         (∀ i, i ≠ k → (t.getWg j.workgroup).tile i = w.tile i) ∧
         (∃ z ∈ t.copies, z.id = j.id ∧ z.next = onward.next ∧ z.landed = onward.landed ∧ z.fmt = some (f.fmt, f.blk)) ∧
         t.parts = s.parts ∧ t.gangs = s.gangs)) ∧
    (∀ v code, CopyGoes s j → ElementFaults s j v code → memoryWf v = true → j.done = none → OwnerLives v j →
      ∃ t, exec (.copyElementLand j.id) s = .next t ∧
        (∀ c, j.stile = some c → stileNow t c =
          let x := stileNow v c
          if x.poison then x else { x with poison := true, cause := if x.cause = 0 then 3 else x.cause }) ∧
        (j.stile = none → t = copyOver v j 0x46 code) ∧ t.copies = v.copies.filter fun x => x.id != j.id) ∧
    (∀ add status aux, s.copies.find? (fun x => x.id == j.id) = some j →
      (j.landed = true ∧ add = 1 ∧ status = 0 ∧ aux = 0) ∨
        (j.landed = false ∧ j.failed = some aux ∧ add = 0x8000000000000001 ∧ status = 0x46) →
      (j.done = none → OwnerLives s j → exec (.copyElementLand j.id) s = .next (copyOver s j status aux)) ∧
      (∀ spad z, j.done = some (spad, z) → s.copySpot j (if spad then 1 else 4) z 8 true true = .spot a key e →
        s.homeHeld j.id a 8 true = false →
        -- what was released to the word more narrowly comes first
        let v := s.promoteAt a 8
        let u := v.engineWrite key a (leBytes 8 (BitVec.ofNat 64 (leNat (v.homeRead key a 8) + add)).toNat) (entryCritical e) j.harvest
        OwnerLives u j → exec (.copyElementLand j.id) s = .next (copyOver u j status aux)))

/-- A message is accepted where its launch runs a workgroup on the target core and the mailbox has room, else refused; the sender's
predicate says which (R161, R316). The oldest accepted message starts its handler gang: one slice, one register block, g3 the sender,
g8 to g15 the payload, the PC at the handler (R162, R317). -/
def Claims.MessagesReachTheirHandlers : Prop :=
  ∀ (s : State) (i : Nat) (m : Msg),
    (s.messages[i]? = some m → (∀ x ∈ s.messages.take i, ¬(x.src = m.src ∧ x.dst = m.dst)) →
      let here (w : Workgroup) : Bool := w.context == m.context && w.core == m.dst && w.state == .running
      let target := if (s.getCore m.dst).mailbox.length < 64 then s.allWgs.find? here else none
      ∃ t, exec (.messageAccept i) s = .next t ∧ t.messages = dropAt s.messages i ∧
        (t.getCore m.dst).mailbox = (s.getCore m.dst).mailbox ++
          (match target with | some w => [{ m with workgroup := w.id }] | none => []) ∧
        t.allParts = s.allParts.map (fun p => if p.id = m.part then
          { p with inflight := p.inflight.map fun x => if x.id = m.res
              then { x with preds := x.preds.map fun e => (e.1, target.isSome), waits := 0 } else x } else p) ∧
        { t with me := s.me, parts := s.parts, core := s.core, cores := s.cores, messages := s.messages } = s) ∧
    (∀ rest q, (s.getCore i).mailbox = m :: rest →
      let w := s.getWg m.workgroup
      let c := s.getCtx w.context
      (w.state = .saved → exec (.handlerAdmit i) s = .next s) ∧
      (w.state ≠ .running → w.state ≠ .saved →
        ∃ t, exec (.handlerAdmit i) s = .next t ∧ (t.getCore i).mailbox = rest ∧ t.parts = s.parts) ∧
      (w.state = .running → m.harvest = false ∨ s.gWaits i = false → s.handlerQuad c w = none →
        exec (.handlerAdmit i) s = .next s) ∧
      (w.state = .running → m.harvest = false ∨ s.gWaits i = false → s.handlerQuad c w = some q → m.payload.length = 8 →
        ∃ t g p, exec (.handlerAdmit i) s = .next t ∧ (t.getCore i).mailbox = rest ∧ t.gangs = s.gangs ++ [g] ∧
          t.parts = s.parts ++ [p] ∧ g.workgroup = m.workgroup ∧ g.handler = true ∧ g.quad = q ∧ g.vblk = 1 ∧ g.started = 1 ∧
          p.gang = g.id ∧ p.pc = m.handler ∧ p.slices = 1 ∧ p.state = .ready ∧ p.levels = [] ∧ p.stack = [] ∧
          p.g.getD 1 0 = c.arg ∧ p.g.getD 2 0 = c.shapeReg ∧ p.g.getD 3 0 = BitVec.ofNat 64 m.srcId ∧
          (∀ k, k < 8 → p.g.getD (8 + k) 0 = m.payload.getD k 0) ∧
          (∀ k, k = 0 ∨ 4 ≤ k ∧ k < 8 ∨ 16 ≤ k ∧ k < 64 → p.g.getD k 0 = 0)))

/-! ## Harvest and paddocks (R192 to R195, R328 to R333, R361 to R363) -/

/-- Bytes go to their places in a space piece by piece, each piece behind a page that can be written now, which leads from s to t. -/
def StoredAt (x : Space) (s : State) (pieces : List (Nat × Nat)) (bs : List Byte) (t : State) : Prop :=
  match pieces with
  | [] => t = s
  | (va, n) :: rest => ∃ e, s.engineSpot x va n false true = .got e ∧
    StoredAt x (s.spaceWrite x e va (bs.take n)) rest (bs.drop n) t

/-- Pieces of a space, each behind a page that can be read now, hold these bytes together, and reading them leads from s to t. -/
def FetchedAt (x : Space) (s : State) (pieces : List (Nat × Nat)) (bs : List Byte) (t : State) : Prop :=
  match pieces with
  | [] => bs = [] ∧ t = s
  | (va, n) :: rest => ∃ e b more, s.engineSpot x va n true false = .got e ∧ b = (s.spaceRead x e va n).2 ∧ bs = b ++ more ∧
    FetchedAt x (s.spaceRead x e va n).1 rest more t

/-- The place and the bytes of a piece of a bale (R329, R334): the scratchpad, a gang's record, or a register block. -/
def pieceOf (s : State) (w : Workgroup) (e : Nat × Option Nat) : Nat × List Byte :=
  let c := s.getCtx w.context
  let g := s.getGang e.1
  let first := 512 * c.ngang + c.baleArea.toNat + 524288 * w.pidx
  let before (p : Gang → Bool) : Nat := 4096 * ((s.launchGangs w.id).filter p).foldl (fun a x => a + x.vblk) 0
  match e with
  | (0, _) => (first + before (fun _ => true), s.homeRead 0 (spadAddr w.core w.sbase) w.scr)
  | (_, none) => (c.baleArea.toNat + 524288 * w.pidx + 512 * g.index, baleRecord c w g (s.partOfGang g.id) (g.index == 0))
  | (_, some b) => (first + before (fun x => x.index < g.index) + 4096 * b,
      (List.range 1024).flatMap fun i => leBytes 4 (SMap.get 0 g.v (1024 * b + i)).toNat)

/-- A core with an unmet G need evicts the H workgroup that started last (R328 to R330): its parts stop and lose what the bale does
not keep, its tiles and banks go, its sheaf numbers start again, and its bale is to be written. Each written piece leaves the order; a
bale that is complete joins its hedge's restart queue, and the head of the queue resumes on the first core with room (R333). -/
def Claims.HarvestWorkIsEvictedAndRestarts : Prop :=
  ∀ (s : State) (n : Nat),
    (s.unmet n = false → exec (.evictionOrder n) s = .next s) ∧
    (∀ w, s.unmet n = true → s.evictNext n = some w → w.state = .saved →
      ∃ t, exec (.evictionOrder n) s = .next t ∧
        t.allWgs = s.allWgs.map (fun x => if x.id = w.id then { x with ordered := true } else x) ∧
        { t with wg := s.wg, wgs := s.wgs } = s) ∧
    (∀ w, s.unmet n = true → s.evictNext n = some w → w.state ≠ .saved → (∀ p ∈ s.partsOfWg w.id, p.inflight = [] ∧ p.serial = false) →
      (s.allParts.map (·.id)).Nodup →
      ∃ t, exec (.evictionOrder n) s = .next t ∧
        (∀ x ∈ t.allWgs, x.id = w.id → x.state = .evicted ∧ x.tiles = [] ∧ x.banks = [] ∧ x.offer = none) ∧
        (∀ p ∈ t.partsOfWg w.id, p.state = .exited ∨ (p.state = .evicted ∧ p.levels = [] ∧ p.parked = [] ∧ p.trap = none ∧
          p.sleep = none ∧ p.serial = false ∧ p.recording = none ∧ p.got = [] ∧ (p.fending = false → p.deferred = []))) ∧
        (∀ g ∈ t.gangsOfWg w.id, g.shOpen = 0 ∧ g.shDone = 0 ∧ g.shNext = 1 ∧ g.sheaves = [] ∧ g.stores = []) ∧
        (∃ x ∈ t.spills, x.workgroup = w.id ∧ x.left = s.baleOrder w) ∧ (∀ j ∈ t.copies, j.workgroup ≠ w.id) ∧ t.mem = s.mem) ∧
    (∀ x e rest u, s.spills.find? (fun y => y.workgroup == n) = some x → x.left = e :: rest →
      (e = (0, none) → s.spadStores (s.getWg n) = false) →
      -- the piece goes to its place, which leaves u
      (let p := pieceOf s (s.getWg n) e
       let c := s.getCtx (s.getWg n).context
       StoredAt (c.space (coreDie (s.getWg n).core)) s (pagePieces p.1 p.2.length) p.2 u) →
      exec (.spillBlockWritten n) s = .next { u with
        spills := u.spills.map fun y => if y.workgroup = n then { y with left := rest } else y
        zeroing := if e = (0, none) then
          u.zeroing ++ [{ core := (s.getWg n).core, base := (s.getWg n).sbase, length := (s.getWg n).scr }] else u.zeroing }) ∧
    (∀ x, s.spills.find? (fun y => y.workgroup == n) = some x → x.left = [] →
      (∀ p ∈ s.partsOfWg n, p.fending = false ∧ p.inflight = [] ∧ p.pending = [] ∧ p.trap = none) →
      let w := s.getWg n
      let c := s.getCtx w.context
      let u := ({ s with spills := s.spills.filter fun y => y.workgroup != n } : State).release w.core 2
      exec (.baleComplete n) s = .next { u with hedges := u.hedges.map fun h => if h.n = c.hedge then
        { h with restarts := h.restarts ++ [{ workgroup := n, context := c.id
                                              address := BitVec.ofNat 64 (c.baleArea.toNat + 524288 * w.pidx) }] } else h }) ∧
    (∀ h b rest core rs bs s1 s2, s.hedge? n = some h → h.restarts = b :: rest →
      let w := s.getWg b.workgroup
      let c := s.getCtx w.context
      let x := c.space (coreDie w.core)
      let base := b.address.toNat
      let gs := baleGangs rs c.ngang 0 0
      let want := baleWant c w gs
      let blocks := 4096 * sumOf BaleGang.vblk gs
      -- the records are read, which leaves s1, and then the blocks and the scratchpad, which leaves s2
      FetchedAt x s (pagePieces base (512 * c.ngang)) rs s1 →
      FetchedAt x s1 (pagePieces (base + 512 * c.ngang) (blocks + want.scr)) bs s2 →
      (h.coreList.filter s1.coreEnabled).find? (fun k => !s1.gWaits k && s1.fits k want everyone) = some core →
      let u := s2.restoreBale w core want gs (bs.take blocks) (bs.drop blocks)
      exec (.baleRestart n) s = .next { u with hedges := u.hedges.map fun y => if y.n = n then
        { y with restarts := y.restarts.tail } else y })

/-- The slots of some workgroups are written one after the other (R363), which leads from s to t. -/
def SlotsWritten (c : Context) (s : State) (ws : List Workgroup) (t : State) : Prop :=
  match ws with
  | [] => t = s
  | w :: rest => ∃ u,
    (let ms := (s.getCore w.core).mailbox.filter fun m => m.workgroup == w.id
     StoredAt (c.space (coreDie w.core)) s ((s.slotParts c w ms).flatMap fun x => pagePieces x.1 x.2) (s.slotBytes c w ms) u) ∧
    SlotsWritten c u rest t

/-- The dispatcher of a die places the next paddock of the first launch that it can serve (R361): every member starts on its core of
the rectangle. A paddock whose save has been written frees its cores, and a saved paddock resumes on a rectangle (R362). -/
def Claims.PaddocksArePlacedSavedAndRestored : Prop :=
  ∀ (s : State) (n : Nat) (c : Context) (cores : List Nat) (floor : Nat),
    let order := (s.candidates n).foldl (fun a c => insertCtx c a) []
    (∀ q, Judged s q) →
    (order.find? (fun c => s.choose c (admitWants c) != .none) = some c → s.restoreFirst n c = false →
      s.choose c (admitWants c) = .on cores floor → c.id ≠ 0 → s.nextId ≠ 0 →
      -- a launch starts with its first paddock, and its ASID's entry is read then
      (∀ aux, c.placed = 0 → s.asidFault c.queue = some aux →
        ∃ t, exec (.paddockPlace n) s = .next t ∧ (∀ x ∈ t.allCtxs, x.id ≠ c.id) ∧
          ∀ p ∈ (t.getQueue c.queue).packets, p.seq = c.seq → p.ended = some (0x41, aux)) ∧
      (c.placed ≠ 0 ∨ s.asidFault c.queue = none →
      ∃ t, exec (.paddockPlace n) s = .next t ∧ t = s.placeOn c cores floor ∧
        (c.placed = 0 → ∀ x ∈ t.allCtxs, x.id = c.id →
          let e := s.readAsid c.asid
          x.root = e.root ∧ x.key = e.key ∧ x.codeKey = e.codeKey ∧ x.mask = BitVec.ofNat 9 e.mask) ∧
        (∀ x ∈ t.allCtxs, x.id = c.id → ∃ y ∈ s.allCtxs, y.id = c.id ∧ x.placed = y.placed + 1 ∧ x.claim = []) ∧
        ∀ (m k : Nat), cores[m]? = some k → ∃ w ∈ t.allWgs, w.context = c.id ∧ w.core = k ∧ w.pidx = c.placed ∧
          w.px = m % c.padW ∧ w.py = m / c.padW)) ∧
    (order.find? (fun c => s.choose c (admitWants c) != .none) = none → exec (.paddockPlace n) s = .next s) ∧
    (∀ v, s.saves[n]? = some v → s.outranked (s.getCtx v.context) = false → s.chooseSaved v = .on cores floor →
      exec (.paddockRestore n) s = .next (s.restoreOn v cores floor)) ∧
    (∀ v, s.saves[n]? = some v → s.outranked (s.getCtx v.context) = true → exec (.paddockRestore n) s = .next s) ∧
    (∀ v, s.saves[n]? = some v → s.chooseSaved v = .none → exec (.paddockRestore n) s = .next s) ∧
    (∀ (v : SavedPaddock) (u : State), s.saves[n]? = some v → v.done = false →
      let ws := s.savedWgs v
      s.saveReady ws = true → (∀ w ∈ ws, w.state = .saved) → SlotsWritten (s.getCtx v.context) s ws u →
      -- an eviction order that has waited for the save acts now (R31)
      ((∃ w ∈ ws, w.ordered = true) → ∃ t, exec (.preemptionSaveDone n) s = .next t ∧
        (∀ w ∈ ws, ∃ x ∈ t.spills, x.workgroup = w.id) ∧ ∀ x ∈ t.saves, ¬(x.context = v.context ∧ x.pidx = v.pidx)) ∧
      ((∀ w ∈ ws, w.ordered = false) → ∃ t, exec (.preemptionSaveDone n) s = .next t ∧
        t.saves.length = u.saves.length ∧ (∀ x ∈ t.saves, x.context = v.context → x.pidx = v.pidx → x.done = true) ∧
        (∀ g ∈ t.allGangs, (∃ w ∈ ws, w.id = g.workgroup) → g.v = []) ∧
        ∀ w ∈ ws, w.scr ≠ 0 → ∃ z ∈ t.zeroing, z.core = w.core ∧ z.base = w.sbase ∧ z.length = w.scr))

/-! ## Page faults that the driver serves (R232, R233) -/

/-- A notification that is not posted yet goes into its hedge's fault ring when there is room (R232), and a response of the driver serves
the page (R233): translations may be asked for again, and parked lanes have it answered. -/
def Claims.PageFaultsAreNotifiedAndServed : Prop :=
  ∀ (s : State) (i hedge : Nat),
    (∀ x, s.notifications[i]? = some x →
      let h := s.lastRead x.hedge
      let w := s.rd h.fring 8
      let full : Prop := h.fring = 0 ∨ h.frsize ≤ w - s.rd (h.fring + 8) 8
      (x.posted = true ∨ full → exec (.faultNotification i) s = .next s) ∧
      (x.posted = false → ¬full →
        let bytes := leBytes 8 (4096 * x.page) ++ leBytes 2 x.asid ++ leBytes 1 x.aux ++ leBytes 1 x.acc ++
          leBytes 2 (min 0xFFFF x.cores.length) ++ leBytes 2 0
        let u := (s.homeWriteAll (s.keyTag 0) (h.fring + 64 + 16 * (w % h.frsize)) bytes).wr h.fring 8 (w + 1)
        exec (.faultNotification i) s = .next { u with
          notifications := u.notifications.zipIdx.map fun y => if y.2 = i then { y.1 with posted := true } else y.1 })) ∧
    (let h := s.lastRead hedge
     let r := s.rd h.fresp 8
     let a := h.fresp + 64 + 16 * (r % h.frrsize)
     -- the entry, read with acquire
     let v := s.engineAcquire (s.keyTag 0) a 16
     let page := leNat (v.2.take 8) / 4096 % 2 ^ 45
     let asid := leNat ((v.2.drop 8).take 2)
     let ruling := leNat ((v.2.drop 10).take 1)
     let u := v.1.wr h.fresp 8 (r + 1)
     let answered (x : Notification) : Prop := x.asid = asid ∧ x.page = page ∧ x.posted = true ∧ x.hedge = hedge
     (h.fresp = 0 ∨ s.rd (h.fresp + 8) 8 ≤ r → exec (.faultResponse hedge) s = .next s) ∧
     (h.fresp ≠ 0 → r < s.rd (h.fresp + 8) 8 → ruling = 0 → leNat ((v.2.drop 11).take 5) = 0 → (∃ x ∈ u.notifications, answered x) →
       ∃ t, exec (.faultResponse hedge) s = .next t ∧ t.mem = u.mem ∧ (∀ x ∈ t.notifications, ¬answered x) ∧
         ∀ x ∈ u.notifications, answered x →
           (∀ y ∈ t.walkFaults, ¬(y.asid = asid ∧ y.page = page ∧ coreDie y.core = x.die ∧ y.aux = x.aux)) ∧
           (∀ y ∈ t.engineWaits, ¬(y.asid = asid ∧ y.page = page ∧ y.die = x.die ∧ y.aux = x.aux)) ∧
           (∀ p ∈ t.allParts, (u.getCtx (u.ctxOfPart p)).asid = asid → coreDie (u.coreOfPart p) = x.die →
             ∀ y ∈ p.parked, (page, x.aux) ∉ y.pages)) ∧
     (h.fresp ≠ 0 → r < s.rd (h.fresp + 8) 8 → 1 < ruling ∨ leNat ((v.2.drop 11).take 5) ≠ 0 ∨ (∀ x ∈ u.notifications, ¬answered x) →
       exec (.faultResponse hedge) s = .next u))

/-! ## The fabric and the host (R371 to R382) -/

/-- The device with one more answer to send. -/
def answered (s : State) (r : Reply) : State := { s with outbox := s.outbox ++ [r] }

/-- Bytes may be written at a place: within memory, with no bytes waiting in copies, and at no doorbell. -/
def Writable (s : State) (a n : Nat) : Prop :=
  isDoorbell a = false ∧ (isHbm a = true → a + n ≤ hbmEnd) ∧ s.sectors = [] ∧ CleanCopies s ∧ memoryWf s = true

/-- A peer's request is well formed and no close query, its window lies at x, and nothing holds it back there. -/
def Fits (s : State) (r : PeerReq) (x : Spot) : Prop :=
  requestOk r = true ∧ (∀ p, r.op ≠ .close p) ∧
  s.exportPlace (requestAsker r) r.device r.asid r.offset (requestReads r) (requestWrites r) = .spot x ∧
  s.homeHeld 0 x.ua r.size (requestWrites r) = false ∧ s.isPoisoned x.ua r.size = false ∧ isPeer x.ua = false ∧
  Writable s x.ua r.size ∧ (isHbm x.ua = true → 0 < x.key) ∧ x.ua % 128 + r.size ≤ 128

/-- Its turn has come: no earlier request of its device waits for the line, and no G request that could go waits at its port (R325, R372,
R374). -/
def Foremost (s : State) (r : PeerReq) : Prop := State.lineQueued s.fabric r = false ∧ s.portFirst r = false

/-- It comes on a plane that is open for its line: the line's own, or another once the line's own is closed (R376). -/
def OnOpenPlane (s : State) (r : PeerReq) : Prop :=
  (r.plane = r.offset / 128 % 8 ↔ (r.device, r.offset / 128 % 8) ∉ s.closed)

/-- The device has applied one more of the peer's requests on a plane; the count is of 16 bits (R376). -/
def CountedUp (s t : State) (r : PeerReq) : Prop :=
  SMap.wf 0 s.applied = true → ∀ k, SMap.get 0 t.applied k =
    if k = 8 * r.device + r.plane then (SMap.get 0 s.applied k + 1) % 2 ^ 16 else SMap.get 0 s.applied k

/-- A peer's request in its window is performed at its home, and the answer, of its class, leaves on the plane on which it came (R371,
R372, R374, R379); outside a window or its rights it is answered with the fault, and each is counted on its plane (R376). One whose page
faults stalls, with a notice, behind an earlier one of its line too (R371), and one on a closed plane is dropped; a close query is
answered with the count (R376). A critical request is served in the order of its numbers, once, and answered on both planes (R378). A
stalled request is looked at again at each notice, and served when its page has come: when it is looked at is the model's choice
(log 29). -/
def Claims.PeerRequestsAreServed : Prop :=
  ∀ (s : State) (r : PeerReq) (x : Spot) (i n : Nat),
    let plane := r.offset / 128 % 8
    let old := leNat (s.homeRead x.key x.ua r.size)
    -- what the request writes and answers
    let result : Option Nat × List Byte := match r.op with
      | .read => (none, leBytes r.size old)
      | .write => (some (leNat r.data), [])
      | .atomic mop u => (some (atomResult mop.toNat (8 * r.size) u old (leNat r.data) (leNat r.data2)), leBytes r.size old)
      | .close _ => (none, [])
    let memory (t : State) : Prop := ∀ a, view t x.key a = (match result.1 with
      | none => view s x.key a
      | some v => overwrite (view s x.key) x.ua r.size v a)
    let answers (critical : Bool) : List Reply := (s.answerPlanes r critical).map fun p => .peer r.device p r.harvest result.2
    s.answerPlanes r false = [r.plane] ∧
    ((∀ d ∈ s.dead, d.peer ≠ r.device) → s.answerPlanes r true = [plane, plane ^^^ 4]) ∧
    (∀ k, s.dead = [{ peer := r.device, plane := plane, remap := some k }] → s.answerPlanes r true = [plane ^^^ 4]) ∧
    (Fits s r x → Foremost s r → OnOpenPlane s r → ∃ t, exec (.fabricRequest r) s = .next t ∧ memory t ∧ t.me = s.me ∧
      t.fabric = s.fabric ∧ CountedUp s t r ∧ t.outbox = s.outbox ++ answers false) ∧
    (∀ c a, requestOk r = true → (∀ p, r.op ≠ .close p) → Foremost s r → OnOpenPlane s r →
      s.exportPlace (requestAsker r) r.device r.asid r.offset (requestReads r) (requestWrites r) = .fault c a →
      ∃ t, exec (.fabricRequest r) s = .next t ∧ CountedUp s t r ∧
        t.outbox = s.outbox ++ [.peerFault r.device r.plane r.harvest c a] ∧
        { t with outbox := s.outbox, refusals := s.refusals, applied := s.applied } = s) ∧
    (∀ h asid page aux, requestOk r = true → (∀ p, r.op ≠ .close p) → OnOpenPlane s r →
      s.exportPlace (requestAsker r) r.device r.asid r.offset (requestReads r) (requestWrites r) = .hold →
      s.exportMiss r.device r.asid r.offset = some (h, asid, page, aux) →
      ∃ t, exec (.fabricRequest r) s = .next t ∧ t.outbox = s.outbox ++ [.stall r.device r.plane r.harvest] ∧
        t.fabric = s.fabric ++ [{ req := r, critical := false, notices := 1 }] ∧
        { t with outbox := s.outbox, fabric := s.fabric, notifications := s.notifications, engineWaits := s.engineWaits } = s) ∧
    (requestOk r = false → exec (.fabricRequest r) s = .next s) ∧
    ((∀ p, r.op ≠ .close p) → ¬OnOpenPlane s r → exec (.fabricRequest r) s = .next s) ∧
    (∀ p, requestOk r = true → r.op = .close p → (r.device, r.plane) ∉ s.closed →
      exec (.fabricRequest r) s = .next { s with
        closed := s.closed ++ [(r.device, p)]
        outbox := s.outbox ++ [.closed r.device p r.plane (SMap.get 0 s.applied (8 * r.device + p))] }) ∧
    (let due := SMap.get 0 s.critical r.device
     requestOk r = true → n < 8 → s.criticalHeld = [] → due < 2 ^ 32 →
     (Fits s r x → Foremost s r → (∀ f ∈ s.fabric, f.req.device ≠ r.device) → SMap.wf 0 s.critical = true →
       ∃ t, exec (.criticalRequest n due r) s = .next t ∧ memory t ∧ t.criticalHeld = [] ∧
         SMap.get 0 t.critical r.device = (due + 1) % 2 ^ 32 ∧
         t.outbox = s.outbox ++ answers true) ∧
     (∀ k, 1 ≤ k → k < 1024 → exec (.criticalRequest n ((due + k) % 2 ^ 32) r) s =
       .next { s with criticalHeld := [((due + k) % 2 ^ 32, r)] })) ∧
    (∀ f : FabricReq, s.fabric[i]? = some f → f.req = r → s.criticalHeld = [] →
      (Fits s r x → State.lineQueued (s.fabric.take i) r = false → s.portFirst r = false →
        ∃ t, exec (.stallNotice i) s = .next t ∧ memory t ∧ t.fabric = dropAt s.fabric i ∧
          t.outbox = s.outbox ++ answers f.critical) ∧
      (∀ h asid page aux,
        s.exportPlace (requestAsker r) r.device r.asid r.offset (requestReads r) (requestWrites r) = .hold →
        s.exportMiss r.device r.asid r.offset = some (h, asid, page, aux) →
        ∃ t, exec (.stallNotice i) s = .next t ∧
          t.outbox = s.outbox ++ (s.answerPlanes r f.critical).map (fun p => .stall r.device p r.harvest) ∧
          t.fabric = s.fabric.zipIdx.map fun y => if y.2 = i then { y.1 with notices := y.1.notices + 1 } else y.1))

/-- Ports and planes (R375, R376), connections (R381), and the droveway (R307, R309): a port counts its replays and its retrainings
to 8, 4 or 2 lanes, and is up once it has trained (the model's reading, log 42); a plane that dies or lives again is closed with a query
on the plane that takes its traffic (R376); every dead plane of a peer has a live one that carries its traffic while one stands, and a lane whose atomic the peer
had applied before its answer was lost takes PEER_GONE with AUX 3 (R377; which answers are lost is free, log 7); after a failed connection later accesses take PEER_GONE with AUX 4; droves only turn, at most 8 in a step, and the side that loses them keeps its floor. -/
def Claims.PortsPlanesAndDroves : Prop :=
  ∀ (s : State) (p q : Nat),
    (p < 8 → ∃ t, exec (.flitCrcFail p) s = .next t ∧ { t with ports := s.ports } = s ∧
      t.ports.getD p {} = { s.ports.getD p {} with replays := (s.ports.getD p {}).replays + 1 }) ∧
    (p < 8 → q = 8 ∨ q = 4 ∨ q = 2 → ∃ t, exec (.linkRetrain p q) s = .next t ∧ { t with ports := s.ports } = s ∧
      t.ports.getD p {} = { s.ports.getD p {} with lanes := q, up := true, retrains := (s.ports.getD p {}).retrains + 1 }) ∧
    (p < 8 → ∃ t, exec (.linkDown p) s = .next t ∧ { t with ports := s.ports } = s ∧
      t.ports.getD p {} = { s.ports.getD p {} with up := false }) ∧
    (p < 1024 → q < 8 → (∀ d ∈ s.dead, d.plane < 8) → (∀ d ∈ s.dead, ¬(d.peer = p ∧ d.plane = q)) →
      (∀ r ∈ s.onPlane p q (fun _ => true), r.isAtomic = true → Config.atomicApplied s.tick r.id = false) →
      ∃ t, exec (.planeDead p q) s = .next t ∧ { t with dead := s.dead, outbox := s.outbox } = s ∧
        (∃ d ∈ t.dead, d.peer = p ∧ d.plane = q) ∧
        (∀ d ∈ t.dead, d.peer = p → d.plane = q → t.outbox = s.outbox ++ match d.remap with
          | some k => [.close p q k]
          | none => []) ∧
        ∀ d ∈ t.dead, d.peer = p → (∃ k, k < 8 ∧ ∀ x ∈ t.dead, ¬(x.peer = p ∧ x.plane = k)) →
          ∃ k, d.remap = some k ∧ ∀ x ∈ t.dead, ¬(x.peer = p ∧ x.plane = k)) ∧
    (∀ (r : Req) (mop : Nat) (u : Bool) (dst res : Nat), p < 1024 → q < 8 → (∀ d ∈ s.dead, ¬(d.peer = p ∧ d.plane = q)) →
      s.onPlane p q (fun _ => true) = [r] → r.kind = .atomic mop u (some dst) res → Config.atomicApplied s.tick r.id = true → HasPart s r.part →
      Living s (s.getGang (s.getPart r.part).gang).workgroup → (∀ y ∈ (s.getPart r.part).inflight, y.poison = none) →
      ∃ t, exec (.planeDead p q) s = .next t ∧ (∃ d ∈ t.dead, d.peer = p ∧ d.plane = q) ∧
        (t.getPart r.part).pending = (s.getPart r.part).pending.erase r ∧
        ∀ y ∈ (t.getPart r.part).inflight, y.id = res → y.poison = some (r.poison 10 3)) ∧
    (∀ old : Option DeadPlane, s.dead.find? (fun d => d.peer == p && d.plane == q) = old →
      let carrier := old.bind (·.remap)
      (∀ k, carrier = some k → ∀ r ∈ s.onPlane p k (· == q), r.isAtomic = true → Config.atomicApplied s.tick r.id = false) →
      ∃ t, exec (.planeRestore p q) s = .next t ∧ { t with dead := s.dead, outbox := s.outbox } = s ∧
        (∀ d ∈ t.dead, ¬(d.peer = p ∧ d.plane = q)) ∧
        t.outbox = s.outbox ++ match carrier with
          | some k => [.close p k q]
          | none => []) ∧
    (p < 16384 → (∀ z ∈ s.allParts, ∀ r ∈ z.pending, isHost r.addr = false) →
      let c := s.connection p
      let t : State := { s with connections := s.connections.filter (fun x => decide (x.n ≠ p)) ++ [{ c with failed := true }] }
      exec (.connectionFail p) s = .next t ∧
      ((∀ x ∈ s.connections, x.n ≠ p → x.asid ≠ c.asid) → t.hostFault c.asid = some (10, 4))) ∧
    (let floor0 := s.droveFloor true
     let floor1 := s.droveFloor false
     s.drove.in0 + s.drove.in1 + s.drove.turning = 64 → floor0 + floor1 ≤ 64 →
     ∃ t, exec .turnStep s = .next t ∧ { t with drove := s.drove } = s ∧
       t.drove.in0 + t.drove.in1 + t.drove.turning = 64 ∧ t.drove.turning ≤ 8 ∧
       -- the droves in dead time now point their new way
       let in0 := if s.drove.toward0 then s.drove.in0 + s.drove.turning else s.drove.in0
       let in1 := if s.drove.toward0 then s.drove.in1 else s.drove.in1 + s.drove.turning
       t.drove.in0 ≤ in0 ∧ t.drove.in1 ≤ in1 ∧ (t.drove.in0 < in0 → floor0 ≤ t.drove.in0) ∧
       (t.drove.in1 < in1 → floor1 ≤ t.drove.in1))

/-- One of the 16,384 connections that stands, with no operation of it waiting and none of a G connection before it (R383). -/
def Connected (s : State) (conn : Nat) : Prop :=
  conn < 16384 ∧ (s.connection conn).failed = false ∧ (∀ o ∈ s.hostQueue, o.connection ≠ conn) ∧ s.hostFirst conn = false

/-- The host's access of n bytes in one page of its connection's ASID lies at x, nothing holds it back, and no earlier one of the
connection waits (R380, R381, R382). -/
def HostAt (s : State) (conn va n : Nat) (r w : Bool) (x : Spot) : Prop :=
  Connected s conn ∧ 1 ≤ n ∧ va % 4096 + n ≤ 4096 ∧ va + n ≤ 2 ^ 57 ∧ s.hostPlace (s.connection conn) va n r w = .at x ∧
  s.heldByOther 0 x.ua n w = none

/-- The host's RDMA writes, reads and atomics are performed at their home and answered; one that its page table refuses is answered with a
NAK and changes nothing (as is a misaligned atomic, the model's choice, log 29), and one that comes while an earlier one of its
connection waits is queued behind it (R379, R380, R382). -/
def Claims.HostAccessesArePerformed : Prop :=
  ∀ (s : State) (conn va : Nat) (data : List Byte) (n : Nat) (cas : Bool) (a b : Word64) (x : Spot), (isHbm x.ua = true → 0 < x.key) →
    (HostAt s conn va data.length false true x → Writable s x.ua data.length →
      ∃ t, exec (.hostRdmaWrite conn va data) s = .next t ∧ t.outbox = s.outbox ++ [.rdma conn []] ∧ t.me = s.me ∧
        ∀ i, view t x.key i = overwrite (view s x.key) x.ua data.length (leNat data) i) ∧
    (HostAt s conn va n true false x → s.sectors = [] →
      ∃ t, exec (.hostRdmaRead conn va n) s = .next t ∧
        { t with narrow := s.narrow } = answered s (.rdma conn (s.homeRead x.key x.ua n))) ∧
    (va % 8 = 0 → HostAt s conn va 8 true true x → Writable s x.ua 8 →
      let old := leNat (s.homeRead x.key x.ua 8)
      let new := if cas then (if old = a.toNat then b.toNat else old) else (old + a.toNat) % 2 ^ 64
      ∃ t, exec (.hostAtomic conn va cas a b) s = .next t ∧ t.outbox = s.outbox ++ [.rdma conn (leBytes 8 old)] ∧
        ∀ i, view t x.key i = overwrite (view s x.key) x.ua 8 new i) ∧
    (Connected s conn → 1 ≤ n → va % 4096 + n ≤ 4096 → va + n ≤ 2 ^ 57 → s.hostPlace (s.connection conn) va n true false = .refused →
      exec (.hostRdmaRead conn va n) s = .next (answered s (.rdmaNak conn))) ∧
    (Connected s conn → va % 8 ≠ 0 → exec (.hostAtomic conn va cas a b) s = .next (answered s (.rdmaNak conn))) ∧
    (conn < 16384 → (s.connection conn).failed = false → (∃ o ∈ s.hostQueue, o.connection = conn) →
      exec (.hostRdmaRead conn va n) s = .next { s with
        hostQueue := s.hostQueue ++ [{ connection := conn, address := va, length := n, write := false }] }) ∧
    (16384 ≤ conn → exec (.hostRdmaRead conn va n) s = .next s)

/-! ## The management endpoint (R388 to R391, R400) -/

/-- The oldest request of the inbox. -/
def Asks (s : State) (m : MgmtMsg) (rest : List MgmtMsg) : Prop := s.boot ≠ .off ∧ s.mgmt.inbox = m :: rest

/-- The device with that request taken. -/
def taken (s : State) (rest : List MgmtMsg) : State := { s with mgmt := { s.mgmt with inbox := rest } }

/-- The request comes in session n, which has finished its handshake or not. -/
def InSession (s : State) (m : MgmtMsg) (n : Nat) (finished : Bool) : Prop :=
  m.session = some n ∧ ∃ x, s.mgmt.sessions.find? (fun x => x.n == n) = some x ∧ x.finished = finished

end Sys2Proof

/-- SPDM requests (R388) are answered, and open, secure, keep and end sessions; a session that ends, or whose heartbeat is missed, takes
with it the keys bound to it (R390, R391). Slot 0 holds the certificate of the identity, slot 1 that of the running firmware's alias key.
The bytes of the answers that the spec leaves open are free, and the fields of an answer, the heartbeat's place in its request and an
ERROR outside a session are the model's choice (log 15). -/
def Obligations.SessionsOpenAndClose : Prop :=
  ∀ (s : State) (m : MgmtMsg) (rest : List MgmtMsg) (n : Nat), Asks s m rest →
    let u := taken s rest
    let free := Config.spdmResponse s.tick
    let respond (a : SpdmAnswer) : State := answered u (.spdm m.session a)
    let cert (k : Nat) : Option (List Byte) :=
      if k = 0 then some Config.identityCert
      else if k = 1 then s.mgmt.running.map fun i => Config.aliasCert (fwImage (if i = 0 then s.mgmt.slotA else s.mgmt.slotB))
      else none
    let ended (t : State) : Prop := (∀ x ∈ t.mgmt.sessions, x.n ≠ n) ∧ t.mgmt.driver ≠ some n ∧
      ∀ e ∈ s.mgmt.keys, e.bound = some n → ∀ x ∈ t.mgmt.keys, x.n = e.n → x.key = none
    (m.request = .getVersion → exec .getVersion s = .next (respond (.version 1 3))) ∧
    (m.request = .getCapabilities → exec .getCapabilities s = .next (respond (.capabilities free))) ∧
    (m.request = .negotiateAlgorithms →
      exec .negotiateAlgorithms s = .next (respond (.algorithms .ed25519 .sha512 .ecdheSecp384r1 .aes256gcm))) ∧
    (m.request = .getDigests → exec .getDigests s = .next (respond (.digests ((0, sha512 Config.identityCert) ::
      match cert 1 with | some c => [(1, sha512 c)] | none => [])))) ∧
    (∀ k, m.request = .getCertificate k → exec .getCertificate s = .next (respond (match cert k with
      | some c => .certificate k c
      | none => .error))) ∧
    (∀ k, m.request = .challenge k → exec .challenge s = .next (respond (match cert k with
      | some _ => .challengeAuth k free
      | none => .error))) ∧
    (m.request = .getMeasurements → exec .getMeasurements s = .next (respond
      (.measurements (sha512 (fwImage s.mgmt.slotA)) (sha512 (fwImage s.mgmt.slotB)) s.fuseWord s.mgmt.floor free))) ∧
    (m.request = .keyExchange → s.mgmt.sessions.length < 256 → exec .keyExchange s = .next (answered { u with mgmt := { u.mgmt with
        sessions := s.mgmt.sessions ++ [{ n := s.mgmt.nextSession, heartbeat := max 1 (m.body.headD 1).toNat }]
        nextSession := s.mgmt.nextSession + 1 } } (.spdm m.session (.opened s.mgmt.nextSession free)))) ∧
    (m.request = .keyExchange → 256 ≤ s.mgmt.sessions.length → exec .keyExchange s = .next (respond .error)) ∧
    (let each (f : Session → Session) : State := { u with mgmt := { u.mgmt with
       sessions := s.mgmt.sessions.map fun x => if x.n = n then f x else x } }
     (m.request = .finish → InSession s m n false →
       exec .finish s = .next (answered (each fun x => { x with finished := true }) (.spdm (some n) (.done free)))) ∧
     (m.request = .heartbeat → InSession s m n true → exec .heartbeat s = .next (respond (.done free))) ∧
     (m.request = .keyUpdate → InSession s m n true →
       exec .keyUpdate s = .next (answered (each fun x => { x with keyUpdates := x.keyUpdates + 1 }) (.spdm (some n) (.done free))))) ∧
    (m.request = .endSession → InSession s m n true →
      ∃ t, exec .endSession s = .next t ∧ ended t ∧ t.outbox = s.outbox ++ [.spdm (some n) (.done free)]) ∧
    (∀ i ∈ [Instr.heartbeat, .keyUpdate, .endSession], m.request.step = i → (∀ k, ¬InSession s m k true) →
      exec i s = .next (respond .error)) ∧
    (∀ i ∈ [Instr.getVersion, .getCapabilities, .negotiateAlgorithms, .getDigests, .getCertificate, .challenge, .getMeasurements,
      .keyExchange, .finish, .heartbeat, .keyUpdate, .endSession], m.request.step ≠ i → exec i s = .next s) ∧
    ((∃ x ∈ s.mgmt.sessions, x.n = n) → ∃ t, exec (.heartbeatTimeout n) s = .next t ∧ ended t)

/-- Vendor-defined requests of a running device (R389 to R391, R400): CLAIM makes the session the driver's, once; BIND and KEYSET give a
key index its session and its key; KEYCLR erases it, ending every context that uses it; HEDGERESET and DEVRESET end the contexts of a
hedge and of the device; FWWRITE and FWCOMMIT write and commit the slot not running; HEALTH reports. A response holds the OPCODE, the
STATUS, the body's length and a field of 0. An unknown OPCODE gives STATUS 7, a wrong length 4; without the driver's session the driver's
requests are answered with STATUS 1 and change nothing. The order of these checks is the model's choice (log 15). -/
def Obligations.VendorRequestsAct : Prop :=
  ∀ (s : State) (m : MgmtMsg) (rest : List MgmtMsg) (n op : Nat), Asks s m rest → s.boot = .running → InSession s m n true →
    m.request = .vendor op m.body.length →
    let u := taken s rest
    let b := m.body
    let k := leNat (b.take 2)
    let replied (t : State) (status : Nat) (body : List Byte) : State := answered t (.vendor n Config.malnenId
      (leBytes 2 op ++ leBytes 2 status ++ leBytes 2 body.length ++ leBytes 2 0 ++ body))
    let ok (t : State) (body : List Byte) : State := replied t 0 body
    let refused (status : Nat) : State := replied u status []
    let index : Prop := 1 ≤ k ∧ k ≤ 4095 ∧ leNat ((b.drop 2).take 2) = 0
    let slot := (s.mgmt.keys.find? fun e => e.n == k).getD { n := k }
    let dead (t : State) (p : Context → Prop) : Prop := ∀ c ∈ t.allCtxs, p c → c.live = false
    -- the step for each OPCODE, with the lengths of its body
    let steps : List (Nat × Instr × (Nat → Bool)) :=
      [(1, .claim, (· == 0)), (2, .bind, (· == 8)), (3, .keyset, (· == 68)), (4, .keyclr, (· == 4)), (0x10, .devreset, (· == 0)),
       (0x11, .hedgereset, (· == 4)), (0x20, .fwwrite, fun l => 9 ≤ l && l ≤ 1032), (0x21, .fwcommit, (· == 8)),
       (0x30, .health, (· == 0))]
    ((∀ x ∈ steps, x.1 ≠ op) → ∀ x ∈ steps, exec x.2.1 s = .next (refused 7)) ∧
    (∀ x ∈ steps, x.1 = op → x.2.2 b.length = false → exec x.2.1 s = .next (refused 4)) ∧
    (∀ x ∈ steps, x.1 = op → x.2.2 b.length = true → op = 2 ∨ 0x10 ≤ op ∧ op ≤ 0x21 → s.mgmt.driver ≠ some n →
      exec x.2.1 s = .next (refused 1)) ∧
    (∀ x ∈ steps, ∀ y ∈ steps, x.1 = op → y.1 ≠ op → exec y.2.1 s = .next s) ∧
    (op = 1 → b = [] → s.mgmt.driver = none → exec .claim s = .next (ok { u with mgmt := { u.mgmt with driver := some n } } [])) ∧
    (op = 1 → b = [] → s.mgmt.driver ≠ none → exec .claim s = .next (refused 1)) ∧
    (op = 2 → b.length = 8 → s.mgmt.driver = some n → index → (∃ x ∈ s.mgmt.sessions, x.n = leNat (b.drop 4)) →
      ∃ t, exec .bind s = .next (ok t []) ∧ (t.mgmt.keys.find? fun e => e.n == k) = some { slot with n := k, bound := some (leNat (b.drop 4)) } ∧
        (∀ j, j ≠ k → (t.mgmt.keys.find? fun e => e.n == j) = s.mgmt.keys.find? fun e => e.n == j)) ∧
    (op = 3 → b.length = 68 → index → slot.bound = some n → s.keyInUse k = false →
      ∃ t, exec .keyset s = .next (ok t []) ∧
        (t.mgmt.keys.find? fun e => e.n == k) = some { slot with n := k, key := some (b.drop 4), gen := slot.gen + 1 } ∧
        t.mgmt.loaded = s.mgmt.loaded ++ [(t.keyTag k, b.drop 4)] ∧
        (∀ j, j ≠ k → (t.mgmt.keys.find? fun e => e.n == j) = s.mgmt.keys.find? fun e => e.n == j)) ∧
    (op = 3 → b.length = 68 → index → slot.bound ≠ some n → exec .keyset s = .next (refused 1)) ∧
    (op = 3 → b.length = 68 → index → slot.bound = some n → s.keyInUse k = true → exec .keyset s = .next (refused 3)) ∧
    (op = 4 → b.length = 4 → index → slot.bound = some n ∨ s.mgmt.driver = some n →
      ∃ t, exec .keyclr s = .next (ok t []) ∧ (∀ e ∈ t.mgmt.keys, e.n = k → e.key = none) ∧
        dead t (fun c => c.key = k ∨ c.codeKey = k)) ∧
    (op = 0x11 → b.length = 4 → s.mgmt.driver = some n → leNat (b.take 1) < 48 → leNat ((b.drop 1).take 3) = 0 →
      ∃ t, exec .hedgereset s = .next (ok t []) ∧ dead t (fun c => c.hedge = leNat (b.take 1)) ∧ t.mgmt.keys = s.mgmt.keys) ∧
    (op = 0x10 → b = [] → s.mgmt.driver = some n →
      ∃ t, exec .devreset s = .next (ok t []) ∧ t.allCtxs = [] ∧ t.allParts = [] ∧ t.queues = [] ∧ t.hedges = [] ∧
        t.mgmt.keys = [] ∧ t.mgmt.sessions = [] ∧ t.mgmt.driver = none ∧ t.outbox = s.outbox ∧ t.boot ≠ .off ∧
        t.mgmt.slotA = s.mgmt.slotA ∧ t.mgmt.slotB = s.mgmt.slotB) ∧
    (let i := s.mgmt.running
     let old := if i = some 1 then s.mgmt.slotA else s.mgmt.slotB
     let new (t : State) := if i = some 1 then t.mgmt.slotA else t.mgmt.slotB
     let other (t : State) := if i = some 1 then t.mgmt.slotB = s.mgmt.slotB else t.mgmt.slotA = s.mgmt.slotA
     let off := leNat (b.take 4)
     (op = 0x20 → 9 ≤ b.length → b.length ≤ 1032 → s.mgmt.driver = some n → leNat ((b.drop 4).take 4) = 0 → SMap.wf 0 old.image = true →
       ∃ t, exec .fwwrite s = .next (ok t []) ∧ other t ∧ (new t).size = old.size ∧
         ∀ a, SMap.get 0 (new t).image a = if off ≤ a ∧ a < off + (b.length - 8) then b.getD (8 + a - off) 0
           else SMap.get 0 old.image a) ∧
     (op = 0x21 → b.length = 8 → s.mgmt.driver = some n → leNat ((b.drop 4).take 4) = 0 →
       let image := SMap.getAll 0 old.image 0 off
       (image ≠ [] → Config.signatureValid image = true → s.mgmt.floor ≤ Config.imageRollback image →
         ∃ t, exec .fwcommit s = .next (ok t (sha512 image)) ∧ other t ∧
           new t = { old with size := off }) ∧
       (image = [] ∨ Config.signatureValid image = false ∨ Config.imageRollback image < s.mgmt.floor →
         exec .fwcommit s = .next (refused 5)))) ∧
    (op = 0x30 → b = [] → ∃ v, exec .health s = .next (ok v v.healthRecord) ∧ s.mgmt.tjmax ≤ v.mgmt.tjmax ∧
      { v with mgmt := { v.mgmt with tjmax := s.mgmt.tjmax } } = u)

/-! ## Power, errors and gating (R318, R395 to R400) -/

namespace Sys2Proof

/-- Nothing that a reset ends stands: no context, queue, hedge, key or session. -/
def Cleared (s : State) : Prop :=
  s.allCtxs = [] ∧ s.allParts = [] ∧ s.queues = [] ∧ s.hedges = [] ∧ s.mgmt.keys = [] ∧ s.mgmt.sessions = [] ∧ s.mgmt.driver = none

/-- POWER_ON starts the boot ROM on a cleared device: it runs the accepted slot of the higher version, else it is in recovery (R395,
R396). POWER_LOSS keeps flash, fuses and the rollback floor only (R400). THERMAL_TRIP leaves the device dark (R399). An uncorrectable
error that a second read clears is counted; a lasting one poisons its sector, or the word of a register, tile or bank where it lies, and a
sector is reported into the health ring (R397, R398). Ways, banks and quadrants out of use are gated, a bank then reads zero, and a wake
ends it (R318). Memory that power loss clears reads 0 (log 1), every line of a slice goes when one of its ways is gated (log 4), and what
the address of a report is counts as the model's choice (log 17). -/
def Claims.PowerErrorsAndGating : Prop :=
  ∀ (s : State) (a : Nat) (kind : Fin 4) (die unit way : Nat),
    let flash (t : State) : Prop := t.mgmt.slotA = s.mgmt.slotA ∧ t.mgmt.slotB = s.mgmt.slotB ∧ t.fuse0 = s.fuse0 ∧
      t.fuse1 = s.fuse1 ∧ t.form = s.form
    (s.boot = .off → ∃ t, exec .powerOn s = .next t ∧ Cleared t ∧ flash t ∧
      (t.boot = .running ∨ t.boot = .recovery) ∧
      (t.boot = .recovery ↔ imageOk (fwImage s.mgmt.slotA) s.mgmt.floor = false ∧ imageOk (fwImage s.mgmt.slotB) s.mgmt.floor = false)) ∧
    (∃ t, exec .powerLoss s = .next t ∧ Cleared t ∧ flash t ∧ t.boot = .off ∧ t.mgmt.floor = s.mgmt.floor ∧
      ∀ x, x < 2 ^ 54 → SMap.get 0 t.mem x = 0) ∧
    (s.boot ≠ .off → s.boot ≠ .tripped → ∃ t, exec .thermalTrip s = .next t ∧ Tripped t ∧ 105 ≤ t.mgmt.tjmax) ∧
    (let here : Prop := ((kind = 1 ∨ kind = 2) ∧ isHbm a = true) ∨ (kind = 3 ∧ isCsp a = true) ∨ (kind = 0 ∧ isSpad a = true)
     here → (∃ t, exec (.eccUncorrectable (.sector a kind.val) false) s = .next t ∧ t.poisoned = s.poisoned ∧
        t.mgmt.transient + t.mgmt.soft = s.mgmt.transient + s.mgmt.soft + 1) ∧
      ∃ t, exec (.eccUncorrectable (.sector a kind.val) true) s = .next t ∧ a / 32 ∈ t.poisoned ∧
        t.mgmt.lasting = s.mgmt.lasting + 1 ∧ t.mem = s.mem ∧
        (kind ≠ 0 → ∃ owner count, t.mgmt.reports = s.mgmt.reports ++ [(a / 32, kind.val, owner, count)])) ∧
    -- a word of a register, a tile or a bank is poisoned where it lies
    (let lasting (e : EccUnit) (here : State → Prop) : Prop := ∃ t, exec (.eccUncorrectable e true) s = .next t ∧ here t ∧
       t.mgmt.lasting = s.mgmt.lasting + 1 ∧ t.mem = s.mem
     (die ≠ 0 → HasGang s die → unit < 512 → way < 32 → lasting (.vectorWord die unit way) fun t => 32 * unit + way ∈ (t.getGang die).badV) ∧
     (HasPart s die → 1 ≤ unit → unit < 64 → lasting (.gangRegister die unit) fun t => unit ∈ (t.getPart die).badG) ∧
     ((∃ w ∈ s.allWgs, w.id = die) → die ≠ 0 → SMap.wf {} (s.getWg die).tiles = true → unit < (s.getWg die).ntiles → way < 4224 →
       lasting (.tileWord die unit way) fun t => way ∈ ((t.getWg die).tile unit).bad) ∧
     ((∃ w ∈ s.allWgs, w.id = die) → die ≠ 0 → SMap.wf {} (s.getWg die).banks = true → unit < 2 →
       (s.getWg die).cim.getLsbD unit = true → way < 8 →
       lasting (.cimPart die unit way) fun t => way ∈ ((t.getWg die).bank unit).bad)) ∧
    (∀ sec knd asid count more, s.mgmt.reports = (sec, knd, asid, count) :: more →
      let i := s.rd s.hring 8
      (s.hrsize ≤ i - s.rd (s.hring + 8) 8 → exec .retirementReport s = .next s) ∧
      (i - s.rd (s.hring + 8) 8 < s.hrsize →
        let bytes := leBytes 8 (32 * sec) ++ leBytes 1 knd ++ leBytes 1 (Config.stackOf (32 * sec) % 8) ++ leBytes 2 asid ++ leBytes 4 count
        let u := (s.homeWriteAll (s.keyTag 0) (s.hring + 64 + 16 * (i % s.hrsize)) bytes).wr s.hring 8 (i + 1)
        exec .retirementReport s = .next { u with mgmt := { u.mgmt with reports := more, retired := u.mgmt.retired + 1 } })) ∧
    (die < 2 → unit < 48 → (∀ h ∈ s.hedges, (if die = 0 then h.csp0 else h.csp1).getLsbD unit = false) → memoryWf s = true →
      ∃ t, exec (.powerGate (.bank die unit)) s = .next t ∧ (die, unit) ∈ t.gatedBanks ∧
        ((die, unit) ∉ s.gatedBanks → ∀ o, o < 2 ^ 20 → SMap.get 0 t.mem (cspAddr die unit o) = 0)) ∧
    (die < 2 → way < 16 → unit ∈ s.enabledSlices die → ∃ t, exec (.powerGate (.way die unit way)) s = .next t ∧
      (die, unit, way) ∈ t.gatedWays ∧
      ((die, unit, way) ∉ s.gatedWays → ∀ x ∈ t.resident, t.homeSlice (128 * x.line) ≠ 48 * die + unit)) ∧
    (unit < 192 → way < 4 → (∀ h ∈ s.hedges, unit ∉ h.coreList) → ∃ t, exec (.powerGate (.quadrant unit way)) s = .next t ∧
      (t.getCore unit).gated.getLsbD way = true ∧ ∀ j, j ≠ way → (t.getCore unit).gated.getLsbD j = (s.getCore unit).gated.getLsbD j) ∧
    -- the requests that the slices held go on when a way or a bank wakes
    (let bank : State := { s with gatedBanks := s.gatedBanks.filter (· ≠ (die, unit)) }
     let ways : State := { s with gatedWays := s.gatedWays.filter (· ≠ (die, unit, way)) }
     exec (.wayBankWake (.bank die unit)) s = .next bank.admitAll ∧ exec (.wayBankWake (.way die unit way)) s = .next ways.admitAll ∧
     (s.ingress = [] → bank.admitAll = bank ∧ ways.admitAll = ways) ∧
     (∃ t, exec (.wayBankWake (.quadrant unit way)) s = .next t ∧ (t.getCore unit).gated.getLsbD way = false))

/-! ## Completion of steps without a word -/

end Sys2Proof

/-- Steps that parts and harvest work wait for come about (R145, R274, R278, R279, R283, R328 to R333): a notice leaves no part of its
core asleep on its line, and dooms the open attempts that read the line; an answer of a home registers a sleeper or wakes it; a polled
wait polls again; a context in which every part waits for itself ends with status 0x40; a core with an unmet G need evicts harvest work; a
gang's record goes into the bale; a bale that is complete joins the restart queue, and its workgroup resumes on a core with room. -/
def Obligations.WaitAndHarvestEventsComplete : Prop :=
  ∀ (s : State) (n i : Nat),
    -- NOTICE
    (∀ core line, s.notices[i]? = some (core, line) →
      ∃ t, exec (.notice i) s = .next t ∧ t.notices = dropAt s.notices i ∧ t.mem = s.mem ∧
        ∀ p ∈ t.allParts, (t.getWg (t.getGang p.gang).workgroup).state = .running →
          (t.getWg (t.getGang p.gang).workgroup).core = core →
          (p.state = .asleep → ∀ x, p.sleep = some x → ∀ r ∈ x.lines, r.line ≠ line) ∧
          (p.state ≠ .asleep → p.serial = false → (∃ r ∈ p.readLines, r.line = line) → p.doomed = true)) ∧
    -- REGISTER_ANSWER
    (∀ (x : Sleep) (r : ReadLine), HasPart s n → (s.getPart n).state = .asleep → (s.getPart n).sleep = some x →
      x.unanswered[i]? = some r → (s.getWg (s.getGang (s.getPart n).gang).workgroup).state = .running →
      ∃ t, exec (.registerAnswer n i) s = .next t ∧ t.mem = s.mem ∧
        ((t.getPart n).state = .ready ∨ (t.getPart n).state = .asleep ∧ ∃ y, (t.getPart n).sleep = some y ∧
          y.lines = x.lines ∧ y.unanswered.length + 1 = x.unanswered.length)) ∧
    -- POLL_INTERVAL
    (HasPart s n → (s.getPart n).state = .polling →
      ∃ t, exec (.pollInterval n) s = .next t ∧ t.getPart n = { s.getPart n with state := .ready } ∧ t.mem = s.mem ∧
        ∀ m, m ≠ n → t.getPart m = s.getPart m) ∧
    -- WATCHDOG_EXPIRY
    ((s.getCtx n).live = true → (s.getCtx n).id = n → n ≠ 0 → s.deadlocked n = true → (s.getCtx n).report = none →
      ∃ t, exec (.watchdogExpiry n) s = .next t ∧ (t.getCtx n).live = false ∧
        (t.getCtx n).report = some { status := 0x40, aux := 0, pc := 0, slot := 0 }) ∧
    -- EVICTION_ORDER
    (∀ w, s.unmet n = true → s.evictNext n = some w → w.state ≠ .saved → (∀ p ∈ s.partsOfWg w.id, p.inflight = []) →
      ∃ t, exec (.evictionOrder n) s = .next t ∧ (∀ x ∈ t.allWgs, x.id = w.id → x.state = .evicted) ∧
        t.spills.length = s.spills.length + 1 ∧ t.mem = s.mem) ∧
    -- SPILL_BLOCK_WRITTEN
    (∀ x g rest e, s.spills.find? (fun y => y.workgroup == n) = some x → x.left = (g, none) :: rest → g ≠ 0 →
      let w := s.getWg n
      let c := s.getCtx w.context
      let va := c.baleArea.toNat + 524288 * w.pidx + 512 * (s.getGang g).index
      va % 4096 + 512 ≤ 4096 → s.engineSpot (c.space (coreDie w.core)) va 512 false true = .got e →
      ∃ t, exec (.spillBlockWritten n) s = .next t ∧ (∀ y ∈ t.spills, y.workgroup = n → y.left = rest) ∧ t.zeroing = s.zeroing) ∧
    -- BALE_COMPLETE
    (∀ x h, s.spills.find? (fun y => y.workgroup == n) = some x → x.left = [] →
      (∀ p ∈ s.partsOfWg n, p.fending = false ∧ p.inflight = [] ∧ p.pending = [] ∧ p.trap = none) →
      h ∈ s.hedges → h.n = (s.getCtx (s.getWg n).context).hedge →
      ∃ t, exec (.baleComplete n) s = .next t ∧ (∀ y ∈ t.spills, y.workgroup ≠ n) ∧
        ∃ k ∈ t.hedges, k.n = h.n ∧ k.restarts.map (·.workgroup) = h.restarts.map (·.workgroup) ++ [n]) ∧
    -- BALE_RESTART
    (∀ h b rest core rs bs s1 s2, s.hedge? n = some h → h.restarts = b :: rest →
      let w := s.getWg b.workgroup
      let c := s.getCtx w.context
      let x := c.space (coreDie w.core)
      let gs := baleGangs rs c.ngang 0 0
      let want := baleWant c w gs
      FetchedAt x s (pagePieces b.address.toNat (512 * c.ngang)) rs s1 →
      FetchedAt x s1 (pagePieces (b.address.toNat + 512 * c.ngang) (4096 * sumOf BaleGang.vblk gs + want.scr)) bs s2 →
      (h.coreList.filter s1.coreEnabled).find? (fun k => !s1.gWaits k && s1.fits k want everyone) = some core →
      ∃ t, exec (.baleRestart n) s = .next t ∧ (∀ y ∈ t.allWgs, y.id = w.id → y.state = .running ∧ y.core = core) ∧
        ∀ k ∈ t.hedges, k.n = n → ∃ k0 ∈ s.hedges, k0.n = n ∧ k.restarts = k0.restarts.tail)

/-- Steps of the dispatcher and of the device's supply come about (R318, R361 to R363, R395 to R400): a paddock is placed, a save is
written and frees its cores, a saved paddock of one member resumes on its core; the device starts, loses its supply, and trips; an
uncorrectable error is counted or poisons its sector, and is reported; ways, banks and quadrants are gated and wake. -/
def Obligations.PaddockAndPowerEventsComplete : Prop :=
  ∀ (s : State) (n die unit way : Nat),
    -- PADDOCK_PLACE
    (∀ c cores floor, ((s.candidates n).foldl (fun a c => insertCtx c a) []).find? (fun c => s.choose c (admitWants c) != .none) = some c →
      s.restoreFirst n c = false → s.choose c (admitWants c) = .on cores floor → c.id ≠ 0 → s.nextId ≠ 0 → (∀ q, Judged s q) →
      c.placed ≠ 0 ∨ s.asidFault c.queue = none →
      ∃ t, exec (.paddockPlace n) s = .next t ∧ ∀ (m k : Nat), cores[m]? = some k →
        ∃ w ∈ t.allWgs, w.context = c.id ∧ w.core = k ∧ w.pidx = c.placed ∧ w.floor = floor) ∧
    -- PREEMPTION_SAVE_DONE
    (∀ (v : SavedPaddock) (w : Workgroup) (u : State), s.saves[n]? = some v → v.done = false → s.savedWgs v = [w] → w.state = .saved → w.ordered = false →
      s.saveReady [w] = true → SlotsWritten (s.getCtx v.context) s [w] u →
      ∃ t, exec (.preemptionSaveDone n) s = .next t ∧ t.saves.length = u.saves.length ∧
        (∀ x ∈ t.saves, x.context = v.context → x.pidx = v.pidx → x.done = true) ∧
        (w.scr ≠ 0 → { core := w.core, base := w.sbase, length := w.scr } ∈ t.zeroing)) ∧
    -- PADDOCK_RESTORE
    (∀ (v : SavedPaddock) (w : Workgroup) (k floor : Nat) (bs : List Byte) (u : State), s.saves[n]? = some v →
      s.outranked (s.getCtx v.context) = false → s.chooseSaved v = .on [k] floor → s.savedMembers v = [w] → w.state = .saved →
      (let c := s.getCtx v.context
       let ms := v.messages.filter fun m => m.workgroup == w.id
       FetchedAt (c.space (coreDie k)) s ((s.slotParts c w ms).flatMap fun x => pagePieces x.1 x.2) bs u) →
      ∃ t, exec (.paddockRestore n) s = .next t ∧ (∀ x ∈ t.allWgs, x.id = w.id → x.state = .running ∧ x.core = k ∧ x.floor = floor) ∧
        ∀ x ∈ t.saves, ¬(x.context = v.context ∧ x.pidx = v.pidx)) ∧
    -- POWER_ON, POWER_LOSS, THERMAL_TRIP
    (s.boot = .off → ∃ t, exec .powerOn s = .next t ∧ Cleared t ∧
      (t.boot = .running ∧ (imageOk (fwImage s.mgmt.slotA) s.mgmt.floor = true ∨ imageOk (fwImage s.mgmt.slotB) s.mgmt.floor = true) ∨
       t.boot = .recovery ∧ imageOk (fwImage s.mgmt.slotA) s.mgmt.floor = false ∧ imageOk (fwImage s.mgmt.slotB) s.mgmt.floor = false)) ∧
    (∃ t, exec .powerLoss s = .next t ∧ Cleared t ∧ t.boot = .off ∧ t.mgmt.floor = s.mgmt.floor) ∧
    (s.boot = .running → ∃ t, exec .thermalTrip s = .next t ∧ Tripped t) ∧
    -- ECC_UNCORRECTABLE, RETIREMENT_REPORT
    (∀ a : Nat, isHbm a = true →
      (∃ t, exec (.eccUncorrectable (.sector a 1) false) s = .next t ∧ t.poisoned = s.poisoned ∧ t.mgmt.transient = s.mgmt.transient + 1) ∧
      ∃ t, exec (.eccUncorrectable (.sector a 1) true) s = .next t ∧ s.poisoned ⊆ t.poisoned ∧ a / 32 ∈ t.poisoned ∧
        t.mgmt.reports.length = s.mgmt.reports.length + 1) ∧
    (∀ r more, s.mgmt.reports = r :: more → s.rd s.hring 8 - s.rd (s.hring + 8) 8 < s.hrsize →
      ∃ t, exec .retirementReport s = .next t ∧ t.mgmt.reports = more ∧ t.mgmt.retired = s.mgmt.retired + 1) ∧
    -- POWER_GATE, WAY_BANK_WAKE
    (die < 2 → unit < 48 → (∀ h ∈ s.hedges, (if die = 0 then h.csp0 else h.csp1).getLsbD unit = false) →
      ∃ t, exec (.powerGate (.bank die unit)) s = .next t ∧ (die, unit) ∈ t.gatedBanks ∧ ∀ b ∈ s.gatedBanks, b ∈ t.gatedBanks) ∧
    (die < 2 → way < 16 → unit ∈ s.enabledSlices die →
      ∃ t, exec (.powerGate (.way die unit way)) s = .next t ∧ (die, unit, way) ∈ t.gatedWays ∧ ∀ w ∈ s.gatedWays, w ∈ t.gatedWays) ∧
    (unit < 192 → way < 4 → (∀ h ∈ s.hedges, unit ∉ h.coreList) →
      ∃ t, exec (.powerGate (.quadrant unit way)) s = .next t ∧ (t.getCore unit).gated.getLsbD way = true ∧ t.mem = s.mem) ∧
    (s.ingress = [] → ∃ t, exec (.wayBankWake (.bank die unit)) s = .next t ∧ (∀ b, b ∈ t.gatedBanks ↔ b ∈ s.gatedBanks ∧ b ≠ (die, unit)) ∧ t.mem = s.mem) ∧
    (s.ingress = [] → ∃ t, exec (.wayBankWake (.way die unit way)) s = .next t ∧
      (∀ w, w ∈ t.gatedWays ↔ w ∈ s.gatedWays ∧ w ≠ (die, unit, way)) ∧ t.mem = s.mem) ∧
    (∃ t, exec (.wayBankWake (.quadrant unit way)) s = .next t ∧ (t.getCore unit).gated.getLsbD way = false ∧ t.mem = s.mem)

/-! ## Statements of several claims together -/

/-- Every integer, bit-field, comparison, move and predicate word puts the results of R93 to R98 in flight for its active
lanes, sets SAT where a clamp changed one, and goes on at the next word; nothing else changes. -/
def Obligations.IntegerAndMoveWordsPutResultsInFlight : Prop := Claims.IntegerWordsPutResultsInFlight ∧ Claims.MoveWordsPutResultsInFlight

/-- Before anything of its own a word is checked, in this order (R50): MASKED by the features of R52, ALLOT by what its gang and workgroup hold
(R11, R20, R167, R337), and UNCOVERED for a harvest part outside a furrow by the words of R335; the first that fails is the trap taken.
That WAITW in a chip scratchpad is masked as other memory words there is the model's reading (log 49). -/
def Obligations.ContextChecksComeFirst : Prop := Claims.ContextChecksInOrder ∧ Claims.MaskableAndBareWords

/-- What State.reset leaves: the droveway split of R305, memory in its canonical form with nothing listed (log 1), no queue, hedge, key,
context or part. That the machine starts without power, with nothing in its firmware slots, so that the first step is POWER_ON
and ends in recovery (R395), is the model's choice (logs 10 and 13). -/
def Obligations.ResetLeavesTheStartingState : Prop := Claims.ResetLeaves ∧ Claims.FirstStepEntersRecovery ∧ Claims.ResetMemoryForm

/-- A step runs the decoded word: where the word at the program counter of the part that issues decodes to an instruction, the
step is exec of it, followed by what an issue does to the part; a word that the encoding refuses traps ILLEGAL with the AUX
of R402. Which part issues is the agenda's or the default scheduler's word (log 9), LANES of a refused word names every lane (log 19),
and a first half traps before the second word is fetched (log 44): the model's choices. -/
def Obligations.StepRunsTheWordAtThePc : Prop := Claims.StepRunsTheDecodedWord ∧ Claims.RefusedWordsTrapIllegal

/-- A step runs a pair of words as one issue (R42, R44), the next op of a script run (R366), and an event when the agenda names
one. The agenda is the model's (log 9). -/
def Obligations.StepRunsPairsScriptsAndEvents : Prop := Claims.StepRunsTheDecodedPair ∧ Claims.StepRunsScriptsAndEvents

/-- After a thermal trip the device stays without contexts and keys until it loses its supply (R399), and while compute is dark no
step issues a word or serves compute, fabric or memory: but for the agenda and the count of steps nothing changes. -/
def Obligations.DarkDevicesStayDark : Prop := Claims.TrippedStaysDark ∧ Claims.DarkDeviceIssuesNothing

/-- A read of a vector register or of a predicate gives what has landed, or what a lane result in flight writes there; without
such a result it gives what has landed (R48). Which of them is free (log 5). -/
def Obligations.RegisterReadsSeeLandedOrInFlight : Prop := Claims.VectorReadsSeeLandedOrInFlight ∧ Claims.PredicateReadsSeeLandedOrInFlight

/-- Encoding a finite value in a floating format rounds it once and correctly in each direction, sets NX exactly where the result
differs, and to nearest takes a tie to the even encoding, unless it overflows (R26, R99, R293). -/
def Obligations.EncodingRoundsCorrectly : Prop := Claims.EncodingRoundsToANeighbour ∧ Claims.NearestTiesGoToEven

/-- An encoding that is no NaN is the encoding of its own value with no flag, and sums and products are exact before their one
rounding, with the sign of a zero sum as R100 says. That two zeros of one sign keep it is the
model's reading (log 48). -/
def Obligations.ExactValuesAndSums : Prop := Claims.EncodingsOfTheirOwnValues ∧ Claims.SumsAndProductsAreExact

/-- CVT between integer types and from FP32 to an integer type (R104), and the special values of R107. -/
def Obligations.ConversionsAndSpecialValues : Prop := Claims.IntegerConversions ∧ Claims.FloatToIntegerConversions ∧ Claims.SpecialValuesOfApproximations

/-- SREAD gives each system register field by field at the places of R23 to R26 (R83); WID numbers the lanes as a lane result. -/
def Obligations.SystemRegistersAreRead : Prop := Claims.SreadWritesTheRegistersValue ∧ Claims.SreadOfWidNumbersTheLanes

/-- SWRITE sets a writable register from the same step on; one of a read-only register, of a set reserved bit or of an unknown
number traps ILLEGAL, and of PRIVHWM beyond LIMIT traps PRIVGROW (R22, R28, R83, R84, R402). -/
def Obligations.SystemRegistersAreWritten : Prop := Claims.SwriteSetsTheRegister ∧ Claims.IllegalRegisterWritesTrap

/-- BR and CALL that the part's slices agree on go one way (R69, R75), CALL at depth 255 traps (R29, R76); a .sl branch or call that they
do not agree on splits the part, and traps DIVERGE inside a transaction, a furrow or harvest work (R70, R71, R336); a slice whose lanes
disagree traps DIVERGE. Which share keeps the part's identity and TRAPINFO, and that a branch to the next word splits too, is the model's
choice (log 25). -/
def Obligations.BranchesGoOneWaySplitOrDiverge : Prop := Claims.UniformBranchesGoOneWay ∧ Claims.SplitBranchesMakeTwoParts ∧ Claims.DisagreeingSlicesDiverge

/-- NOP, LPAD, BRG, JT, JTV, CALLI and RET go on at the next word, at the branch target, at a landing pad with the word's tag, or at
the popped address (R72 to R77, R87); RET with an empty return stack traps ILLEGAL with AUX 0x07.
That JTV compares the lanes of every slice before it reads its table is the model's choice (log 44), and so is that JT and JTV read a transaction's own
stores of the table (log 30). -/
def Obligations.TransfersReachTheirTargets : Prop := Claims.JumpsReachTheirTargets ∧ Claims.VectorJumpsOfOneIndex

/-- REGANG joins parts of one gang at one word with equal return stacks and lets a part pass that awaits only its own slices (R79,
R80); EXIT ends the part's slices, and with the gang's last the registers go (R81).
What a merged part keeps of the others' TRAPINFO and deferred entries is the model's choice (log 44). -/
def Obligations.PartsRejoinAndExit : Prop := Claims.RegangRejoinsParts ∧ Claims.ExitEndsTheSlices

/-- ACQUIRE goes on with the full allotment, else parks and asks once (R88); the head request of its class is granted when it fits,
G before H (R196), and a free serial token goes to the first waiter, G before H (R276).
That ACQUIRE parks the issuing part alone is the model's reading (log 48). -/
def Obligations.WaitersAskAndAreGranted : Prop := Claims.AcquireAsksForTheFullAllotment ∧ Claims.WaitersAreGranted

/-- A trap enters its handler: g62, g63 and TRAPINFO are written, the record is stored, a trap frame is pushed and the PC is
TRAPVEC.ADDR (R206), with the record's layout of R210; TRAP and BRK take their trap, and BRK goes on while TRAPVEC is
disabled (R85, R86). -/
def Obligations.TrapsAreTaken : Prop := Claims.TrapsEnterTheHandler ∧ Claims.TrapWordsTakeTheirTrap ∧ Claims.FaultRecordLayout

/-- A trap inside a transaction aborts it first and resumes at its target (R141, R205); a trap that no handler can take ends the
context, which reports the first of them (R205, R209, R211). -/
def Obligations.TrapsAbortOrEndTheContext : Prop := Claims.TrapsAbortTheTransaction ∧ Claims.UnhandledTrapsEndTheContext

/-- LD and RLD put each lane's bytes in flight, extended as R117 says; LDD decodes elements under the page's format and scale code
(R121, R292). Bytes that are not at hand are asked for, and their lanes' results wait (R314). Inside a transaction LD and LDD see its own
stores and enter their lines in the read set, and ST is buffered (R267 to R269). But for copies in caches nothing else changes. Which
copies a read leaves is the model's choice (log 3). -/
def Obligations.LoadsPutTheirBytesInFlight : Prop := Claims.LoadsPutMemoryInFlight ∧ Claims.DecodingLoadsPutElementsInFlight ∧ Claims.TransactionsReadAndBuffer

/-- ST and RST issue each lane's bytes as stores that are not yet performed (R117, R124), STQ the encoded elements and scale codes
with their flags (R122), and a block's scale code is that of R294, which keeps its largest element within the format. That STQ's flags
join FFLAGS at issue is the model's reading (log 24). -/
def Obligations.StoresIssueTheirWrites : Prop := Claims.StoresIssueTheirBytes ∧ Claims.QuantisingStoresIssueEncodedElements ∧ Claims.BlockScalesFitTheLargestElement

/-- A store at device scope is performed at its home, changes no byte outside itself for its own key, and keeps memory's canonical
form (R242, R253); a read that has left is answered with the bytes at its home; a read at the level of a write by the same core gives
the bytes written (R245). -/
def Obligations.WritesReachTheirReaders : Prop := Claims.PerformedStoresReachMemory ∧ Claims.SentReadsAreAnswered ∧ Claims.ReadsSeeWritesAtTheirLevel

/-- ATOM, RED and RAT send one request a lane to its location's execution point and go on (R127, R128); a request that is performed there
reads, modifies and writes in one step, and gives its old value to the word's result (R125, R126). -/
def Obligations.AtomicsReadModifyAndWrite : Prop := Claims.AtomicsLeaveForTheirLocations ∧ Claims.AtomicsReadModifyAndWriteAtOnce

/-- A misaligned active lane traps PROT with AUX 0x01 before any lane performs; lanes that meet page faults park with a PAGE record
while the others go on (R118, R201). -/
def Obligations.FaultingLanesTrapOrPark : Prop := Claims.MisalignedLanesTrap ∧ Claims.PageFaultsParkTheirLanes

/-- FENCE orders and cleans as R131 and R250 say; CLEAN, INVAL, ICINV and PF act on their range (R123, R132, R133). That CLEAN and
INVAL act on every core and sector in scope in one step is the model's choice (log 21). -/
def Obligations.FencesAndCacheWords : Prop := Claims.FencesOrderAccesses ∧ Claims.CacheWordsActOnTheirRange

/-- A hardware abort, ABANDON and RETRY take the part back to the checkpoint of the level that they leave, with XSTAT's code and
level (R139 to R141); memory is untouched. What no transaction may hold aborts it with code 5, in a furrow too (the model's choice,
log 49), and EXIT, REGANG and ACQUIRE trap (R79, R81, R88, R120, R143, R154). XSTAT is read and cleared (R142). -/
def Obligations.TransactionsAbort : Prop := Claims.HardwareAbortsRestoreTheCheckpoint ∧ Claims.GivingUpALevel ∧ Claims.DisallowedWordsAbortOrTrap

/-- WAITW and STWAIT outside a transaction go on where their condition holds and else sleep at the word on the lines that they
read (R144, R150); WAITW on host memory or a peer polls (R145); memory does not change. -/
def Obligations.WaitsGoOnOrSleep : Prop := Claims.WordWaitsGoOnOrSleep ∧ Claims.PolledWaitsGoOnOrPollAgain ∧ Claims.StileWaitsGoOnOrSleep

/-- FBEGIN opens a furrow and notes the restart point (R152), DEFER records ST, RST and RED with their lanes (R129), and FEND sends what was
recorded, waits until it is performed, and closes the furrow (R130, R153). -/
def Obligations.FurrowsDeferAndPerform : Prop := Claims.FurrowsOpenAndClose ∧ Claims.DeferredWordsAreRecorded ∧ Claims.FendPerformsDeferredEffects

/-- Matrix operations start in their order and have their effect (R169, R172 to R175, R179 to R184), stores of a TST reach memory one by one,
and an operation that retires completes its gang's sheaf when nothing of it is left (R174, R186). That the effect takes place as a whole
at the start, and that CIMLD of a tile of FMT 0 does nothing, is the model's choice (log 32). -/
def Obligations.OperationsStartAndRetire : Prop := Claims.OperationsTakeTheirTurn ∧ Claims.TransfersAndPairsTakeEffect ∧ Claims.TileStoresAndSheavesReachMemory

/-- TRD and TWR move a tile's bytes (R176, R177); SHEAF numbers the operations since the last one, and MWAIT goes on or sleeps by the
sheaf word (R186, R187). -/
def Obligations.TilesAndSheaves : Prop := Claims.TileReadsAndWrites ∧ Claims.SheavesNumberAndWait

/-- COPY hands a descriptor that passes its check to the engine with a status (R155 to R157); an element lands at its destination, in memory or
a tile, and nowhere else, and is counted on the stile; one that meets PROT, PEER_GONE or POISON ends the copy; and a copy whose elements
have all landed goes after adding 1 to its completion word (R158 to R160). That the index i0 runs fastest (log 21), that a descriptor's
trap names the present lanes (log 19), and that a stile poisoned before keeps its CAUSE (log 49) are the model's choices. -/
def Obligations.CopiesMoveTheirElements : Prop := Claims.CopiesAreHandedOver ∧ Claims.CopyElementsLand

/-- MSGSEND and LAUNCH leave the part with a status (R161, R163, R364); a message is accepted or refused at its target, and the oldest
accepted one starts its handler gang (R162, R316, R317). That it goes to
the first running workgroup of the launch on the core is the model's choice (log 34). -/
def Obligations.MessagesAndLaunches : Prop := Claims.MessagesAndLaunchesLeave ∧ Claims.MessagesReachTheirHandlers

/-- DTURN asks for a turn and DSTAT reads the droveway (R164, R165, R308); droves only turn, at most 8 in a step, above the floor
(R307, R309); ports, planes and connections change as R375, R376 and R381 say, and an atomic whose answer a dying plane lost takes
PEER_GONE with AUX 3 (R377). Whether the peer had applied it is free (log 7);
that a retrained port is up is the model's reading (log 42). -/
def Obligations.DrovewayPortsAndPlanes : Prop := Claims.DrovewayWordsAskAndRead ∧ Claims.PortsPlanesAndDroves

/-- SCRIPT packets load and run scripts (R366); script ops act on their registers (R367), and SLD, SST, SSIG and SENQ reach memory,
signals and queues or end the packet with SCRIPTFAULT (R369). That its
step index counts from 0, and that a misaligned address faults, is the model's reading (log 38). -/
def Obligations.ScriptsLoadAndRun : Prop := Claims.ScriptPacketsLoadAndRun ∧ Claims.ScriptOpsActOnTheirRegisters ∧ Claims.ScriptWordsReachMemory

/-- NOP, SIGNAL, COPY, TLBINV and LAUNCH packets start in their order (R352 to R354, R230); a packet that fails a check ends with
REJECTED and has no effect: its fields, its signals, its header and its ASID (R349, R352, R387, R405); and an aborted queue skips its
packets (R356). That TLBINV aborts a transaction that would write an old frame (log 48), and that the ASID is checked before the slot is
read (log 37), is the model's choice. -/
def Obligations.PacketsStartOrAreRefused : Prop := Claims.PacketsStart ∧ Claims.TlbinvDropsItsRange ∧ Claims.PacketsAreRefusedAtTheirStart

/-- A BARRIER ends, waits or aborts its queue by its signals (R355, R356), as a packet's bad end does; a completion record goes to the ring
field by field, then the packet's signals are updated by its end (R354, R358); a doorbell write in range becomes WIDX (R348). Which of
several ended packets completes first is free (log 37). -/
def Obligations.BarriersCompletionsAndDoorbells : Prop := Claims.BadEndsAbortTheQueue ∧ Claims.BarriersWaitForTheirSignals ∧ Claims.CompletionsAndDoorbells

/-- Walks fill the TLBs of the cores that wait, lines arrive and serve their reads, a released buffer reads zero, the last
acknowledgement lets ICINV go on (R133, R223, R229, R314, R394); page faults are notified to the driver, and its answer
serves the page (R232, R233). That one response index serves both dies (log 37), and that a filled entry stands first in its TLB
(log 46), is the model's choice. -/
def Obligations.WalksFillsAndPageFaults : Prop := Claims.WalksFillsAndAnswersArrive ∧ Claims.PageFaultsAreNotifiedAndServed

/-- Harvest work is evicted for an unmet G need, one under a save when that is over (R31), its bale written piece by piece, and its
workgroup restarts from the bale (R328 to R330, R333); the dispatcher places paddocks in its order, a launch under the ASID's entry as it
starts (R353, R387), writes the slots of a saved one and restores it (R361 to R363). -/
def Obligations.HarvestAndPaddocksMove : Prop := Claims.HarvestWorkIsEvictedAndRestarts ∧ Claims.PaddocksArePlacedSavedAndRestored

/-- Notices wake and doom, polls repeat, and a self-waiting context ends (R145, R274, R276, R278, R279, R283, R284); power-on, power loss,
thermal trip, uncorrectable errors, and gating of ways, banks and quadrants (R318, R395 to R400). That a notice spares the holder of the
serial token (log 30), that memory reads 0 after a power loss (log 1), that a slice drops every line when a way is gated (log 4), and what
stands as a report's address (log 17) is the model's reading. -/
def Obligations.TimersSupplyAndGating : Prop := Claims.NoticesAndTimersWake ∧ Claims.PowerErrorsAndGating

/-- Requests of peers, critical ones in the order of their numbers, and the host's accesses are performed at their home and answered,
or refused by the fault, or wait with a stall notice (R371, R372, R374, R376, R378, R379, R381 to R383). That an access that the host's
page table refuses gets a NAK as a whole (log 7), a misaligned atomic too, and that a stalled request is served when a notice is due
(log 29), is the model's choice. -/
def Obligations.PeersAndTheHostAreServed : Prop := Claims.PeerRequestsAreServed ∧ Claims.HostAccessesArePerformed
end

