-- ==== Sys2Proof/Laws/Map.lean ====
section
/-! SUPPORT. Laws of the sparse maps: what a map holds after a write, and that the operations keep the canonical form. -/

namespace Sys2Proof.Machine

@[simp] theorem SMap.get_nil {α : Type} (d : α) (i : Nat) : SMap.get d [] i = d := rfl

variable {α : Type} [DecidableEq α] {d : α}

theorem SMap.get_put_same (m : SMap α) (i : Nat) (x : α) (h : SMap.wf d m = true) :
    SMap.get d (SMap.put d m i x) i = x := by
  induction m with
  | nil => by_cases hx : x = d <;> simp [SMap.put, SMap.get, hx]
  | cons e m ih =>
    obtain ⟨k, v⟩ := e
    simp only [SMap.wf, Bool.and_eq_true] at h
    obtain ⟨⟨hv, hk⟩, hm⟩ := h
    -- a key below the head is not listed
    have low : ∀ m' : SMap α, SMap.wf d m' = true → (∀ e ∈ m'.head?, i < e.1) → SMap.get d m' i = d := by
      intro m'
      induction m' with
      | nil => intros; rfl
      | cons e m' ih' =>
        intro hw hh
        obtain ⟨k', v'⟩ := e
        simp only [SMap.wf, Bool.and_eq_true] at hw
        have hlt : i < k' := hh _ rfl
        have : i ≠ k' := by omega
        simp only [SMap.get, this, if_false]
        apply ih' hw.2
        intro e he
        cases m' with
        | nil => simp at he
        | cons e' m'' =>
          obtain ⟨k'', v''⟩ := e'
          simp at he; subst he
          have := hw.1.2; simp at this; show i < k''; omega
    unfold SMap.put
    by_cases h1 : i < k
    · rw [if_pos h1]
      by_cases hx : x = d
      · have : i ≠ k := by omega
        rw [if_pos hx, hx]
        apply low _ (by simp only [SMap.wf, Bool.and_eq_true]; exact ⟨⟨hv, hk⟩, hm⟩)
        intro e he; simp at he; subst he; exact h1
      · simp [hx, SMap.get]
    · rw [if_neg h1]
      by_cases h2 : i = k
      · subst h2
        by_cases hx : x = d
        · simp only [if_true, hx]
          apply low _ hm
          intro e he
          cases m with
          | nil => simp at he
          | cons e' m'' =>
            obtain ⟨k'', v''⟩ := e'
            simp at he; subst he
            simpa using hk
        · simp [hx, SMap.get]
      · simp [h2, SMap.get, ih hm]

theorem SMap.get_put_other (m : SMap α) (i j : Nat) (x : α) (h : j ≠ i) :
    SMap.get d (SMap.put d m i x) j = SMap.get d m j := by
  induction m with
  | nil => by_cases hx : x = d <;> simp [SMap.put, SMap.get, hx, h]
  | cons e m ih =>
    obtain ⟨k, v⟩ := e
    unfold SMap.put
    split
    · split
      · rfl
      · simp [SMap.get, h]
    · split
      · rename_i h2
        subst h2
        split <;> simp [SMap.get, h]
      · by_cases hj : j = k
        · simp [SMap.get, hj]
        · simp [SMap.get, hj, ih]

theorem SMap.head_put (m : SMap α) (i : Nat) (x : α) (lo : Nat) (hi : lo < i) (hm : ∀ e ∈ m.head?, lo < e.1)
    (hw : SMap.wf d m = true) : ∀ e ∈ (SMap.put d m i x).head?, lo < e.1 := by
  intro e he
  cases m with
  | nil => by_cases hx : x = d <;> simp [SMap.put, hx] at he; subst he; exact hi
  | cons e' m =>
    obtain ⟨k, v⟩ := e'
    have hk : lo < k := hm _ rfl
    unfold SMap.put at he
    split at he
    · split at he <;> simp at he <;> subst he <;> assumption
    · split at he
      · split at he
        · cases m with
          | nil => simp at he
          | cons e'' m =>
            obtain ⟨k', v'⟩ := e''
            simp [SMap.wf] at hw
            simp at he; subst he; show lo < k'; omega
        · simp at he; subst he; exact hi
      · simp at he; subst he; exact hk

theorem SMap.put_wf (m : SMap α) (i : Nat) (x : α) (h : SMap.wf d m = true) :
    SMap.wf d (SMap.put d m i x) = true := by
  induction m with
  | nil => by_cases hx : x = d <;> simp [SMap.put, SMap.wf, hx]
  | cons e m ih =>
    obtain ⟨k, v⟩ := e
    have hw := h
    simp only [SMap.wf, Bool.and_eq_true, decide_eq_true_eq] at h
    obtain ⟨⟨hv, hk⟩, hm⟩ := h
    unfold SMap.put
    split
    · rename_i hik
      split
      · exact hw
      · rename_i hx
        simp only [SMap.wf, Bool.and_eq_true, decide_eq_true_eq]
        exact ⟨⟨hx, hik⟩, ⟨hv, hk⟩, hm⟩
    · split
      · rename_i hik
        subst hik
        split
        · exact hm
        · rename_i hx
          simp only [SMap.wf, Bool.and_eq_true, decide_eq_true_eq]
          exact ⟨⟨hx, hk⟩, hm⟩
      · rename_i h1 h2
        have hlt : k < i := by omega
        have hd : ∀ e ∈ m.head?, k < e.1 := by
          intro e he
          cases m with
          | nil => simp at he
          | cons e' m' => simp at he; subst he; simpa using hk
        have hp := SMap.head_put m i x k hlt hd hm
        have hq := ih hm
        cases hput : SMap.put d m i x with
        | nil => simp [SMap.wf, hv]
        | cons e' m' =>
          rw [hput] at hp hq
          simp only [SMap.wf, Bool.and_eq_true, decide_eq_true_eq]
          exact ⟨⟨hv, hp _ rfl⟩, by simpa only [SMap.wf, Bool.and_eq_true, decide_eq_true_eq] using hq⟩

theorem SMap.putAll_wf (m : SMap α) (i : Nat) (xs : List α) (h : SMap.wf d m = true) :
    SMap.wf d (SMap.putAll d m i xs) = true := by
  induction xs generalizing m i with
  | nil => exact h
  | cons x xs ih => exact ih _ _ (SMap.put_wf m i x h)

/-- What a map holds after a list of values has been written at consecutive keys. -/
theorem SMap.get_putAll (m : SMap α) (i j : Nat) (xs : List α) (h : SMap.wf d m = true) :
    SMap.get d (SMap.putAll d m i xs) j = if i ≤ j ∧ j < i + xs.length then xs.getD (j - i) d else SMap.get d m j := by
  induction xs generalizing m i with
  | nil => rw [if_neg (by simp only [List.length_nil]; omega), SMap.putAll]
  | cons x xs ih =>
    rw [SMap.putAll, ih _ _ (SMap.put_wf m i x h)]
    by_cases hji : j = i
    · subst hji
      rw [SMap.get_put_same m j x h, if_neg (by omega), if_pos (by simp)]
      simp
    · rw [SMap.get_put_other m i j x hji]
      by_cases hc : i + 1 ≤ j ∧ j < i + 1 + xs.length
      · have h2 : i ≤ j ∧ j < i + (x :: xs).length := by simp; omega
        rw [if_pos hc, if_pos h2]
        have : j - i = (j - (i + 1)) + 1 := by omega
        rw [this, List.getD_cons_succ]
      · have h2 : ¬(i ≤ j ∧ j < i + (x :: xs).length) := by simp; omega
        rw [if_neg hc, if_neg h2]

theorem SMap.wf_tail {e : Nat × α} {m : SMap α} (h : SMap.wf d (e :: m) = true) : SMap.wf d m = true := by
  obtain ⟨k, v⟩ := e
  simp only [SMap.wf, Bool.and_eq_true] at h
  exact h.2

/-- Every key behind the head of a canonical map is above it. -/
theorem SMap.wf_above {k : Nat} {v : α} {m : SMap α} (h : SMap.wf d ((k, v) :: m) = true) : ∀ e ∈ m, k < e.1 := by
  induction m generalizing k v with
  | nil => simp
  | cons e' m ih =>
    obtain ⟨k', v'⟩ := e'
    intro e he
    have hk : k < k' := by simp [SMap.wf] at h; exact h.1.2
    rcases List.mem_cons.1 he with rfl | he
    · exact hk
    · exact Nat.lt_trans hk (ih (SMap.wf_tail h) e he)

theorem SMap.filter_wf (m : SMap α) (p : Nat × α → Bool) (h : SMap.wf d m = true) :
    SMap.wf d (m.filter p) = true := by
  induction m with
  | nil => rfl
  | cons e m ih =>
    obtain ⟨k, v⟩ := e
    have hm := ih (SMap.wf_tail h)
    by_cases hp : p (k, v)
    · rw [List.filter_cons_of_pos hp]
      have hv : v ≠ d := by simp [SMap.wf] at h; exact h.1.1
      have ha := SMap.wf_above h
      cases hf : m.filter p with
      | nil => simp [SMap.wf, hv]
      | cons e' m' =>
        obtain ⟨k', v'⟩ := e'
        have hin : (k', v') ∈ m := (List.mem_filter.1 (hf ▸ List.mem_cons_self)).1
        rw [hf] at hm
        simp only [SMap.wf, Bool.and_eq_true, decide_eq_true_eq]
        exact ⟨⟨hv, ha _ hin⟩, by simpa only [SMap.wf, Bool.and_eq_true, decide_eq_true_eq] using hm⟩
    · rw [List.filter_cons_of_neg hp]; exact hm

theorem SMap.clear_wf (m : SMap α) (lo hi : Nat) (h : SMap.wf d m = true) : SMap.wf d (SMap.clear m lo hi) = true :=
  SMap.filter_wf m _ h

omit [DecidableEq α] in
theorem SMap.get_clear (m : SMap α) (lo hi j : Nat) :
    SMap.get d (SMap.clear m lo hi) j = if lo ≤ j ∧ j < hi then d else SMap.get d m j := by
  induction m with
  | nil => simp [SMap.clear]
  | cons e m ih =>
    obtain ⟨k, v⟩ := e
    unfold SMap.clear at ih ⊢
    by_cases hk : k < lo ∨ hi ≤ k
    · have : (decide (k < lo) || decide (hi ≤ k)) = true := by simpa using hk
      rw [List.filter_cons_of_pos (by simpa using hk)]
      by_cases hj : j = k
      · subst hj
        have : ¬(lo ≤ j ∧ j < hi) := by omega
        simp [SMap.get, this]
      · simp only [SMap.get, hj, if_false, ih]
    · rw [List.filter_cons_of_neg (by simpa using hk), ih]
      by_cases hj : j = k
      · subst hj
        have : lo ≤ j ∧ j < hi := by omega
        simp [this]
      · simp only [SMap.get, hj, if_false]

@[simp] theorem lookupKey_nil {α : Type} (i : Nat) : lookupKey ([] : List (Nat × α)) i = none := rfl

theorem leBytes_length (n x : Nat) : (leBytes n x).length = n := by
  induction n generalizing x with
  | zero => rfl
  | succ n ih => simp [leBytes, ih]

/-- The number read back from its little-endian bytes. -/
theorem leNat_leBytes (n x : Nat) : leNat (leBytes n x) = x % 256 ^ n := by
  induction n generalizing x with
  | zero => simp [leBytes, leNat, Nat.mod_one]
  | succ n ih =>
    have : (BitVec.ofNat 8 x).toNat = x % 256 := by simp
    rw [leBytes, leNat, ih, this, Nat.pow_succ, Nat.mul_comm (256 ^ n) 256, Nat.mod_mul]

end Sys2Proof.Machine
end

