-- ==== Sys2Proof/Laws/State.lean ====
section
/-! SUPPORT. What the small updates of the state leave as it was, one lemma per field, and what they write. -/

namespace Sys2Proof.Machine

/-! ## State.setG -/

@[simp] theorem State.setG_gang (s : State) (i : Nat) (x : Word64) : (s.setG i x).gang = s.gang := rfl
@[simp] theorem State.setG_wg (s : State) (i : Nat) (x : Word64) : (s.setG i x).wg = s.wg := rfl
@[simp] theorem State.setG_ctx (s : State) (i : Nat) (x : Word64) : (s.setG i x).ctx = s.ctx := rfl
@[simp] theorem State.setG_core (s : State) (i : Nat) (x : Word64) : (s.setG i x).core = s.core := rfl
@[simp] theorem State.setG_parts (s : State) (i : Nat) (x : Word64) : (s.setG i x).parts = s.parts := rfl
@[simp] theorem State.setG_gangs (s : State) (i : Nat) (x : Word64) : (s.setG i x).gangs = s.gangs := rfl
@[simp] theorem State.setG_wgs (s : State) (i : Nat) (x : Word64) : (s.setG i x).wgs = s.wgs := rfl
@[simp] theorem State.setG_ctxs (s : State) (i : Nat) (x : Word64) : (s.setG i x).ctxs = s.ctxs := rfl
@[simp] theorem State.setG_cores (s : State) (i : Nat) (x : Word64) : (s.setG i x).cores = s.cores := rfl
@[simp] theorem State.setG_scr (s : State) (i : Nat) (x : Word64) : (s.setG i x).scr = s.scr := rfl
@[simp] theorem State.setG_scripts (s : State) (i : Nat) (x : Word64) : (s.setG i x).scripts = s.scripts := rfl
@[simp] theorem State.setG_agenda (s : State) (i : Nat) (x : Word64) : (s.setG i x).agenda = s.agenda := rfl
@[simp] theorem State.setG_tick (s : State) (i : Nat) (x : Word64) : (s.setG i x).tick = s.tick := rfl
@[simp] theorem State.setG_nextId (s : State) (i : Nat) (x : Word64) : (s.setG i x).nextId = s.nextId := rfl
@[simp] theorem State.setG_mem (s : State) (i : Nat) (x : Word64) : (s.setG i x).mem = s.mem := rfl
@[simp] theorem State.setG_poisoned (s : State) (i : Nat) (x : Word64) : (s.setG i x).poisoned = s.poisoned := rfl
@[simp] theorem State.setG_replaced (s : State) (i : Nat) (x : Word64) : (s.setG i x).replaced = s.replaced := rfl
@[simp] theorem State.setG_tags (s : State) (i : Nat) (x : Word64) : (s.setG i x).tags = s.tags := rfl
@[simp] theorem State.setG_resident (s : State) (i : Nat) (x : Word64) : (s.setG i x).resident = s.resident := rfl
@[simp] theorem State.setG_misses (s : State) (i : Nat) (x : Word64) : (s.setG i x).misses = s.misses := rfl
@[simp] theorem State.setG_ingress (s : State) (i : Nat) (x : Word64) : (s.setG i x).ingress = s.ingress := rfl
@[simp] theorem State.setG_sectors (s : State) (i : Nat) (x : Word64) : (s.setG i x).sectors = s.sectors := rfl
@[simp] theorem State.setG_narrow (s : State) (i : Nat) (x : Word64) : (s.setG i x).narrow = s.narrow := rfl
@[simp] theorem State.setG_fills (s : State) (i : Nat) (x : Word64) : (s.setG i x).fills = s.fills := rfl
@[simp] theorem State.setG_gatedWays (s : State) (i : Nat) (x : Word64) : (s.setG i x).gatedWays = s.gatedWays := rfl
@[simp] theorem State.setG_gatedBanks (s : State) (i : Nat) (x : Word64) : (s.setG i x).gatedBanks = s.gatedBanks := rfl
@[simp] theorem State.setG_walks (s : State) (i : Nat) (x : Word64) : (s.setG i x).walks = s.walks := rfl
@[simp] theorem State.setG_walkFaults (s : State) (i : Nat) (x : Word64) : (s.setG i x).walkFaults = s.walkFaults := rfl
@[simp] theorem State.setG_walkCache (s : State) (i : Nat) (x : Word64) : (s.setG i x).walkCache = s.walkCache := rfl
@[simp] theorem State.setG_notifications (s : State) (i : Nat) (x : Word64) : (s.setG i x).notifications = s.notifications := rfl
@[simp] theorem State.setG_engineWaits (s : State) (i : Nat) (x : Word64) : (s.setG i x).engineWaits = s.engineWaits := rfl
@[simp] theorem State.setG_refusals (s : State) (i : Nat) (x : Word64) : (s.setG i x).refusals = s.refusals := rfl
@[simp] theorem State.setG_versions (s : State) (i : Nat) (x : Word64) : (s.setG i x).versions = s.versions := rfl
@[simp] theorem State.setG_stamps (s : State) (i : Nat) (x : Word64) : (s.setG i x).stamps = s.stamps := rfl
@[simp] theorem State.setG_floors (s : State) (i : Nat) (x : Word64) : (s.setG i x).floors = s.floors := rfl
@[simp] theorem State.setG_notices (s : State) (i : Nat) (x : Word64) : (s.setG i x).notices = s.notices := rfl
@[simp] theorem State.setG_holds (s : State) (i : Nat) (x : Word64) : (s.setG i x).holds = s.holds := rfl
@[simp] theorem State.setG_messages (s : State) (i : Nat) (x : Word64) : (s.setG i x).messages = s.messages := rfl
@[simp] theorem State.setG_copies (s : State) (i : Nat) (x : Word64) : (s.setG i x).copies = s.copies := rfl
@[simp] theorem State.setG_owned (s : State) (i : Nat) (x : Word64) : (s.setG i x).owned = s.owned := rfl
@[simp] theorem State.setG_ownedTiles (s : State) (i : Nat) (x : Word64) : (s.setG i x).ownedTiles = s.ownedTiles := rfl
@[simp] theorem State.setG_spills (s : State) (i : Nat) (x : Word64) : (s.setG i x).spills = s.spills := rfl
@[simp] theorem State.setG_saves (s : State) (i : Nat) (x : Word64) : (s.setG i x).saves = s.saves := rfl
@[simp] theorem State.setG_zeroing (s : State) (i : Nat) (x : Word64) : (s.setG i x).zeroing = s.zeroing := rfl
@[simp] theorem State.setG_hedges (s : State) (i : Nat) (x : Word64) : (s.setG i x).hedges = s.hedges := rfl
@[simp] theorem State.setG_lastHedges (s : State) (i : Nat) (x : Word64) : (s.setG i x).lastHedges = s.lastHedges := rfl
@[simp] theorem State.setG_queues (s : State) (i : Nat) (x : Word64) : (s.setG i x).queues = s.queues := rfl
@[simp] theorem State.setG_drove (s : State) (i : Nat) (x : Word64) : (s.setG i x).drove = s.drove := rfl
@[simp] theorem State.setG_ports (s : State) (i : Nat) (x : Word64) : (s.setG i x).ports = s.ports := rfl
@[simp] theorem State.setG_fabric (s : State) (i : Nat) (x : Word64) : (s.setG i x).fabric = s.fabric := rfl
@[simp] theorem State.setG_dead (s : State) (i : Nat) (x : Word64) : (s.setG i x).dead = s.dead := rfl
@[simp] theorem State.setG_critical (s : State) (i : Nat) (x : Word64) : (s.setG i x).critical = s.critical := rfl
@[simp] theorem State.setG_criticalHeld (s : State) (i : Nat) (x : Word64) : (s.setG i x).criticalHeld = s.criticalHeld := rfl
@[simp] theorem State.setG_hostUp (s : State) (i : Nat) (x : Word64) : (s.setG i x).hostUp = s.hostUp := rfl
@[simp] theorem State.setG_connections (s : State) (i : Nat) (x : Word64) : (s.setG i x).connections = s.connections := rfl
@[simp] theorem State.setG_peers (s : State) (i : Nat) (x : Word64) : (s.setG i x).peers = s.peers := rfl
@[simp] theorem State.setG_criticalSent (s : State) (i : Nat) (x : Word64) : (s.setG i x).criticalSent = s.criticalSent := rfl
@[simp] theorem State.setG_sentCount (s : State) (i : Nat) (x : Word64) : (s.setG i x).sentCount = s.sentCount := rfl
@[simp] theorem State.setG_applied (s : State) (i : Nat) (x : Word64) : (s.setG i x).applied = s.applied := rfl
@[simp] theorem State.setG_closed (s : State) (i : Nat) (x : Word64) : (s.setG i x).closed = s.closed := rfl
@[simp] theorem State.setG_hostQueue (s : State) (i : Nat) (x : Word64) : (s.setG i x).hostQueue = s.hostQueue := rfl
@[simp] theorem State.setG_mgmt (s : State) (i : Nat) (x : Word64) : (s.setG i x).mgmt = s.mgmt := rfl
@[simp] theorem State.setG_outbox (s : State) (i : Nat) (x : Word64) : (s.setG i x).outbox = s.outbox := rfl
@[simp] theorem State.setG_boot (s : State) (i : Nat) (x : Word64) : (s.setG i x).boot = s.boot := rfl
@[simp] theorem State.setG_form (s : State) (i : Nat) (x : Word64) : (s.setG i x).form = s.form := rfl
@[simp] theorem State.setG_fuse0 (s : State) (i : Nat) (x : Word64) : (s.setG i x).fuse0 = s.fuse0 := rfl
@[simp] theorem State.setG_fuse1 (s : State) (i : Nat) (x : Word64) : (s.setG i x).fuse1 = s.fuse1 := rfl

/-! ## State.advance -/

@[simp] theorem State.advance_gang (s : State) : (s.advance).gang = s.gang := rfl
@[simp] theorem State.advance_wg (s : State) : (s.advance).wg = s.wg := rfl
@[simp] theorem State.advance_ctx (s : State) : (s.advance).ctx = s.ctx := rfl
@[simp] theorem State.advance_core (s : State) : (s.advance).core = s.core := rfl
@[simp] theorem State.advance_parts (s : State) : (s.advance).parts = s.parts := rfl
@[simp] theorem State.advance_gangs (s : State) : (s.advance).gangs = s.gangs := rfl
@[simp] theorem State.advance_wgs (s : State) : (s.advance).wgs = s.wgs := rfl
@[simp] theorem State.advance_ctxs (s : State) : (s.advance).ctxs = s.ctxs := rfl
@[simp] theorem State.advance_cores (s : State) : (s.advance).cores = s.cores := rfl
@[simp] theorem State.advance_scr (s : State) : (s.advance).scr = s.scr := rfl
@[simp] theorem State.advance_scripts (s : State) : (s.advance).scripts = s.scripts := rfl
@[simp] theorem State.advance_agenda (s : State) : (s.advance).agenda = s.agenda := rfl
@[simp] theorem State.advance_tick (s : State) : (s.advance).tick = s.tick := rfl
@[simp] theorem State.advance_nextId (s : State) : (s.advance).nextId = s.nextId := rfl
@[simp] theorem State.advance_mem (s : State) : (s.advance).mem = s.mem := rfl
@[simp] theorem State.advance_poisoned (s : State) : (s.advance).poisoned = s.poisoned := rfl
@[simp] theorem State.advance_replaced (s : State) : (s.advance).replaced = s.replaced := rfl
@[simp] theorem State.advance_tags (s : State) : (s.advance).tags = s.tags := rfl
@[simp] theorem State.advance_resident (s : State) : (s.advance).resident = s.resident := rfl
@[simp] theorem State.advance_misses (s : State) : (s.advance).misses = s.misses := rfl
@[simp] theorem State.advance_ingress (s : State) : (s.advance).ingress = s.ingress := rfl
@[simp] theorem State.advance_sectors (s : State) : (s.advance).sectors = s.sectors := rfl
@[simp] theorem State.advance_narrow (s : State) : (s.advance).narrow = s.narrow := rfl
@[simp] theorem State.advance_fills (s : State) : (s.advance).fills = s.fills := rfl
@[simp] theorem State.advance_gatedWays (s : State) : (s.advance).gatedWays = s.gatedWays := rfl
@[simp] theorem State.advance_gatedBanks (s : State) : (s.advance).gatedBanks = s.gatedBanks := rfl
@[simp] theorem State.advance_walks (s : State) : (s.advance).walks = s.walks := rfl
@[simp] theorem State.advance_walkFaults (s : State) : (s.advance).walkFaults = s.walkFaults := rfl
@[simp] theorem State.advance_walkCache (s : State) : (s.advance).walkCache = s.walkCache := rfl
@[simp] theorem State.advance_notifications (s : State) : (s.advance).notifications = s.notifications := rfl
@[simp] theorem State.advance_engineWaits (s : State) : (s.advance).engineWaits = s.engineWaits := rfl
@[simp] theorem State.advance_refusals (s : State) : (s.advance).refusals = s.refusals := rfl
@[simp] theorem State.advance_versions (s : State) : (s.advance).versions = s.versions := rfl
@[simp] theorem State.advance_stamps (s : State) : (s.advance).stamps = s.stamps := rfl
@[simp] theorem State.advance_floors (s : State) : (s.advance).floors = s.floors := rfl
@[simp] theorem State.advance_notices (s : State) : (s.advance).notices = s.notices := rfl
@[simp] theorem State.advance_holds (s : State) : (s.advance).holds = s.holds := rfl
@[simp] theorem State.advance_messages (s : State) : (s.advance).messages = s.messages := rfl
@[simp] theorem State.advance_copies (s : State) : (s.advance).copies = s.copies := rfl
@[simp] theorem State.advance_owned (s : State) : (s.advance).owned = s.owned := rfl
@[simp] theorem State.advance_ownedTiles (s : State) : (s.advance).ownedTiles = s.ownedTiles := rfl
@[simp] theorem State.advance_spills (s : State) : (s.advance).spills = s.spills := rfl
@[simp] theorem State.advance_saves (s : State) : (s.advance).saves = s.saves := rfl
@[simp] theorem State.advance_zeroing (s : State) : (s.advance).zeroing = s.zeroing := rfl
@[simp] theorem State.advance_hedges (s : State) : (s.advance).hedges = s.hedges := rfl
@[simp] theorem State.advance_lastHedges (s : State) : (s.advance).lastHedges = s.lastHedges := rfl
@[simp] theorem State.advance_queues (s : State) : (s.advance).queues = s.queues := rfl
@[simp] theorem State.advance_drove (s : State) : (s.advance).drove = s.drove := rfl
@[simp] theorem State.advance_ports (s : State) : (s.advance).ports = s.ports := rfl
@[simp] theorem State.advance_fabric (s : State) : (s.advance).fabric = s.fabric := rfl
@[simp] theorem State.advance_dead (s : State) : (s.advance).dead = s.dead := rfl
@[simp] theorem State.advance_critical (s : State) : (s.advance).critical = s.critical := rfl
@[simp] theorem State.advance_criticalHeld (s : State) : (s.advance).criticalHeld = s.criticalHeld := rfl
@[simp] theorem State.advance_hostUp (s : State) : (s.advance).hostUp = s.hostUp := rfl
@[simp] theorem State.advance_connections (s : State) : (s.advance).connections = s.connections := rfl
@[simp] theorem State.advance_peers (s : State) : (s.advance).peers = s.peers := rfl
@[simp] theorem State.advance_criticalSent (s : State) : (s.advance).criticalSent = s.criticalSent := rfl
@[simp] theorem State.advance_sentCount (s : State) : (s.advance).sentCount = s.sentCount := rfl
@[simp] theorem State.advance_applied (s : State) : (s.advance).applied = s.applied := rfl
@[simp] theorem State.advance_closed (s : State) : (s.advance).closed = s.closed := rfl
@[simp] theorem State.advance_hostQueue (s : State) : (s.advance).hostQueue = s.hostQueue := rfl
@[simp] theorem State.advance_mgmt (s : State) : (s.advance).mgmt = s.mgmt := rfl
@[simp] theorem State.advance_outbox (s : State) : (s.advance).outbox = s.outbox := rfl
@[simp] theorem State.advance_boot (s : State) : (s.advance).boot = s.boot := rfl
@[simp] theorem State.advance_form (s : State) : (s.advance).form = s.form := rfl
@[simp] theorem State.advance_fuse0 (s : State) : (s.advance).fuse0 = s.fuse0 := rfl
@[simp] theorem State.advance_fuse1 (s : State) : (s.advance).fuse1 = s.fuse1 := rfl

/-! ## State.jump -/

@[simp] theorem State.jump_gang (s : State) (a : Word64) : (s.jump a).gang = s.gang := rfl
@[simp] theorem State.jump_wg (s : State) (a : Word64) : (s.jump a).wg = s.wg := rfl
@[simp] theorem State.jump_ctx (s : State) (a : Word64) : (s.jump a).ctx = s.ctx := rfl
@[simp] theorem State.jump_core (s : State) (a : Word64) : (s.jump a).core = s.core := rfl
@[simp] theorem State.jump_parts (s : State) (a : Word64) : (s.jump a).parts = s.parts := rfl
@[simp] theorem State.jump_gangs (s : State) (a : Word64) : (s.jump a).gangs = s.gangs := rfl
@[simp] theorem State.jump_wgs (s : State) (a : Word64) : (s.jump a).wgs = s.wgs := rfl
@[simp] theorem State.jump_ctxs (s : State) (a : Word64) : (s.jump a).ctxs = s.ctxs := rfl
@[simp] theorem State.jump_cores (s : State) (a : Word64) : (s.jump a).cores = s.cores := rfl
@[simp] theorem State.jump_scr (s : State) (a : Word64) : (s.jump a).scr = s.scr := rfl
@[simp] theorem State.jump_scripts (s : State) (a : Word64) : (s.jump a).scripts = s.scripts := rfl
@[simp] theorem State.jump_agenda (s : State) (a : Word64) : (s.jump a).agenda = s.agenda := rfl
@[simp] theorem State.jump_tick (s : State) (a : Word64) : (s.jump a).tick = s.tick := rfl
@[simp] theorem State.jump_nextId (s : State) (a : Word64) : (s.jump a).nextId = s.nextId := rfl
@[simp] theorem State.jump_mem (s : State) (a : Word64) : (s.jump a).mem = s.mem := rfl
@[simp] theorem State.jump_poisoned (s : State) (a : Word64) : (s.jump a).poisoned = s.poisoned := rfl
@[simp] theorem State.jump_replaced (s : State) (a : Word64) : (s.jump a).replaced = s.replaced := rfl
@[simp] theorem State.jump_tags (s : State) (a : Word64) : (s.jump a).tags = s.tags := rfl
@[simp] theorem State.jump_resident (s : State) (a : Word64) : (s.jump a).resident = s.resident := rfl
@[simp] theorem State.jump_misses (s : State) (a : Word64) : (s.jump a).misses = s.misses := rfl
@[simp] theorem State.jump_ingress (s : State) (a : Word64) : (s.jump a).ingress = s.ingress := rfl
@[simp] theorem State.jump_sectors (s : State) (a : Word64) : (s.jump a).sectors = s.sectors := rfl
@[simp] theorem State.jump_narrow (s : State) (a : Word64) : (s.jump a).narrow = s.narrow := rfl
@[simp] theorem State.jump_fills (s : State) (a : Word64) : (s.jump a).fills = s.fills := rfl
@[simp] theorem State.jump_gatedWays (s : State) (a : Word64) : (s.jump a).gatedWays = s.gatedWays := rfl
@[simp] theorem State.jump_gatedBanks (s : State) (a : Word64) : (s.jump a).gatedBanks = s.gatedBanks := rfl
@[simp] theorem State.jump_walks (s : State) (a : Word64) : (s.jump a).walks = s.walks := rfl
@[simp] theorem State.jump_walkFaults (s : State) (a : Word64) : (s.jump a).walkFaults = s.walkFaults := rfl
@[simp] theorem State.jump_walkCache (s : State) (a : Word64) : (s.jump a).walkCache = s.walkCache := rfl
@[simp] theorem State.jump_notifications (s : State) (a : Word64) : (s.jump a).notifications = s.notifications := rfl
@[simp] theorem State.jump_engineWaits (s : State) (a : Word64) : (s.jump a).engineWaits = s.engineWaits := rfl
@[simp] theorem State.jump_refusals (s : State) (a : Word64) : (s.jump a).refusals = s.refusals := rfl
@[simp] theorem State.jump_versions (s : State) (a : Word64) : (s.jump a).versions = s.versions := rfl
@[simp] theorem State.jump_stamps (s : State) (a : Word64) : (s.jump a).stamps = s.stamps := rfl
@[simp] theorem State.jump_floors (s : State) (a : Word64) : (s.jump a).floors = s.floors := rfl
@[simp] theorem State.jump_notices (s : State) (a : Word64) : (s.jump a).notices = s.notices := rfl
@[simp] theorem State.jump_holds (s : State) (a : Word64) : (s.jump a).holds = s.holds := rfl
@[simp] theorem State.jump_messages (s : State) (a : Word64) : (s.jump a).messages = s.messages := rfl
@[simp] theorem State.jump_copies (s : State) (a : Word64) : (s.jump a).copies = s.copies := rfl
@[simp] theorem State.jump_owned (s : State) (a : Word64) : (s.jump a).owned = s.owned := rfl
@[simp] theorem State.jump_ownedTiles (s : State) (a : Word64) : (s.jump a).ownedTiles = s.ownedTiles := rfl
@[simp] theorem State.jump_spills (s : State) (a : Word64) : (s.jump a).spills = s.spills := rfl
@[simp] theorem State.jump_saves (s : State) (a : Word64) : (s.jump a).saves = s.saves := rfl
@[simp] theorem State.jump_zeroing (s : State) (a : Word64) : (s.jump a).zeroing = s.zeroing := rfl
@[simp] theorem State.jump_hedges (s : State) (a : Word64) : (s.jump a).hedges = s.hedges := rfl
@[simp] theorem State.jump_lastHedges (s : State) (a : Word64) : (s.jump a).lastHedges = s.lastHedges := rfl
@[simp] theorem State.jump_queues (s : State) (a : Word64) : (s.jump a).queues = s.queues := rfl
@[simp] theorem State.jump_drove (s : State) (a : Word64) : (s.jump a).drove = s.drove := rfl
@[simp] theorem State.jump_ports (s : State) (a : Word64) : (s.jump a).ports = s.ports := rfl
@[simp] theorem State.jump_fabric (s : State) (a : Word64) : (s.jump a).fabric = s.fabric := rfl
@[simp] theorem State.jump_dead (s : State) (a : Word64) : (s.jump a).dead = s.dead := rfl
@[simp] theorem State.jump_critical (s : State) (a : Word64) : (s.jump a).critical = s.critical := rfl
@[simp] theorem State.jump_criticalHeld (s : State) (a : Word64) : (s.jump a).criticalHeld = s.criticalHeld := rfl
@[simp] theorem State.jump_hostUp (s : State) (a : Word64) : (s.jump a).hostUp = s.hostUp := rfl
@[simp] theorem State.jump_connections (s : State) (a : Word64) : (s.jump a).connections = s.connections := rfl
@[simp] theorem State.jump_peers (s : State) (a : Word64) : (s.jump a).peers = s.peers := rfl
@[simp] theorem State.jump_criticalSent (s : State) (a : Word64) : (s.jump a).criticalSent = s.criticalSent := rfl
@[simp] theorem State.jump_sentCount (s : State) (a : Word64) : (s.jump a).sentCount = s.sentCount := rfl
@[simp] theorem State.jump_applied (s : State) (a : Word64) : (s.jump a).applied = s.applied := rfl
@[simp] theorem State.jump_closed (s : State) (a : Word64) : (s.jump a).closed = s.closed := rfl
@[simp] theorem State.jump_hostQueue (s : State) (a : Word64) : (s.jump a).hostQueue = s.hostQueue := rfl
@[simp] theorem State.jump_mgmt (s : State) (a : Word64) : (s.jump a).mgmt = s.mgmt := rfl
@[simp] theorem State.jump_outbox (s : State) (a : Word64) : (s.jump a).outbox = s.outbox := rfl
@[simp] theorem State.jump_boot (s : State) (a : Word64) : (s.jump a).boot = s.boot := rfl
@[simp] theorem State.jump_form (s : State) (a : Word64) : (s.jump a).form = s.form := rfl
@[simp] theorem State.jump_fuse0 (s : State) (a : Word64) : (s.jump a).fuse0 = s.fuse0 := rfl
@[simp] theorem State.jump_fuse1 (s : State) (a : Word64) : (s.jump a).fuse1 = s.fuse1 := rfl

/-! ## State.stall -/

@[simp] theorem State.stall_gang (s : State) (w : Stall) : (s.stall w).gang = s.gang := rfl
@[simp] theorem State.stall_wg (s : State) (w : Stall) : (s.stall w).wg = s.wg := rfl
@[simp] theorem State.stall_ctx (s : State) (w : Stall) : (s.stall w).ctx = s.ctx := rfl
@[simp] theorem State.stall_core (s : State) (w : Stall) : (s.stall w).core = s.core := rfl
@[simp] theorem State.stall_parts (s : State) (w : Stall) : (s.stall w).parts = s.parts := rfl
@[simp] theorem State.stall_gangs (s : State) (w : Stall) : (s.stall w).gangs = s.gangs := rfl
@[simp] theorem State.stall_wgs (s : State) (w : Stall) : (s.stall w).wgs = s.wgs := rfl
@[simp] theorem State.stall_ctxs (s : State) (w : Stall) : (s.stall w).ctxs = s.ctxs := rfl
@[simp] theorem State.stall_cores (s : State) (w : Stall) : (s.stall w).cores = s.cores := rfl
@[simp] theorem State.stall_scr (s : State) (w : Stall) : (s.stall w).scr = s.scr := rfl
@[simp] theorem State.stall_scripts (s : State) (w : Stall) : (s.stall w).scripts = s.scripts := rfl
@[simp] theorem State.stall_agenda (s : State) (w : Stall) : (s.stall w).agenda = s.agenda := rfl
@[simp] theorem State.stall_tick (s : State) (w : Stall) : (s.stall w).tick = s.tick := rfl
@[simp] theorem State.stall_nextId (s : State) (w : Stall) : (s.stall w).nextId = s.nextId := rfl
@[simp] theorem State.stall_mem (s : State) (w : Stall) : (s.stall w).mem = s.mem := rfl
@[simp] theorem State.stall_poisoned (s : State) (w : Stall) : (s.stall w).poisoned = s.poisoned := rfl
@[simp] theorem State.stall_replaced (s : State) (w : Stall) : (s.stall w).replaced = s.replaced := rfl
@[simp] theorem State.stall_tags (s : State) (w : Stall) : (s.stall w).tags = s.tags := rfl
@[simp] theorem State.stall_resident (s : State) (w : Stall) : (s.stall w).resident = s.resident := rfl
@[simp] theorem State.stall_misses (s : State) (w : Stall) : (s.stall w).misses = s.misses := rfl
@[simp] theorem State.stall_ingress (s : State) (w : Stall) : (s.stall w).ingress = s.ingress := rfl
@[simp] theorem State.stall_sectors (s : State) (w : Stall) : (s.stall w).sectors = s.sectors := rfl
@[simp] theorem State.stall_narrow (s : State) (w : Stall) : (s.stall w).narrow = s.narrow := rfl
@[simp] theorem State.stall_fills (s : State) (w : Stall) : (s.stall w).fills = s.fills := rfl
@[simp] theorem State.stall_gatedWays (s : State) (w : Stall) : (s.stall w).gatedWays = s.gatedWays := rfl
@[simp] theorem State.stall_gatedBanks (s : State) (w : Stall) : (s.stall w).gatedBanks = s.gatedBanks := rfl
@[simp] theorem State.stall_walks (s : State) (w : Stall) : (s.stall w).walks = s.walks := rfl
@[simp] theorem State.stall_walkFaults (s : State) (w : Stall) : (s.stall w).walkFaults = s.walkFaults := rfl
@[simp] theorem State.stall_walkCache (s : State) (w : Stall) : (s.stall w).walkCache = s.walkCache := rfl
@[simp] theorem State.stall_notifications (s : State) (w : Stall) : (s.stall w).notifications = s.notifications := rfl
@[simp] theorem State.stall_engineWaits (s : State) (w : Stall) : (s.stall w).engineWaits = s.engineWaits := rfl
@[simp] theorem State.stall_refusals (s : State) (w : Stall) : (s.stall w).refusals = s.refusals := rfl
@[simp] theorem State.stall_versions (s : State) (w : Stall) : (s.stall w).versions = s.versions := rfl
@[simp] theorem State.stall_stamps (s : State) (w : Stall) : (s.stall w).stamps = s.stamps := rfl
@[simp] theorem State.stall_floors (s : State) (w : Stall) : (s.stall w).floors = s.floors := rfl
@[simp] theorem State.stall_notices (s : State) (w : Stall) : (s.stall w).notices = s.notices := rfl
@[simp] theorem State.stall_holds (s : State) (w : Stall) : (s.stall w).holds = s.holds := rfl
@[simp] theorem State.stall_messages (s : State) (w : Stall) : (s.stall w).messages = s.messages := rfl
@[simp] theorem State.stall_copies (s : State) (w : Stall) : (s.stall w).copies = s.copies := rfl
@[simp] theorem State.stall_owned (s : State) (w : Stall) : (s.stall w).owned = s.owned := rfl
@[simp] theorem State.stall_ownedTiles (s : State) (w : Stall) : (s.stall w).ownedTiles = s.ownedTiles := rfl
@[simp] theorem State.stall_spills (s : State) (w : Stall) : (s.stall w).spills = s.spills := rfl
@[simp] theorem State.stall_saves (s : State) (w : Stall) : (s.stall w).saves = s.saves := rfl
@[simp] theorem State.stall_zeroing (s : State) (w : Stall) : (s.stall w).zeroing = s.zeroing := rfl
@[simp] theorem State.stall_hedges (s : State) (w : Stall) : (s.stall w).hedges = s.hedges := rfl
@[simp] theorem State.stall_lastHedges (s : State) (w : Stall) : (s.stall w).lastHedges = s.lastHedges := rfl
@[simp] theorem State.stall_queues (s : State) (w : Stall) : (s.stall w).queues = s.queues := rfl
@[simp] theorem State.stall_drove (s : State) (w : Stall) : (s.stall w).drove = s.drove := rfl
@[simp] theorem State.stall_ports (s : State) (w : Stall) : (s.stall w).ports = s.ports := rfl
@[simp] theorem State.stall_fabric (s : State) (w : Stall) : (s.stall w).fabric = s.fabric := rfl
@[simp] theorem State.stall_dead (s : State) (w : Stall) : (s.stall w).dead = s.dead := rfl
@[simp] theorem State.stall_critical (s : State) (w : Stall) : (s.stall w).critical = s.critical := rfl
@[simp] theorem State.stall_criticalHeld (s : State) (w : Stall) : (s.stall w).criticalHeld = s.criticalHeld := rfl
@[simp] theorem State.stall_hostUp (s : State) (w : Stall) : (s.stall w).hostUp = s.hostUp := rfl
@[simp] theorem State.stall_connections (s : State) (w : Stall) : (s.stall w).connections = s.connections := rfl
@[simp] theorem State.stall_peers (s : State) (w : Stall) : (s.stall w).peers = s.peers := rfl
@[simp] theorem State.stall_criticalSent (s : State) (w : Stall) : (s.stall w).criticalSent = s.criticalSent := rfl
@[simp] theorem State.stall_sentCount (s : State) (w : Stall) : (s.stall w).sentCount = s.sentCount := rfl
@[simp] theorem State.stall_applied (s : State) (w : Stall) : (s.stall w).applied = s.applied := rfl
@[simp] theorem State.stall_closed (s : State) (w : Stall) : (s.stall w).closed = s.closed := rfl
@[simp] theorem State.stall_hostQueue (s : State) (w : Stall) : (s.stall w).hostQueue = s.hostQueue := rfl
@[simp] theorem State.stall_mgmt (s : State) (w : Stall) : (s.stall w).mgmt = s.mgmt := rfl
@[simp] theorem State.stall_outbox (s : State) (w : Stall) : (s.stall w).outbox = s.outbox := rfl
@[simp] theorem State.stall_boot (s : State) (w : Stall) : (s.stall w).boot = s.boot := rfl
@[simp] theorem State.stall_form (s : State) (w : Stall) : (s.stall w).form = s.form := rfl
@[simp] theorem State.stall_fuse0 (s : State) (w : Stall) : (s.stall w).fuse0 = s.fuse0 := rfl
@[simp] theorem State.stall_fuse1 (s : State) (w : Stall) : (s.stall w).fuse1 = s.fuse1 := rfl

/-! ## State.emit -/

@[simp] theorem State.emit_gang (s : State) (ws : List (Nat × Word32)) (qs : List (Nat × Bool)) (fl : BitVec 6) (n : Nat) : (s.emit ws qs fl n).gang = s.gang := rfl
@[simp] theorem State.emit_wg (s : State) (ws : List (Nat × Word32)) (qs : List (Nat × Bool)) (fl : BitVec 6) (n : Nat) : (s.emit ws qs fl n).wg = s.wg := rfl
@[simp] theorem State.emit_ctx (s : State) (ws : List (Nat × Word32)) (qs : List (Nat × Bool)) (fl : BitVec 6) (n : Nat) : (s.emit ws qs fl n).ctx = s.ctx := rfl
@[simp] theorem State.emit_core (s : State) (ws : List (Nat × Word32)) (qs : List (Nat × Bool)) (fl : BitVec 6) (n : Nat) : (s.emit ws qs fl n).core = s.core := rfl
@[simp] theorem State.emit_parts (s : State) (ws : List (Nat × Word32)) (qs : List (Nat × Bool)) (fl : BitVec 6) (n : Nat) : (s.emit ws qs fl n).parts = s.parts := rfl
@[simp] theorem State.emit_gangs (s : State) (ws : List (Nat × Word32)) (qs : List (Nat × Bool)) (fl : BitVec 6) (n : Nat) : (s.emit ws qs fl n).gangs = s.gangs := rfl
@[simp] theorem State.emit_wgs (s : State) (ws : List (Nat × Word32)) (qs : List (Nat × Bool)) (fl : BitVec 6) (n : Nat) : (s.emit ws qs fl n).wgs = s.wgs := rfl
@[simp] theorem State.emit_ctxs (s : State) (ws : List (Nat × Word32)) (qs : List (Nat × Bool)) (fl : BitVec 6) (n : Nat) : (s.emit ws qs fl n).ctxs = s.ctxs := rfl
@[simp] theorem State.emit_cores (s : State) (ws : List (Nat × Word32)) (qs : List (Nat × Bool)) (fl : BitVec 6) (n : Nat) : (s.emit ws qs fl n).cores = s.cores := rfl
@[simp] theorem State.emit_scr (s : State) (ws : List (Nat × Word32)) (qs : List (Nat × Bool)) (fl : BitVec 6) (n : Nat) : (s.emit ws qs fl n).scr = s.scr := rfl
@[simp] theorem State.emit_scripts (s : State) (ws : List (Nat × Word32)) (qs : List (Nat × Bool)) (fl : BitVec 6) (n : Nat) : (s.emit ws qs fl n).scripts = s.scripts := rfl
@[simp] theorem State.emit_agenda (s : State) (ws : List (Nat × Word32)) (qs : List (Nat × Bool)) (fl : BitVec 6) (n : Nat) : (s.emit ws qs fl n).agenda = s.agenda := rfl
@[simp] theorem State.emit_tick (s : State) (ws : List (Nat × Word32)) (qs : List (Nat × Bool)) (fl : BitVec 6) (n : Nat) : (s.emit ws qs fl n).tick = s.tick := rfl
@[simp] theorem State.emit_mem (s : State) (ws : List (Nat × Word32)) (qs : List (Nat × Bool)) (fl : BitVec 6) (n : Nat) : (s.emit ws qs fl n).mem = s.mem := rfl
@[simp] theorem State.emit_poisoned (s : State) (ws : List (Nat × Word32)) (qs : List (Nat × Bool)) (fl : BitVec 6) (n : Nat) : (s.emit ws qs fl n).poisoned = s.poisoned := rfl
@[simp] theorem State.emit_replaced (s : State) (ws : List (Nat × Word32)) (qs : List (Nat × Bool)) (fl : BitVec 6) (n : Nat) : (s.emit ws qs fl n).replaced = s.replaced := rfl
@[simp] theorem State.emit_tags (s : State) (ws : List (Nat × Word32)) (qs : List (Nat × Bool)) (fl : BitVec 6) (n : Nat) : (s.emit ws qs fl n).tags = s.tags := rfl
@[simp] theorem State.emit_resident (s : State) (ws : List (Nat × Word32)) (qs : List (Nat × Bool)) (fl : BitVec 6) (n : Nat) : (s.emit ws qs fl n).resident = s.resident := rfl
@[simp] theorem State.emit_misses (s : State) (ws : List (Nat × Word32)) (qs : List (Nat × Bool)) (fl : BitVec 6) (n : Nat) : (s.emit ws qs fl n).misses = s.misses := rfl
@[simp] theorem State.emit_ingress (s : State) (ws : List (Nat × Word32)) (qs : List (Nat × Bool)) (fl : BitVec 6) (n : Nat) : (s.emit ws qs fl n).ingress = s.ingress := rfl
@[simp] theorem State.emit_sectors (s : State) (ws : List (Nat × Word32)) (qs : List (Nat × Bool)) (fl : BitVec 6) (n : Nat) : (s.emit ws qs fl n).sectors = s.sectors := rfl
@[simp] theorem State.emit_narrow (s : State) (ws : List (Nat × Word32)) (qs : List (Nat × Bool)) (fl : BitVec 6) (n : Nat) : (s.emit ws qs fl n).narrow = s.narrow := rfl
@[simp] theorem State.emit_fills (s : State) (ws : List (Nat × Word32)) (qs : List (Nat × Bool)) (fl : BitVec 6) (n : Nat) : (s.emit ws qs fl n).fills = s.fills := rfl
@[simp] theorem State.emit_gatedWays (s : State) (ws : List (Nat × Word32)) (qs : List (Nat × Bool)) (fl : BitVec 6) (n : Nat) : (s.emit ws qs fl n).gatedWays = s.gatedWays := rfl
@[simp] theorem State.emit_gatedBanks (s : State) (ws : List (Nat × Word32)) (qs : List (Nat × Bool)) (fl : BitVec 6) (n : Nat) : (s.emit ws qs fl n).gatedBanks = s.gatedBanks := rfl
@[simp] theorem State.emit_walks (s : State) (ws : List (Nat × Word32)) (qs : List (Nat × Bool)) (fl : BitVec 6) (n : Nat) : (s.emit ws qs fl n).walks = s.walks := rfl
@[simp] theorem State.emit_walkFaults (s : State) (ws : List (Nat × Word32)) (qs : List (Nat × Bool)) (fl : BitVec 6) (n : Nat) : (s.emit ws qs fl n).walkFaults = s.walkFaults := rfl
@[simp] theorem State.emit_walkCache (s : State) (ws : List (Nat × Word32)) (qs : List (Nat × Bool)) (fl : BitVec 6) (n : Nat) : (s.emit ws qs fl n).walkCache = s.walkCache := rfl
@[simp] theorem State.emit_notifications (s : State) (ws : List (Nat × Word32)) (qs : List (Nat × Bool)) (fl : BitVec 6) (n : Nat) : (s.emit ws qs fl n).notifications = s.notifications := rfl
@[simp] theorem State.emit_engineWaits (s : State) (ws : List (Nat × Word32)) (qs : List (Nat × Bool)) (fl : BitVec 6) (n : Nat) : (s.emit ws qs fl n).engineWaits = s.engineWaits := rfl
@[simp] theorem State.emit_refusals (s : State) (ws : List (Nat × Word32)) (qs : List (Nat × Bool)) (fl : BitVec 6) (n : Nat) : (s.emit ws qs fl n).refusals = s.refusals := rfl
@[simp] theorem State.emit_versions (s : State) (ws : List (Nat × Word32)) (qs : List (Nat × Bool)) (fl : BitVec 6) (n : Nat) : (s.emit ws qs fl n).versions = s.versions := rfl
@[simp] theorem State.emit_stamps (s : State) (ws : List (Nat × Word32)) (qs : List (Nat × Bool)) (fl : BitVec 6) (n : Nat) : (s.emit ws qs fl n).stamps = s.stamps := rfl
@[simp] theorem State.emit_floors (s : State) (ws : List (Nat × Word32)) (qs : List (Nat × Bool)) (fl : BitVec 6) (n : Nat) : (s.emit ws qs fl n).floors = s.floors := rfl
@[simp] theorem State.emit_notices (s : State) (ws : List (Nat × Word32)) (qs : List (Nat × Bool)) (fl : BitVec 6) (n : Nat) : (s.emit ws qs fl n).notices = s.notices := rfl
@[simp] theorem State.emit_holds (s : State) (ws : List (Nat × Word32)) (qs : List (Nat × Bool)) (fl : BitVec 6) (n : Nat) : (s.emit ws qs fl n).holds = s.holds := rfl
@[simp] theorem State.emit_messages (s : State) (ws : List (Nat × Word32)) (qs : List (Nat × Bool)) (fl : BitVec 6) (n : Nat) : (s.emit ws qs fl n).messages = s.messages := rfl
@[simp] theorem State.emit_copies (s : State) (ws : List (Nat × Word32)) (qs : List (Nat × Bool)) (fl : BitVec 6) (n : Nat) : (s.emit ws qs fl n).copies = s.copies := rfl
@[simp] theorem State.emit_owned (s : State) (ws : List (Nat × Word32)) (qs : List (Nat × Bool)) (fl : BitVec 6) (n : Nat) : (s.emit ws qs fl n).owned = s.owned := rfl
@[simp] theorem State.emit_ownedTiles (s : State) (ws : List (Nat × Word32)) (qs : List (Nat × Bool)) (fl : BitVec 6) (n : Nat) : (s.emit ws qs fl n).ownedTiles = s.ownedTiles := rfl
@[simp] theorem State.emit_spills (s : State) (ws : List (Nat × Word32)) (qs : List (Nat × Bool)) (fl : BitVec 6) (n : Nat) : (s.emit ws qs fl n).spills = s.spills := rfl
@[simp] theorem State.emit_saves (s : State) (ws : List (Nat × Word32)) (qs : List (Nat × Bool)) (fl : BitVec 6) (n : Nat) : (s.emit ws qs fl n).saves = s.saves := rfl
@[simp] theorem State.emit_zeroing (s : State) (ws : List (Nat × Word32)) (qs : List (Nat × Bool)) (fl : BitVec 6) (n : Nat) : (s.emit ws qs fl n).zeroing = s.zeroing := rfl
@[simp] theorem State.emit_hedges (s : State) (ws : List (Nat × Word32)) (qs : List (Nat × Bool)) (fl : BitVec 6) (n : Nat) : (s.emit ws qs fl n).hedges = s.hedges := rfl
@[simp] theorem State.emit_lastHedges (s : State) (ws : List (Nat × Word32)) (qs : List (Nat × Bool)) (fl : BitVec 6) (n : Nat) : (s.emit ws qs fl n).lastHedges = s.lastHedges := rfl
@[simp] theorem State.emit_queues (s : State) (ws : List (Nat × Word32)) (qs : List (Nat × Bool)) (fl : BitVec 6) (n : Nat) : (s.emit ws qs fl n).queues = s.queues := rfl
@[simp] theorem State.emit_drove (s : State) (ws : List (Nat × Word32)) (qs : List (Nat × Bool)) (fl : BitVec 6) (n : Nat) : (s.emit ws qs fl n).drove = s.drove := rfl
@[simp] theorem State.emit_ports (s : State) (ws : List (Nat × Word32)) (qs : List (Nat × Bool)) (fl : BitVec 6) (n : Nat) : (s.emit ws qs fl n).ports = s.ports := rfl
@[simp] theorem State.emit_fabric (s : State) (ws : List (Nat × Word32)) (qs : List (Nat × Bool)) (fl : BitVec 6) (n : Nat) : (s.emit ws qs fl n).fabric = s.fabric := rfl
@[simp] theorem State.emit_dead (s : State) (ws : List (Nat × Word32)) (qs : List (Nat × Bool)) (fl : BitVec 6) (n : Nat) : (s.emit ws qs fl n).dead = s.dead := rfl
@[simp] theorem State.emit_critical (s : State) (ws : List (Nat × Word32)) (qs : List (Nat × Bool)) (fl : BitVec 6) (n : Nat) : (s.emit ws qs fl n).critical = s.critical := rfl
@[simp] theorem State.emit_criticalHeld (s : State) (ws : List (Nat × Word32)) (qs : List (Nat × Bool)) (fl : BitVec 6) (n : Nat) : (s.emit ws qs fl n).criticalHeld = s.criticalHeld := rfl
@[simp] theorem State.emit_hostUp (s : State) (ws : List (Nat × Word32)) (qs : List (Nat × Bool)) (fl : BitVec 6) (n : Nat) : (s.emit ws qs fl n).hostUp = s.hostUp := rfl
@[simp] theorem State.emit_connections (s : State) (ws : List (Nat × Word32)) (qs : List (Nat × Bool)) (fl : BitVec 6) (n : Nat) : (s.emit ws qs fl n).connections = s.connections := rfl
@[simp] theorem State.emit_peers (s : State) (ws : List (Nat × Word32)) (qs : List (Nat × Bool)) (fl : BitVec 6) (n : Nat) : (s.emit ws qs fl n).peers = s.peers := rfl
@[simp] theorem State.emit_criticalSent (s : State) (ws : List (Nat × Word32)) (qs : List (Nat × Bool)) (fl : BitVec 6) (n : Nat) : (s.emit ws qs fl n).criticalSent = s.criticalSent := rfl
@[simp] theorem State.emit_sentCount (s : State) (ws : List (Nat × Word32)) (qs : List (Nat × Bool)) (fl : BitVec 6) (n : Nat) : (s.emit ws qs fl n).sentCount = s.sentCount := rfl
@[simp] theorem State.emit_applied (s : State) (ws : List (Nat × Word32)) (qs : List (Nat × Bool)) (fl : BitVec 6) (n : Nat) : (s.emit ws qs fl n).applied = s.applied := rfl
@[simp] theorem State.emit_closed (s : State) (ws : List (Nat × Word32)) (qs : List (Nat × Bool)) (fl : BitVec 6) (n : Nat) : (s.emit ws qs fl n).closed = s.closed := rfl
@[simp] theorem State.emit_hostQueue (s : State) (ws : List (Nat × Word32)) (qs : List (Nat × Bool)) (fl : BitVec 6) (n : Nat) : (s.emit ws qs fl n).hostQueue = s.hostQueue := rfl
@[simp] theorem State.emit_mgmt (s : State) (ws : List (Nat × Word32)) (qs : List (Nat × Bool)) (fl : BitVec 6) (n : Nat) : (s.emit ws qs fl n).mgmt = s.mgmt := rfl
@[simp] theorem State.emit_outbox (s : State) (ws : List (Nat × Word32)) (qs : List (Nat × Bool)) (fl : BitVec 6) (n : Nat) : (s.emit ws qs fl n).outbox = s.outbox := rfl
@[simp] theorem State.emit_boot (s : State) (ws : List (Nat × Word32)) (qs : List (Nat × Bool)) (fl : BitVec 6) (n : Nat) : (s.emit ws qs fl n).boot = s.boot := rfl
@[simp] theorem State.emit_form (s : State) (ws : List (Nat × Word32)) (qs : List (Nat × Bool)) (fl : BitVec 6) (n : Nat) : (s.emit ws qs fl n).form = s.form := rfl
@[simp] theorem State.emit_fuse0 (s : State) (ws : List (Nat × Word32)) (qs : List (Nat × Bool)) (fl : BitVec 6) (n : Nat) : (s.emit ws qs fl n).fuse0 = s.fuse0 := rfl
@[simp] theorem State.emit_fuse1 (s : State) (ws : List (Nat × Word32)) (qs : List (Nat × Bool)) (fl : BitVec 6) (n : Nat) : (s.emit ws qs fl n).fuse1 = s.fuse1 := rfl

/-! ## State.putBytes -/

@[simp] theorem State.putBytes_me (s : State) (a : Nat) (bs : List Byte) : (s.putBytes a bs).me = s.me := rfl
@[simp] theorem State.putBytes_gang (s : State) (a : Nat) (bs : List Byte) : (s.putBytes a bs).gang = s.gang := rfl
@[simp] theorem State.putBytes_wg (s : State) (a : Nat) (bs : List Byte) : (s.putBytes a bs).wg = s.wg := rfl
@[simp] theorem State.putBytes_ctx (s : State) (a : Nat) (bs : List Byte) : (s.putBytes a bs).ctx = s.ctx := rfl
@[simp] theorem State.putBytes_core (s : State) (a : Nat) (bs : List Byte) : (s.putBytes a bs).core = s.core := rfl
@[simp] theorem State.putBytes_parts (s : State) (a : Nat) (bs : List Byte) : (s.putBytes a bs).parts = s.parts := rfl
@[simp] theorem State.putBytes_gangs (s : State) (a : Nat) (bs : List Byte) : (s.putBytes a bs).gangs = s.gangs := rfl
@[simp] theorem State.putBytes_wgs (s : State) (a : Nat) (bs : List Byte) : (s.putBytes a bs).wgs = s.wgs := rfl
@[simp] theorem State.putBytes_ctxs (s : State) (a : Nat) (bs : List Byte) : (s.putBytes a bs).ctxs = s.ctxs := rfl
@[simp] theorem State.putBytes_cores (s : State) (a : Nat) (bs : List Byte) : (s.putBytes a bs).cores = s.cores := rfl
@[simp] theorem State.putBytes_scr (s : State) (a : Nat) (bs : List Byte) : (s.putBytes a bs).scr = s.scr := rfl
@[simp] theorem State.putBytes_scripts (s : State) (a : Nat) (bs : List Byte) : (s.putBytes a bs).scripts = s.scripts := rfl
@[simp] theorem State.putBytes_agenda (s : State) (a : Nat) (bs : List Byte) : (s.putBytes a bs).agenda = s.agenda := rfl
@[simp] theorem State.putBytes_tick (s : State) (a : Nat) (bs : List Byte) : (s.putBytes a bs).tick = s.tick := rfl
@[simp] theorem State.putBytes_nextId (s : State) (a : Nat) (bs : List Byte) : (s.putBytes a bs).nextId = s.nextId := rfl
@[simp] theorem State.putBytes_poisoned (s : State) (a : Nat) (bs : List Byte) : (s.putBytes a bs).poisoned = s.poisoned := rfl
@[simp] theorem State.putBytes_replaced (s : State) (a : Nat) (bs : List Byte) : (s.putBytes a bs).replaced = s.replaced := rfl
@[simp] theorem State.putBytes_tags (s : State) (a : Nat) (bs : List Byte) : (s.putBytes a bs).tags = s.tags := rfl
@[simp] theorem State.putBytes_resident (s : State) (a : Nat) (bs : List Byte) : (s.putBytes a bs).resident = s.resident := rfl
@[simp] theorem State.putBytes_misses (s : State) (a : Nat) (bs : List Byte) : (s.putBytes a bs).misses = s.misses := rfl
@[simp] theorem State.putBytes_ingress (s : State) (a : Nat) (bs : List Byte) : (s.putBytes a bs).ingress = s.ingress := rfl
@[simp] theorem State.putBytes_sectors (s : State) (a : Nat) (bs : List Byte) : (s.putBytes a bs).sectors = s.sectors := rfl
@[simp] theorem State.putBytes_narrow (s : State) (a : Nat) (bs : List Byte) : (s.putBytes a bs).narrow = s.narrow := rfl
@[simp] theorem State.putBytes_fills (s : State) (a : Nat) (bs : List Byte) : (s.putBytes a bs).fills = s.fills := rfl
@[simp] theorem State.putBytes_gatedWays (s : State) (a : Nat) (bs : List Byte) : (s.putBytes a bs).gatedWays = s.gatedWays := rfl
@[simp] theorem State.putBytes_gatedBanks (s : State) (a : Nat) (bs : List Byte) : (s.putBytes a bs).gatedBanks = s.gatedBanks := rfl
@[simp] theorem State.putBytes_walks (s : State) (a : Nat) (bs : List Byte) : (s.putBytes a bs).walks = s.walks := rfl
@[simp] theorem State.putBytes_walkFaults (s : State) (a : Nat) (bs : List Byte) : (s.putBytes a bs).walkFaults = s.walkFaults := rfl
@[simp] theorem State.putBytes_walkCache (s : State) (a : Nat) (bs : List Byte) : (s.putBytes a bs).walkCache = s.walkCache := rfl
@[simp] theorem State.putBytes_notifications (s : State) (a : Nat) (bs : List Byte) : (s.putBytes a bs).notifications = s.notifications := rfl
@[simp] theorem State.putBytes_engineWaits (s : State) (a : Nat) (bs : List Byte) : (s.putBytes a bs).engineWaits = s.engineWaits := rfl
@[simp] theorem State.putBytes_refusals (s : State) (a : Nat) (bs : List Byte) : (s.putBytes a bs).refusals = s.refusals := rfl
@[simp] theorem State.putBytes_versions (s : State) (a : Nat) (bs : List Byte) : (s.putBytes a bs).versions = s.versions := rfl
@[simp] theorem State.putBytes_stamps (s : State) (a : Nat) (bs : List Byte) : (s.putBytes a bs).stamps = s.stamps := rfl
@[simp] theorem State.putBytes_floors (s : State) (a : Nat) (bs : List Byte) : (s.putBytes a bs).floors = s.floors := rfl
@[simp] theorem State.putBytes_notices (s : State) (a : Nat) (bs : List Byte) : (s.putBytes a bs).notices = s.notices := rfl
@[simp] theorem State.putBytes_holds (s : State) (a : Nat) (bs : List Byte) : (s.putBytes a bs).holds = s.holds := rfl
@[simp] theorem State.putBytes_messages (s : State) (a : Nat) (bs : List Byte) : (s.putBytes a bs).messages = s.messages := rfl
@[simp] theorem State.putBytes_copies (s : State) (a : Nat) (bs : List Byte) : (s.putBytes a bs).copies = s.copies := rfl
@[simp] theorem State.putBytes_owned (s : State) (a : Nat) (bs : List Byte) : (s.putBytes a bs).owned = s.owned := rfl
@[simp] theorem State.putBytes_ownedTiles (s : State) (a : Nat) (bs : List Byte) : (s.putBytes a bs).ownedTiles = s.ownedTiles := rfl
@[simp] theorem State.putBytes_spills (s : State) (a : Nat) (bs : List Byte) : (s.putBytes a bs).spills = s.spills := rfl
@[simp] theorem State.putBytes_saves (s : State) (a : Nat) (bs : List Byte) : (s.putBytes a bs).saves = s.saves := rfl
@[simp] theorem State.putBytes_zeroing (s : State) (a : Nat) (bs : List Byte) : (s.putBytes a bs).zeroing = s.zeroing := rfl
@[simp] theorem State.putBytes_hedges (s : State) (a : Nat) (bs : List Byte) : (s.putBytes a bs).hedges = s.hedges := rfl
@[simp] theorem State.putBytes_lastHedges (s : State) (a : Nat) (bs : List Byte) : (s.putBytes a bs).lastHedges = s.lastHedges := rfl
@[simp] theorem State.putBytes_queues (s : State) (a : Nat) (bs : List Byte) : (s.putBytes a bs).queues = s.queues := rfl
@[simp] theorem State.putBytes_drove (s : State) (a : Nat) (bs : List Byte) : (s.putBytes a bs).drove = s.drove := rfl
@[simp] theorem State.putBytes_ports (s : State) (a : Nat) (bs : List Byte) : (s.putBytes a bs).ports = s.ports := rfl
@[simp] theorem State.putBytes_fabric (s : State) (a : Nat) (bs : List Byte) : (s.putBytes a bs).fabric = s.fabric := rfl
@[simp] theorem State.putBytes_dead (s : State) (a : Nat) (bs : List Byte) : (s.putBytes a bs).dead = s.dead := rfl
@[simp] theorem State.putBytes_critical (s : State) (a : Nat) (bs : List Byte) : (s.putBytes a bs).critical = s.critical := rfl
@[simp] theorem State.putBytes_criticalHeld (s : State) (a : Nat) (bs : List Byte) : (s.putBytes a bs).criticalHeld = s.criticalHeld := rfl
@[simp] theorem State.putBytes_hostUp (s : State) (a : Nat) (bs : List Byte) : (s.putBytes a bs).hostUp = s.hostUp := rfl
@[simp] theorem State.putBytes_connections (s : State) (a : Nat) (bs : List Byte) : (s.putBytes a bs).connections = s.connections := rfl
@[simp] theorem State.putBytes_peers (s : State) (a : Nat) (bs : List Byte) : (s.putBytes a bs).peers = s.peers := rfl
@[simp] theorem State.putBytes_criticalSent (s : State) (a : Nat) (bs : List Byte) : (s.putBytes a bs).criticalSent = s.criticalSent := rfl
@[simp] theorem State.putBytes_sentCount (s : State) (a : Nat) (bs : List Byte) : (s.putBytes a bs).sentCount = s.sentCount := rfl
@[simp] theorem State.putBytes_applied (s : State) (a : Nat) (bs : List Byte) : (s.putBytes a bs).applied = s.applied := rfl
@[simp] theorem State.putBytes_closed (s : State) (a : Nat) (bs : List Byte) : (s.putBytes a bs).closed = s.closed := rfl
@[simp] theorem State.putBytes_hostQueue (s : State) (a : Nat) (bs : List Byte) : (s.putBytes a bs).hostQueue = s.hostQueue := rfl
@[simp] theorem State.putBytes_mgmt (s : State) (a : Nat) (bs : List Byte) : (s.putBytes a bs).mgmt = s.mgmt := rfl
@[simp] theorem State.putBytes_outbox (s : State) (a : Nat) (bs : List Byte) : (s.putBytes a bs).outbox = s.outbox := rfl
@[simp] theorem State.putBytes_boot (s : State) (a : Nat) (bs : List Byte) : (s.putBytes a bs).boot = s.boot := rfl
@[simp] theorem State.putBytes_form (s : State) (a : Nat) (bs : List Byte) : (s.putBytes a bs).form = s.form := rfl
@[simp] theorem State.putBytes_fuse0 (s : State) (a : Nat) (bs : List Byte) : (s.putBytes a bs).fuse0 = s.fuse0 := rfl
@[simp] theorem State.putBytes_fuse1 (s : State) (a : Nat) (bs : List Byte) : (s.putBytes a bs).fuse1 = s.fuse1 := rfl

/-! ## The part in hand -/

@[simp] theorem Part.setG_id (p : Part) (i : Nat) (x : Word64) : (p.setG i x).id = p.id := by
  unfold Part.setG; split <;> rfl
@[simp] theorem Part.setG_gang (p : Part) (i : Nat) (x : Word64) : (p.setG i x).gang = p.gang := by
  unfold Part.setG; split <;> rfl
@[simp] theorem Part.setG_state (p : Part) (i : Nat) (x : Word64) : (p.setG i x).state = p.state := by
  unfold Part.setG; split <;> rfl
@[simp] theorem Part.setG_pc (p : Part) (i : Nat) (x : Word64) : (p.setG i x).pc = p.pc := by
  unfold Part.setG; split <;> rfl
@[simp] theorem Part.setG_slices (p : Part) (i : Nat) (x : Word64) : (p.setG i x).slices = p.slices := by
  unfold Part.setG; split <;> rfl
@[simp] theorem Part.setG_act (p : Part) (i : Nat) (x : Word64) : (p.setG i x).act = p.act := by
  unfold Part.setG; split <;> rfl
@[simp] theorem Part.setG_hide (p : Part) (i : Nat) (x : Word64) : (p.setG i x).hide = p.hide := by
  unfold Part.setG; split <;> rfl
@[simp] theorem Part.setG_drain (p : Part) (i : Nat) (x : Word64) : (p.setG i x).drain = p.drain := by
  unfold Part.setG; split <;> rfl
@[simp] theorem Part.setG_xcode (p : Part) (i : Nat) (x : Word64) : (p.setG i x).xcode = p.xcode := by
  unfold Part.setG; split <;> rfl
@[simp] theorem Part.setG_xlevel (p : Part) (i : Nat) (x : Word64) : (p.setG i x).xlevel = p.xlevel := by
  unfold Part.setG; split <;> rfl
@[simp] theorem Part.setG_consec (p : Part) (i : Nat) (x : Word64) : (p.setG i x).consec = p.consec := by
  unfold Part.setG; split <;> rfl
@[simp] theorem Part.setG_serial (p : Part) (i : Nat) (x : Word64) : (p.setG i x).serial = p.serial := by
  unfold Part.setG; split <;> rfl
@[simp] theorem Part.setG_levels (p : Part) (i : Nat) (x : Word64) : (p.setG i x).levels = p.levels := by
  unfold Part.setG; split <;> rfl
@[simp] theorem Part.setG_doomed (p : Part) (i : Nat) (x : Word64) : (p.setG i x).doomed = p.doomed := by
  unfold Part.setG; split <;> rfl
@[simp] theorem Part.setG_lastStart (p : Part) (i : Nat) (x : Word64) : (p.setG i x).lastStart = p.lastStart := by
  unfold Part.setG; split <;> rfl
@[simp] theorem Part.setG_inFurrow (p : Part) (i : Nat) (x : Word64) : (p.setG i x).inFurrow = p.inFurrow := by
  unfold Part.setG; split <;> rfl
@[simp] theorem Part.setG_restarted (p : Part) (i : Nat) (x : Word64) : (p.setG i x).restarted = p.restarted := by
  unfold Part.setG; split <;> rfl
@[simp] theorem Part.setG_deferred (p : Part) (i : Nat) (x : Word64) : (p.setG i x).deferred = p.deferred := by
  unfold Part.setG; split <;> rfl
@[simp] theorem Part.setG_recording (p : Part) (i : Nat) (x : Word64) : (p.setG i x).recording = p.recording := by
  unfold Part.setG; split <;> rfl
@[simp] theorem Part.setG_badG (p : Part) (i : Nat) (x : Word64) : (p.setG i x).badG = p.badG := by
  unfold Part.setG; split <;> rfl
@[simp] theorem Part.setG_fending (p : Part) (i : Nat) (x : Word64) : (p.setG i x).fending = p.fending := by
  unfold Part.setG; split <;> rfl
@[simp] theorem Part.setG_stack (p : Part) (i : Nat) (x : Word64) : (p.setG i x).stack = p.stack := by
  unfold Part.setG; split <;> rfl
@[simp] theorem Part.setG_tiLanes (p : Part) (i : Nat) (x : Word64) : (p.setG i x).tiLanes = p.tiLanes := by
  unfold Part.setG; split <;> rfl
@[simp] theorem Part.setG_tiAux (p : Part) (i : Nat) (x : Word64) : (p.setG i x).tiAux = p.tiAux := by
  unfold Part.setG; split <;> rfl
@[simp] theorem Part.setG_tiCode (p : Part) (i : Nat) (x : Word64) : (p.setG i x).tiCode = p.tiCode := by
  unfold Part.setG; split <;> rfl
@[simp] theorem Part.setG_inflight (p : Part) (i : Nat) (x : Word64) : (p.setG i x).inflight = p.inflight := by
  unfold Part.setG; split <;> rfl
@[simp] theorem Part.setG_parked (p : Part) (i : Nat) (x : Word64) : (p.setG i x).parked = p.parked := by
  unfold Part.setG; split <;> rfl
@[simp] theorem Part.setG_replay (p : Part) (i : Nat) (x : Word64) : (p.setG i x).replay = p.replay := by
  unfold Part.setG; split <;> rfl
@[simp] theorem Part.setG_pending (p : Part) (i : Nat) (x : Word64) : (p.setG i x).pending = p.pending := by
  unfold Part.setG; split <;> rfl
@[simp] theorem Part.setG_got (p : Part) (i : Nat) (x : Word64) : (p.setG i x).got = p.got := by
  unfold Part.setG; split <;> rfl
@[simp] theorem Part.setG_trap (p : Part) (i : Nat) (x : Word64) : (p.setG i x).trap = p.trap := by
  unfold Part.setG; split <;> rfl
@[simp] theorem Part.setG_sleep (p : Part) (i : Nat) (x : Word64) : (p.setG i x).sleep = p.sleep := by
  unfold Part.setG; split <;> rfl
@[simp] theorem Part.setG_restart (p : Part) (i : Nat) (x : Word64) : (p.setG i x).restart = p.restart := by
  unfold Part.setG; split <;> rfl
@[simp] theorem Part.setG_restack (p : Part) (i : Nat) (x : Word64) : (p.setG i x).restack = p.restack := by
  unfold Part.setG; split <;> rfl
@[simp] theorem Part.setG_lastIssue (p : Part) (i : Nat) (x : Word64) : (p.setG i x).lastIssue = p.lastIssue := by
  unfold Part.setG; split <;> rfl
@[simp] theorem Part.setG_lastTick (p : Part) (i : Nat) (x : Word64) : (p.setG i x).lastTick = p.lastTick := by
  unfold Part.setG; split <;> rfl
@[simp] theorem Part.setG_acks (p : Part) (i : Nat) (x : Word64) : (p.setG i x).acks = p.acks := by
  unfold Part.setG; split <;> rfl
@[simp] theorem Part.setG_second (p : Part) (i : Nat) (x : Word64) : (p.setG i x).second = p.second := by
  unfold Part.setG; split <;> rfl
@[simp] theorem Part.setG_ending (p : Part) (i : Nat) (x : Word64) : (p.setG i x).ending = p.ending := by
  unfold Part.setG; split <;> rfl

@[simp] theorem State.advance_me_id (s : State) : s.advance.me.id = s.me.id := rfl
@[simp] theorem State.advance_me_gang (s : State) : s.advance.me.gang = s.me.gang := rfl
@[simp] theorem State.advance_me_state (s : State) : s.advance.me.state = s.me.state := rfl
@[simp] theorem State.advance_me_pc (s : State) : s.advance.me.pc = s.me.pc + 8 := rfl
@[simp] theorem State.advance_me_g (s : State) : s.advance.me.g = s.me.g := rfl
@[simp] theorem State.advance_me_slices (s : State) : s.advance.me.slices = s.me.slices := rfl
@[simp] theorem State.advance_me_act (s : State) : s.advance.me.act = s.me.act := rfl
@[simp] theorem State.advance_me_hide (s : State) : s.advance.me.hide = s.me.hide := rfl
@[simp] theorem State.advance_me_drain (s : State) : s.advance.me.drain = s.me.drain := rfl
@[simp] theorem State.advance_me_xcode (s : State) : s.advance.me.xcode = s.me.xcode := rfl
@[simp] theorem State.advance_me_xlevel (s : State) : s.advance.me.xlevel = s.me.xlevel := rfl
@[simp] theorem State.advance_me_consec (s : State) : s.advance.me.consec = s.me.consec := rfl
@[simp] theorem State.advance_me_serial (s : State) : s.advance.me.serial = s.me.serial := rfl
@[simp] theorem State.advance_me_levels (s : State) : s.advance.me.levels = s.me.levels := rfl
@[simp] theorem State.advance_me_doomed (s : State) : s.advance.me.doomed = s.me.doomed := rfl
@[simp] theorem State.advance_me_lastStart (s : State) : s.advance.me.lastStart = s.me.lastStart := rfl
@[simp] theorem State.advance_me_inFurrow (s : State) : s.advance.me.inFurrow = s.me.inFurrow := rfl
@[simp] theorem State.advance_me_restarted (s : State) : s.advance.me.restarted = s.me.restarted := rfl
@[simp] theorem State.advance_me_deferred (s : State) : s.advance.me.deferred = s.me.deferred := rfl
@[simp] theorem State.advance_me_recording (s : State) : s.advance.me.recording = s.me.recording := rfl
@[simp] theorem State.advance_me_badG (s : State) : s.advance.me.badG = s.me.badG := rfl
@[simp] theorem State.advance_me_fending (s : State) : s.advance.me.fending = s.me.fending := rfl
@[simp] theorem State.advance_me_stack (s : State) : s.advance.me.stack = s.me.stack := rfl
@[simp] theorem State.advance_me_tiLanes (s : State) : s.advance.me.tiLanes = s.me.tiLanes := rfl
@[simp] theorem State.advance_me_tiAux (s : State) : s.advance.me.tiAux = s.me.tiAux := rfl
@[simp] theorem State.advance_me_tiCode (s : State) : s.advance.me.tiCode = s.me.tiCode := rfl
@[simp] theorem State.advance_me_inflight (s : State) : s.advance.me.inflight = s.me.inflight := rfl
@[simp] theorem State.advance_me_parked (s : State) : s.advance.me.parked = s.me.parked := rfl
@[simp] theorem State.advance_me_replay (s : State) : s.advance.me.replay = s.me.replay := rfl
@[simp] theorem State.advance_me_pending (s : State) : s.advance.me.pending = s.me.pending := rfl
@[simp] theorem State.advance_me_got (s : State) : s.advance.me.got = s.me.got := rfl
@[simp] theorem State.advance_me_trap (s : State) : s.advance.me.trap = s.me.trap := rfl
@[simp] theorem State.advance_me_sleep (s : State) : s.advance.me.sleep = s.me.sleep := rfl
@[simp] theorem State.advance_me_restart (s : State) : s.advance.me.restart = s.me.restart := rfl
@[simp] theorem State.advance_me_restack (s : State) : s.advance.me.restack = s.me.restack := rfl
@[simp] theorem State.advance_me_lastIssue (s : State) : s.advance.me.lastIssue = s.me.lastIssue := rfl
@[simp] theorem State.advance_me_lastTick (s : State) : s.advance.me.lastTick = s.me.lastTick := rfl
@[simp] theorem State.advance_me_acks (s : State) : s.advance.me.acks = s.me.acks := rfl
@[simp] theorem State.advance_me_second (s : State) : s.advance.me.second = s.me.second := rfl
@[simp] theorem State.advance_me_ending (s : State) : s.advance.me.ending = s.me.ending := rfl
@[simp] theorem State.jump_me_id (s : State) (a : Word64) : (s.jump a).me.id = s.me.id := rfl
@[simp] theorem State.jump_me_gang (s : State) (a : Word64) : (s.jump a).me.gang = s.me.gang := rfl
@[simp] theorem State.jump_me_state (s : State) (a : Word64) : (s.jump a).me.state = s.me.state := rfl
@[simp] theorem State.jump_me_pc (s : State) (a : Word64) : (s.jump a).me.pc = a := rfl
@[simp] theorem State.jump_me_g (s : State) (a : Word64) : (s.jump a).me.g = s.me.g := rfl
@[simp] theorem State.jump_me_slices (s : State) (a : Word64) : (s.jump a).me.slices = s.me.slices := rfl
@[simp] theorem State.jump_me_act (s : State) (a : Word64) : (s.jump a).me.act = s.me.act := rfl
@[simp] theorem State.jump_me_hide (s : State) (a : Word64) : (s.jump a).me.hide = s.me.hide := rfl
@[simp] theorem State.jump_me_drain (s : State) (a : Word64) : (s.jump a).me.drain = s.me.drain := rfl
@[simp] theorem State.jump_me_xcode (s : State) (a : Word64) : (s.jump a).me.xcode = s.me.xcode := rfl
@[simp] theorem State.jump_me_xlevel (s : State) (a : Word64) : (s.jump a).me.xlevel = s.me.xlevel := rfl
@[simp] theorem State.jump_me_consec (s : State) (a : Word64) : (s.jump a).me.consec = s.me.consec := rfl
@[simp] theorem State.jump_me_serial (s : State) (a : Word64) : (s.jump a).me.serial = s.me.serial := rfl
@[simp] theorem State.jump_me_levels (s : State) (a : Word64) : (s.jump a).me.levels = s.me.levels := rfl
@[simp] theorem State.jump_me_doomed (s : State) (a : Word64) : (s.jump a).me.doomed = s.me.doomed := rfl
@[simp] theorem State.jump_me_lastStart (s : State) (a : Word64) : (s.jump a).me.lastStart = s.me.lastStart := rfl
@[simp] theorem State.jump_me_inFurrow (s : State) (a : Word64) : (s.jump a).me.inFurrow = s.me.inFurrow := rfl
@[simp] theorem State.jump_me_restarted (s : State) (a : Word64) : (s.jump a).me.restarted = s.me.restarted := rfl
@[simp] theorem State.jump_me_deferred (s : State) (a : Word64) : (s.jump a).me.deferred = s.me.deferred := rfl
@[simp] theorem State.jump_me_recording (s : State) (a : Word64) : (s.jump a).me.recording = s.me.recording := rfl
@[simp] theorem State.jump_me_badG (s : State) (a : Word64) : (s.jump a).me.badG = s.me.badG := rfl
@[simp] theorem State.jump_me_fending (s : State) (a : Word64) : (s.jump a).me.fending = s.me.fending := rfl
@[simp] theorem State.jump_me_stack (s : State) (a : Word64) : (s.jump a).me.stack = s.me.stack := rfl
@[simp] theorem State.jump_me_tiLanes (s : State) (a : Word64) : (s.jump a).me.tiLanes = s.me.tiLanes := rfl
@[simp] theorem State.jump_me_tiAux (s : State) (a : Word64) : (s.jump a).me.tiAux = s.me.tiAux := rfl
@[simp] theorem State.jump_me_tiCode (s : State) (a : Word64) : (s.jump a).me.tiCode = s.me.tiCode := rfl
@[simp] theorem State.jump_me_inflight (s : State) (a : Word64) : (s.jump a).me.inflight = s.me.inflight := rfl
@[simp] theorem State.jump_me_parked (s : State) (a : Word64) : (s.jump a).me.parked = s.me.parked := rfl
@[simp] theorem State.jump_me_replay (s : State) (a : Word64) : (s.jump a).me.replay = s.me.replay := rfl
@[simp] theorem State.jump_me_pending (s : State) (a : Word64) : (s.jump a).me.pending = s.me.pending := rfl
@[simp] theorem State.jump_me_got (s : State) (a : Word64) : (s.jump a).me.got = s.me.got := rfl
@[simp] theorem State.jump_me_trap (s : State) (a : Word64) : (s.jump a).me.trap = s.me.trap := rfl
@[simp] theorem State.jump_me_sleep (s : State) (a : Word64) : (s.jump a).me.sleep = s.me.sleep := rfl
@[simp] theorem State.jump_me_restart (s : State) (a : Word64) : (s.jump a).me.restart = s.me.restart := rfl
@[simp] theorem State.jump_me_restack (s : State) (a : Word64) : (s.jump a).me.restack = s.me.restack := rfl
@[simp] theorem State.jump_me_lastIssue (s : State) (a : Word64) : (s.jump a).me.lastIssue = s.me.lastIssue := rfl
@[simp] theorem State.jump_me_lastTick (s : State) (a : Word64) : (s.jump a).me.lastTick = s.me.lastTick := rfl
@[simp] theorem State.jump_me_acks (s : State) (a : Word64) : (s.jump a).me.acks = s.me.acks := rfl
@[simp] theorem State.jump_me_second (s : State) (a : Word64) : (s.jump a).me.second = s.me.second := rfl
@[simp] theorem State.jump_me_ending (s : State) (a : Word64) : (s.jump a).me.ending = s.me.ending := rfl
@[simp] theorem State.stall_me_id (s : State) (w : Stall) : (s.stall w).me.id = s.me.id := rfl
@[simp] theorem State.stall_me_gang (s : State) (w : Stall) : (s.stall w).me.gang = s.me.gang := rfl
@[simp] theorem State.stall_me_state (s : State) (w : Stall) : (s.stall w).me.state = .issued w := rfl
@[simp] theorem State.stall_me_pc (s : State) (w : Stall) : (s.stall w).me.pc = s.me.pc := rfl
@[simp] theorem State.stall_me_g (s : State) (w : Stall) : (s.stall w).me.g = s.me.g := rfl
@[simp] theorem State.stall_me_slices (s : State) (w : Stall) : (s.stall w).me.slices = s.me.slices := rfl
@[simp] theorem State.stall_me_act (s : State) (w : Stall) : (s.stall w).me.act = s.me.act := rfl
@[simp] theorem State.stall_me_hide (s : State) (w : Stall) : (s.stall w).me.hide = s.me.hide := rfl
@[simp] theorem State.stall_me_drain (s : State) (w : Stall) : (s.stall w).me.drain = s.me.drain := rfl
@[simp] theorem State.stall_me_xcode (s : State) (w : Stall) : (s.stall w).me.xcode = s.me.xcode := rfl
@[simp] theorem State.stall_me_xlevel (s : State) (w : Stall) : (s.stall w).me.xlevel = s.me.xlevel := rfl
@[simp] theorem State.stall_me_consec (s : State) (w : Stall) : (s.stall w).me.consec = s.me.consec := rfl
@[simp] theorem State.stall_me_serial (s : State) (w : Stall) : (s.stall w).me.serial = s.me.serial := rfl
@[simp] theorem State.stall_me_levels (s : State) (w : Stall) : (s.stall w).me.levels = s.me.levels := rfl
@[simp] theorem State.stall_me_doomed (s : State) (w : Stall) : (s.stall w).me.doomed = s.me.doomed := rfl
@[simp] theorem State.stall_me_lastStart (s : State) (w : Stall) : (s.stall w).me.lastStart = s.me.lastStart := rfl
@[simp] theorem State.stall_me_inFurrow (s : State) (w : Stall) : (s.stall w).me.inFurrow = s.me.inFurrow := rfl
@[simp] theorem State.stall_me_restarted (s : State) (w : Stall) : (s.stall w).me.restarted = s.me.restarted := rfl
@[simp] theorem State.stall_me_deferred (s : State) (w : Stall) : (s.stall w).me.deferred = s.me.deferred := rfl
@[simp] theorem State.stall_me_recording (s : State) (w : Stall) : (s.stall w).me.recording = s.me.recording := rfl
@[simp] theorem State.stall_me_badG (s : State) (w : Stall) : (s.stall w).me.badG = s.me.badG := rfl
@[simp] theorem State.stall_me_fending (s : State) (w : Stall) : (s.stall w).me.fending = s.me.fending := rfl
@[simp] theorem State.stall_me_stack (s : State) (w : Stall) : (s.stall w).me.stack = s.me.stack := rfl
@[simp] theorem State.stall_me_tiLanes (s : State) (w : Stall) : (s.stall w).me.tiLanes = s.me.tiLanes := rfl
@[simp] theorem State.stall_me_tiAux (s : State) (w : Stall) : (s.stall w).me.tiAux = s.me.tiAux := rfl
@[simp] theorem State.stall_me_tiCode (s : State) (w : Stall) : (s.stall w).me.tiCode = s.me.tiCode := rfl
@[simp] theorem State.stall_me_inflight (s : State) (w : Stall) : (s.stall w).me.inflight = s.me.inflight := rfl
@[simp] theorem State.stall_me_parked (s : State) (w : Stall) : (s.stall w).me.parked = s.me.parked := rfl
@[simp] theorem State.stall_me_replay (s : State) (w : Stall) : (s.stall w).me.replay = s.me.replay := rfl
@[simp] theorem State.stall_me_pending (s : State) (w : Stall) : (s.stall w).me.pending = s.me.pending := rfl
@[simp] theorem State.stall_me_got (s : State) (w : Stall) : (s.stall w).me.got = s.me.got := rfl
@[simp] theorem State.stall_me_trap (s : State) (w : Stall) : (s.stall w).me.trap = s.me.trap := rfl
@[simp] theorem State.stall_me_sleep (s : State) (w : Stall) : (s.stall w).me.sleep = s.me.sleep := rfl
@[simp] theorem State.stall_me_restart (s : State) (w : Stall) : (s.stall w).me.restart = s.me.restart := rfl
@[simp] theorem State.stall_me_restack (s : State) (w : Stall) : (s.stall w).me.restack = s.me.restack := rfl
@[simp] theorem State.stall_me_lastIssue (s : State) (w : Stall) : (s.stall w).me.lastIssue = s.me.lastIssue := rfl
@[simp] theorem State.stall_me_lastTick (s : State) (w : Stall) : (s.stall w).me.lastTick = s.me.lastTick := rfl
@[simp] theorem State.stall_me_acks (s : State) (w : Stall) : (s.stall w).me.acks = s.me.acks := rfl
@[simp] theorem State.stall_me_second (s : State) (w : Stall) : (s.stall w).me.second = s.me.second := rfl
@[simp] theorem State.stall_me_ending (s : State) (w : Stall) : (s.stall w).me.ending = s.me.ending := rfl
@[simp] theorem State.setG_me (s : State) (i : Nat) (x : Word64) : (s.setG i x).me = s.me.setG i x := rfl
@[simp] theorem State.emit_nextId (s : State) (ws : List (Nat × Word32)) (qs : List (Nat × Bool)) (fl : BitVec 6) (n : Nat) :
    (s.emit ws qs fl n).nextId = s.nextId + 1 := rfl
@[simp] theorem State.putBytes_mem (s : State) (a : Nat) (bs : List Byte) :
    (s.putBytes a bs).mem = SMap.putAll 0 s.mem a bs := rfl

/-! ## Gang registers (R15) -/

/-- g0 reads zero. -/
@[simp] theorem State.rg_zero (s : State) : s.rg 0 = 0 := rfl

/-- A write to g0 is discarded. -/
@[simp] theorem State.setG_zero (s : State) (x : Word64) : s.setG 0 x = s := rfl

/-- What a gang register reads after a write. -/
theorem State.rg_setG (s : State) (i j : Nat) (x : Word64) (hi : i < 64) :
    (s.setG i x).rg j = if j = i ∧ i ≠ 0 then x else s.rg j := by
  by_cases h0 : i = 0
  · subst h0; simp
  · by_cases hj : j = 0
    · subst hj; simp [State.rg, Ne.symm h0]
    · by_cases hij : j = i
      · subst hij
        simp [State.rg, State.setG, Part.setG, h0, Vector.getD, hi]
      · have : ¬ i = j := fun h => hij h.symm
        simp [State.rg, State.setG, Part.setG, h0, hj, hij, Vector.getD, this]

/-- Reading gang registers does not depend on the program counter. -/
@[simp] theorem State.rg_advance (s : State) (i : Nat) : s.advance.rg i = s.rg i := rfl
@[simp] theorem State.rg_jump (s : State) (a : Word64) (i : Nat) : (s.jump a).rg i = s.rg i := rfl
@[simp] theorem State.rg_stall (s : State) (w : Stall) (i : Nat) : (s.stall w).rg i = s.rg i := rfl

/-! ## The next word and a result in flight, written out -/

theorem State.advance_eq (s : State) : s.advance = { s with me := { s.me with pc := s.me.pc + 8 } } := rfl
theorem State.jump_eq (s : State) (a : Word64) : s.jump a = { s with me := { s.me with pc := a } } := rfl

/-- A lane result of one vector register: one more result in flight, and the next word. -/
theorem State.putV_eq (s : State) (d : Nat) (ls : List Nat) (f : Nat → Word32 × BitVec 6) :
    s.putV d ls f =
      { s with me := { s.me with
                 inflight := s.me.inflight ++ [{ id := s.nextId, writes := ls.map fun l => (32 * d + l, (f l).1)
                                                 flags := ls.foldl (fun a l => a ||| (f l).2) 0 }]
                 pc := s.me.pc + 8 }
               nextId := s.nextId + 1 } := rfl

/-- The same for a register pair. -/
theorem State.putVP_eq (s : State) (d : Nat) (ls : List Nat) (f : Nat → Word64 × BitVec 6) :
    s.putVP d ls f =
      { s with me := { s.me with
                 inflight := s.me.inflight ++ [{ id := s.nextId, writes := writesVP d ls fun l => (f l).1
                                                 flags := ls.foldl (fun a l => a ||| (f l).2) 0 }]
                 pc := s.me.pc + 8 }
               nextId := s.nextId + 1 } := rfl

/-- The same for a predicate. -/
theorem State.putQ_eq (s : State) (d : Nat) (ls : List Nat) (f : Nat → Bool × BitVec 6) :
    s.putQ d ls f =
      { s with me := { s.me with
                 inflight := s.me.inflight ++ [{ id := s.nextId, preds := ls.map fun l => (32 * d + l, (f l).1)
                                                 flags := ls.foldl (fun a l => a ||| (f l).2) 0 }]
                 pc := s.me.pc + 8 }
               nextId := s.nextId + 1 } := rfl

end Sys2Proof.Machine
end

