-- ==== Sys2Proof/Laws/Exec.lean ====
section
/-! SUPPORT. What the shared operations of the meanings can do, each said once: the checks that every word makes first, the
gang and lane words, waiting for lane results, raising and delivering a trap, and a hardware abort. -/

namespace Sys2Proof.Machine

/-! ## The checks of R50 -/

/-- A word that a part issues, and whose checks pass, has its effect. -/
theorem checked_ready {i : Instr} {s : State} (k : State → State) (hid : s.me.id ≠ 0) (hc : s.contextTrap i = none) :
    checked i s k = .next (k s) := by simp [checked, hid, hc]

/-- A word whose checks fail traps, whatever it would have done. -/
theorem checked_trap {i : Instr} {s : State} {code aux : Nat} (k : State → State) (hid : s.me.id ≠ 0)
    (hc : s.contextTrap i = some (code, aux)) : checked i s k = .next (s.trapAux code aux) := by simp [checked, hid, hc]

/-- Everything that a checked word can do. -/
theorem checked_cases (i : Instr) (s : State) (k : State → State) :
    (s.me.id = 0 ∧ checked i s k = .fault .noPart) ∨
    (s.me.id ≠ 0 ∧ s.contextTrap i = none ∧ checked i s k = .next (k s)) ∨
    ∃ code aux, s.me.id ≠ 0 ∧ s.contextTrap i = some (code, aux) ∧ checked i s k = .next (s.trapAux code aux) := by
  by_cases h : s.me.id = 0
  · exact .inl ⟨h, by simp [checked, h]⟩
  · rcases hc : s.contextTrap i with _ | ⟨code, aux⟩
    · exact .inr (.inl ⟨h, rfl, checked_ready k h hc⟩)
    · exact .inr (.inr ⟨code, aux, h, rfl, checked_trap k h hc⟩)

/-- A checked word that answers a next state had its effect or trapped. -/
theorem checked_next {i : Instr} {s t : State} {k : State → State} (h : checked i s k = .next t) :
    t = k s ∨ ∃ code aux, s.contextTrap i = some (code, aux) ∧ t = s.trapAux code aux := by
  rcases checked_cases i s k with ⟨-, e⟩ | ⟨-, -, e⟩ | ⟨c, a, -, hc, e⟩ <;> rw [e] at h
  · cases h
  · exact .inl (Host.Outcome.next.inj h).symm
  · exact .inr ⟨c, a, hc, (Host.Outcome.next.inj h).symm⟩

/-! ## Gang registers (R15) -/

theorem rg_zero (s : State) : s.rg 0 = 0 := rfl

theorem setG_zero (s : State) (x : Word64) : s.setG 0 x = s := rfl

theorem rg_setG_same (s : State) (i : Nat) (x : Word64) (h0 : i ≠ 0) (h : i < 64) : (s.setG i x).rg i = x := by
  simp [State.rg, State.setG, Part.setG, h0, Vector.getD, h]

theorem rg_setG_other (s : State) (i j : Nat) (x : Word64) (h : i ≠ j) : (s.setG i x).rg j = s.rg j := by
  unfold State.rg State.setG Part.setG
  by_cases hj : j = 0
  · simp [hj]
  · by_cases hi : i = 0
    · simp [hi, hj]
    · simp only [hi, hj, if_false]
      by_cases hk : j < 64
      · simp only [Vector.getD, Array.getD, Vector.size_toArray, hk, dif_pos]
        exact Vector.getElem_setIfInBounds_ne hk h
      · simp [Vector.getD, Array.getD, hk]

/-- A gang word writes its register and goes on. -/
theorem gangOp_ready {i : Instr} {d : Field} {x : State → Word64} {s : State} (hid : s.me.id ≠ 0)
    (hc : s.contextTrap i = none) : gangOp i d x s = .next ((s.setG d.toNat (x s)).advance) := checked_ready _ hid hc

/-! ## Lane results (R47) -/

/-- A lane word puts one result in flight and goes on; the rest of the state stands. -/
theorem putV_eq (s : State) (d : Nat) (ls : List Nat) (f : Nat → Word32 × BitVec 6) :
    s.putV d ls f = { s with
      me := { s.me with
        inflight := s.me.inflight ++ [{ id := s.nextId, writes := ls.map fun l => (32 * d + l, (f l).1), preds := []
                                        flags := ls.foldl (fun a l => a ||| (f l).2) 0 }]
        pc := s.me.pc + 8 }
      nextId := s.nextId + 1 } := rfl

theorem putVP_eq (s : State) (d : Nat) (ls : List Nat) (f : Nat → Word64 × BitVec 6) :
    s.putVP d ls f = { s with
      me := { s.me with
        inflight := s.me.inflight ++ [{ id := s.nextId, writes := writesVP d ls fun l => (f l).1, preds := []
                                        flags := ls.foldl (fun a l => a ||| (f l).2) 0 }]
        pc := s.me.pc + 8 }
      nextId := s.nextId + 1 } := rfl

theorem putQ_eq (s : State) (d : Nat) (ls : List Nat) (f : Nat → Bool × BitVec 6) :
    s.putQ d ls f = { s with
      me := { s.me with
        inflight := s.me.inflight ++ [{ id := s.nextId, writes := [], preds := ls.map fun l => (32 * d + l, (f l).1)
                                        flags := ls.foldl (fun a l => a ||| (f l).2) 0 }]
        pc := s.me.pc + 8 }
      nextId := s.nextId + 1 } := rfl

theorem laneV_ready {i : Instr} {g : Guard} {d : Field} {f : State → Nat → Word32 × BitVec 6} {s : State} (hid : s.me.id ≠ 0)
    (hc : s.contextTrap i = none) : laneV i g d f s = .next (s.putV d.toNat (lanesOf (s.active g)) (f s)) :=
  checked_ready _ hid hc

theorem laneVP_ready {i : Instr} {g : Guard} {d : Field} {f : State → Nat → Word64 × BitVec 6} {s : State} (hid : s.me.id ≠ 0)
    (hc : s.contextTrap i = none) : laneVP i g d f s = .next (s.putVP d.toNat (lanesOf (s.active g)) (f s)) :=
  checked_ready _ hid hc

theorem laneQ_ready {i : Instr} {g : Guard} {d : Field} {f : State → Nat → Bool × BitVec 6} {s : State} (hid : s.me.id ≠ 0)
    (hc : s.contextTrap i = none) : laneQ i g d f s = .next (s.putQ d.toNat (lanesOf (s.active g)) (f s)) :=
  checked_ready _ hid hc

/-- A read of a register is what has landed, or some write in flight (R48). -/
theorem mixV_mem (s : State) (key : Nat) (rs : List LaneResult) :
    ∀ (old : Word32) (n : Nat), s.mixV key old rs n = old ∨ ∃ r ∈ rs, lookupKey r.writes key = some (s.mixV key old rs n) := by
  induction rs with
  | nil => exact fun old _ => .inl rfl
  | cons r rs ih =>
    intro old n
    have next : ∀ y, s.mixV key y rs (n + 1) = y ∨ ∃ q ∈ r :: rs, lookupKey q.writes key = some (s.mixV key y rs (n + 1)) :=
      fun y => (ih y (n + 1)).imp_right fun ⟨q, hq, e⟩ => ⟨q, List.mem_cons_of_mem _ hq, e⟩
    simp only [State.mixV]
    cases hl : lookupKey r.writes key with
    | none => exact next old
    | some x =>
      dsimp only
      split
      · exact (next x).elim (fun e => .inr ⟨r, List.mem_cons_self, by rw [e]; exact hl⟩) .inr
      · exact next old

/-! ## Waiting for lane results (R49) -/

theorem afterResults_landed {s : State} (k : State → State) (h : s.me.inflight = []) : s.afterResults k = k s := by
  simp [State.afterResults, h]

theorem afterResults_waiting {s : State} (k : State → State) (h : s.me.inflight ≠ []) :
    s.afterResults k = { s with me := { s.me with drain := true } } := by
  simp [State.afterResults, h]

/-! ## Taking a trap (R204 to R206) -/

/-- The record of a trap that is raised now. -/
def raisedAt (s : State) (t : TrapRec) : TrapRec :=
  { t with pc := s.me.pc, second := t.second || s.me.second, replay := t.replay || s.me.replay.isSome }

/-- A trap takes its part out of a replay (R203). -/
def outOfReplay (s : State) : State :=
  { s with me := { s.me with replay := none, recording := if s.me.replay.isSome then none else s.me.recording } }

/-- A trap waits for the lanes that have parked, then for the lane results, and is then delivered. -/
theorem raise_cases (s : State) (t : TrapRec) :
    (s.me.parked ≠ [] ∧ s.raise t = { outOfReplay s with
      me := { (outOfReplay s).me with trap := some (raisedAt s t), state := .faultParked } }) ∨
    (s.me.parked = [] ∧ s.me.inflight ≠ [] ∧ s.raise t = { outOfReplay s with
      me := { (outOfReplay s).me with trap := some (raisedAt s t), state := .parked .trap } }) ∨
    (s.me.parked = [] ∧ s.me.inflight = [] ∧ s.raise t = (outOfReplay s).deliver (raisedAt s t)) := by
  by_cases h1 : s.me.parked = []
  · by_cases h2 : s.me.inflight = []
    · exact .inr (.inr ⟨h1, h2, by simp [State.raise, h1, h2, raisedAt, outOfReplay]⟩)
    · exact .inr (.inl ⟨h1, h2, by simp [State.raise, h1, h2, raisedAt, outOfReplay]⟩)
  · exact .inl ⟨h1, by simp [State.raise, h1, raisedAt, outOfReplay]⟩

/-- Delivery outside a transaction: the context ends, or the handler is entered. A part whose context is ending enters none. -/
theorem deliver_cases {s : State} (t : TrapRec) (hl : s.me.levels = []) :
    let resume := if t.aborted then s.me.pc else if 0x20 ≤ t.code then t.pc + 8 else t.pc
    s.deliver t = if s.me.ending || t.code = 0x0B || t.code = 0x0E || !s.gang.tvEn || s.me.inHandler || s.me.stack.length = 255 then
      s.endHere t resume else s.enterHandler t resume := by
  unfold State.deliver
  simp [hl]

/-- Delivery in a transaction that has met a conflict is the conflict abort (R260). -/
theorem deliver_doomed {s : State} (t : TrapRec) (hl : s.me.levels ≠ []) (hd : s.me.doomed = true) :
    s.deliver t = s.hwAbort 1 := by
  unfold State.deliver
  simp [hl, hd]

/-! ## A hardware abort (R141) -/

/-- A hardware abort leaves no level open, and memory and the gang as they were. -/
theorem hwAbort_levels (s : State) (code : Nat) : (s.hwAbort code).me.levels = [] := by
  have h : ∀ p : Part, (p.hwAbort code).levels = [] := by
    intro p
    unfold Part.hwAbort Part.unwind Part.depth
    split
    · simpa using ‹p.levels.isEmpty = true›
    · simp
  exact h _

theorem hwAbort_mem (s : State) (code : Nat) : (s.hwAbort code).mem = s.mem := rfl
theorem hwAbort_gang (s : State) (code : Nat) : (s.hwAbort code).gang = s.gang := rfl
theorem hwAbort_state (s : State) (code : Nat) : (s.hwAbort code).me.state = .ready := rfl

/-! ## Script words (R367) -/

/-- Everything that a word of a script run can do. -/
theorem scripted_cases (s : State) (k : State → State) :
    (s.scr.live = false ∧ scripted s k = .fault .noScript) ∨ (s.scr.live = true ∧ scripted s k = .next (k s)) := by
  cases h : s.scr.live <;> simp [scripted, h]

theorem scripted_live {s : State} (k : State → State) (h : s.scr.live = true) : scripted s k = .next (k s) := by
  simp [scripted, h]

end Sys2Proof.Machine
end

