-- ==== Sys2Proof/Laws/Memory.lean ====
section
/-! SUPPORT. Every operation over memory keeps its canonical form, and what each leaves as it was. -/

namespace Sys2Proof

open Machine

theorem foldl_keeps {α β : Type} (p : β → Prop) (f : β → α → β) (hf : ∀ b a, p b → p (f b a)) (xs : List α) :
    ∀ b, p b → p (xs.foldl f b) := by
  induction xs with
  | nil => exact fun _ h => h
  | cons x xs ih => exact fun b h => ih _ (hf b x h)

theorem memoryWf_of_mem {s t : State} (h : memoryWf s = true) (e : t.mem = s.mem) : memoryWf t = true := by
  unfold memoryWf at *; rwa [e]

theorem reset_memoryWf : memoryWf State.reset = true := rfl

theorem putBytes_memoryWf (s : State) (a : Nat) (bs : List Byte) (h : memoryWf s = true) :
    memoryWf (s.putBytes a bs) = true := SMap.putAll_wf s.mem a bs h

/-- A byte of memory after bytes have been put there. -/
theorem putBytes_get (s : State) (a i : Nat) (bs : List Byte) (h : memoryWf s = true) :
    SMap.get 0 (s.putBytes a bs).mem i = if a ≤ i ∧ i < a + bs.length then bs.getD (i - a) 0 else SMap.get 0 s.mem i :=
  SMap.get_putAll s.mem a i bs h

theorem clear_memoryWf (s : State) (lo hi : Nat) (h : memoryWf s = true) :
    memoryWf { s with mem := SMap.clear s.mem lo hi } = true := SMap.clear_wf s.mem lo hi h

theorem filter_memoryWf (s : State) (p : Nat × Byte → Bool) (h : memoryWf s = true) :
    memoryWf { s with mem := s.mem.filter p } = true := SMap.filter_wf s.mem p h

theorem retag_memoryWf (key : Nat) (secs : List Nat) : ∀ s : State, memoryWf s = true → memoryWf (s.retag key secs) = true := by
  induction secs with
  | nil => exact fun s h => h
  | cons x xs ih =>
    intro s h
    refine ih _ (memoryWf_of_mem (s := if SMap.get 0 s.tags x = key || SMap.get 0 s.tags x = 0 then s
      else s.putBytes (32 * x) ((List.range 32).map fun i => s.readByte key (32 * x + i))) ?_ rfl)
    split
    · exact h
    · exact putBytes_memoryWf _ _ _ h

theorem bumpVersion_mem (s : State) (home line : Nat) : (s.bumpVersion home line).mem = s.mem := by
  unfold State.bumpVersion; split <;> rfl

theorem homeWrite_memoryWf (s : State) (key a : Nat) (bs : List Byte) (h : memoryWf s = true) :
    memoryWf (s.homeWrite key a bs) = true := by
  refine foldl_keeps (fun t => memoryWf t = true) _ (fun t l ht => memoryWf_of_mem ht (bumpVersion_mem _ _ _)) _ _ ?_
  refine memoryWf_of_mem (s := State.putBytes _ a bs) (putBytes_memoryWf _ _ _ ?_) rfl
  split
  · exact retag_memoryWf _ _ _ h
  · exact h

theorem setCore_mem (s : State) (x : Core) : (s.setCore x).mem = s.mem := by
  unfold State.setCore; split
  · rfl
  · split <;> rfl

theorem setSectorCopy_mem (s : State) (sec : Nat) (c : LineCopy) : (s.setSectorCopy sec c).mem = s.mem := rfl

theorem setCore_memoryWf (s : State) (x : Core) (h : memoryWf s = true) : memoryWf (s.setCore x) = true :=
  memoryWf_of_mem h (setCore_mem s x)

theorem setSectorCopy_memoryWf (s : State) (sec : Nat) (c : LineCopy) (h : memoryWf s = true) :
    memoryWf (s.setSectorCopy sec c) = true := h

theorem putDirty_memoryWf (s : State) (c : LineCopy) (h : memoryWf s = true) : memoryWf (s.putDirty c) = true :=
  foldl_keeps (fun t => memoryWf t = true) _ (fun t _ ht => homeWrite_memoryWf t _ _ _ ht) _ _
    (foldl_keeps (fun t => memoryWf t = true) _ (fun t _ ht => homeWrite_memoryWf t _ _ _ ht) _ _ h)

theorem recallBut_memoryWf (s : State) (keep : Option Nat) (line : Nat) (h : memoryWf s = true) :
    memoryWf (s.recallBut keep line) = true :=
  foldl_keeps (fun t => memoryWf t = true) _ (fun t _ ht => putDirty_memoryWf t _ ht) _ _ h

theorem writeBack_memoryWf (s : State) (sec : Nat) (c : LineCopy) (h : memoryWf s = true) :
    memoryWf (s.writeBack sec c) = true := by
  unfold State.writeBack
  split
  · exact h
  · exact putDirty_memoryWf _ _ (recallBut_memoryWf _ _ _ h)

theorem flushSector_memoryWf (s : State) (sec line : Nat) (drop : Bool) (h : memoryWf s = true) :
    memoryWf (s.flushSector sec line drop) = true := by
  unfold State.flushSector
  split
  · exact h
  · have hw := fun c => writeBack_memoryWf s sec c h
    split
    · exact hw _
    · exact setSectorCopy_memoryWf _ _ _ (hw _)

/-! ## Room in the slices and in the L1 -/

theorem makeWay_memoryWf (s : State) (w : Alloc) (slice line : Nat) (copy : Bool) (h : memoryWf s = true) :
    memoryWf (s.makeWay w slice line copy) = true := by
  unfold State.makeWay
  dsimp only
  repeat' split
  all_goals first | exact h | exact flushSector_memoryWf _ _ _ _ h

theorem addSectorCopy_memoryWf (s : State) (w : Alloc) (sec : Nat) (c : LineCopy) (h : memoryWf s = true) :
    memoryWf (s.addSectorCopy w sec c) = true := by
  unfold State.addSectorCopy
  dsimp only
  split
  · exact h
  · exact makeWay_memoryWf s w _ c.line true h

theorem addResident_memoryWf (s : State) (w : Alloc) (line : Nat) (h : memoryWf s = true) :
    memoryWf (s.addResident w line) = true := by
  unfold State.addResident
  split
  · exact h
  · exact makeWay_memoryWf s w _ line false h

theorem flushL1_memoryWf (s : State) (c line : Nat) (drop : Bool) (h : memoryWf s = true) :
    memoryWf (s.flushL1 c line drop) = true := by
  unfold State.flushL1
  dsimp only
  split
  · exact h
  · have hs := fun k => setCore_memoryWf s k h
    split
    · split
      · exact setSectorCopy_memoryWf _ _ _ (hs _)
      · exact writeBack_memoryWf _ _ _ (flushSector_memoryWf _ _ _ _ (hs _))
    · exact writeBack_memoryWf _ _ _ (hs _)

theorem flushL1All_memoryWf (s : State) (c : Nat) (drop : Bool) (h : memoryWf s = true) :
    memoryWf (s.flushL1All c drop) = true :=
  foldl_keeps (fun t => memoryWf t = true) _ (fun t _ ht => flushL1_memoryWf t _ _ _ ht) _ _ h

theorem addL1_memoryWf (s : State) (c : Nat) (x : LineCopy) (h : memoryWf s = true) : memoryWf (s.addL1 c x) = true := by
  refine setCore_memoryWf _ _ ?_
  split
  · exact flushL1_memoryWf _ _ _ _ h
  · exact h

theorem lastUse_mem (s : State) (c line : Nat) : (s.lastUse c line).mem = s.mem := setCore_mem _ _

/-! ## Release and acquire -/

theorem flushSectorAll_memoryWf (s : State) (sec : Nat) (drop : Bool) (h : memoryWf s = true) :
    memoryWf (s.flushSectorAll sec drop) = true :=
  foldl_keeps (fun t => memoryWf t = true) _ (fun t _ ht => flushSector_memoryWf t _ _ _ ht) _ _ h

theorem release_memoryWf (s : State) (c level : Nat) (h : memoryWf s = true) : memoryWf (s.release c level) = true := by
  have h1 : memoryWf (if 1 ≤ level then s.flushL1All c false else s) = true := by
    split
    · exact flushL1All_memoryWf _ _ _ h
    · exact h
  unfold State.release
  dsimp only
  split
  · exact flushSectorAll_memoryWf _ _ _ h1
  · exact h1

theorem releaseTo_memoryWf (s : State) (c level line : Nat) (h : memoryWf s = true) :
    memoryWf (s.releaseTo c level line) = true := by
  unfold State.releaseTo
  dsimp only
  split <;> exact release_memoryWf s c level h

theorem promote_memoryWf (s : State) (line : Nat) (h : memoryWf s = true) : memoryWf (s.promote line) = true :=
  foldl_keeps (fun t => memoryWf t = true) _ (fun t _ ht => flushSectorAll_memoryWf t _ _ ht) _ _ h

theorem acquire_memoryWf (s : State) (c level : Nat) (line : Option Nat) (h : memoryWf s = true) :
    memoryWf (s.acquire c level line) = true := by
  have key : ∀ s1 : State, memoryWf s1 = true →
      memoryWf (if 2 ≤ level then (if 1 ≤ level then s1.flushL1All c true else s1).flushSectorAll (coreSector c) true
        else if 1 ≤ level then s1.flushL1All c true else s1) = true := by
    intro s1 h1
    have h2 : memoryWf (if 1 ≤ level then s1.flushL1All c true else s1) = true := by
      split
      · exact flushL1All_memoryWf _ _ _ h1
      · exact h1
    split
    · exact flushSectorAll_memoryWf _ _ _ h2
    · exact h2
  refine key _ ?_
  split
  · split
    · exact promote_memoryWf _ _ h
    · exact h
  · exact h

/-! ## Reads and writes at a level -/

theorem readAt_memoryWf (s : State) (w : Alloc) (c level key a n : Nat) (h : memoryWf s = true) :
    memoryWf (s.readAt w c level key a n).1 = true := by
  have h1 := flushL1_memoryWf s c (a / 128) true h
  unfold State.readAt
  dsimp only
  split
  · split
    · exact h
    · have h2 : memoryWf (match (s.flushL1 c (a / 128) true).sectorCopy (coreSector c) (a / 128) with
          | some y => if y.key = key then s.flushL1 c (a / 128) true
            else (s.flushL1 c (a / 128) true).flushSector (coreSector c) (a / 128) true
          | none => s.flushL1 c (a / 128) true) = true := by
        split
        · split
          · exact h1
          · exact flushSector_memoryWf _ _ _ _ h1
        · exact h1
      split
      · exact h2
      · exact addL1_memoryWf _ _ _ h2
  · split
    · exact h1
    · split
      · split
        · exact h1
        · exact flushSector_memoryWf _ _ _ _ h1
      · exact addSectorCopy_memoryWf _ _ _ _ h1
  · exact flushSector_memoryWf _ _ _ _ h1

theorem homeWriteAll_memoryWf (s : State) (key a : Nat) (bs : List Byte) (h : memoryWf s = true) :
    memoryWf (s.homeWriteAll key a bs) = true :=
  homeWrite_memoryWf _ _ _ _
    (foldl_keeps (fun t => memoryWf t = true) _ (fun t _ ht => recallBut_memoryWf t _ _ ht) _ _ h)

theorem sectorWrite_memoryWf (s : State) (w : Alloc) (c key a : Nat) (bs : List Byte) (h : memoryWf s = true) :
    memoryWf (s.sectorWrite w c key a bs) = true := by
  have h1 := flushL1_memoryWf s c (a / 128) true h
  unfold State.sectorWrite
  dsimp only
  split
  · exact homeWriteAll_memoryWf _ _ _ _ h1
  · have h2 := readAt_memoryWf (s.flushL1 c (a / 128) true) w c 1 key a 1 h1
    split
    · exact setSectorCopy_memoryWf _ _ _ h2
    · exact homeWriteAll_memoryWf _ _ _ _ h2

theorem writeAt_memoryWf (s : State) (w : Alloc) (c level key a : Nat) (bs : List Byte) (h : memoryWf s = true) :
    memoryWf (s.writeAt w c level key a bs) = true := by
  unfold State.writeAt
  dsimp only
  split
  · have h1 := readAt_memoryWf s w c 0 key a 1 h
    split
    · exact setCore_memoryWf _ _ h1
    · exact sectorWrite_memoryWf _ _ _ _ _ _ h1
  · exact sectorWrite_memoryWf _ _ _ _ _ _ h
  · exact homeWriteAll_memoryWf _ _ _ _ (flushL1_memoryWf s c (a / 128) true h)

theorem zeroRange_memoryWf (s : State) (a n : Nat) (h : memoryWf s = true) : memoryWf (s.zeroRange a n) = true :=
  clear_memoryWf s a (a + n) h

end Sys2Proof
end

