-- ==== Sys2Proof/Laws/PerInstr.lean ====
section
/-! SUPPORT. What every instruction's native word keeps free: its 64 bits hold the fields, and the places of P, of S and of the
reserved bit 2 are 0 (R32, R33). One lemma for each format, and one for each constructor. -/

namespace Sys2Proof

theorem Guard.toNat_bounds (g : Guard) : g.toNat < 2 ^ 8 ∧ g.toNat % 8 = 0 := by
  have h1 := Bool.toNat_lt g.ge
  have h2 := Bool.toNat_lt g.gn
  have h3 := g.gq.isLt
  unfold Guard.toNat
  omega

theorem FV3.toNat_bounds (o : FV3) (op : Nat) (h : op < 256) : o.toNat op < 2 ^ 64 ∧ o.toNat op % 8 = 0 := by
  have hg := o.guard.toNat_bounds
  have h0 := o.d.isLt
  have h1 := o.a.isLt
  have h2 := o.b.isLt
  have h3 := o.c.isLt
  have h4 := Bool.toNat_lt o.gb
  have h5 := Bool.toNat_lt o.sat
  have h6 := o.rnd.isLt
  have h7 := o.ty.isLt
  have h8 := o.sub.isLt
  unfold FV3.toNat
  omega

theorem FVI.toNat_bounds (o : FVI) (op : Nat) (h : op < 256) : o.toNat op < 2 ^ 64 ∧ o.toNat op % 8 = 0 := by
  have hg := o.guard.toNat_bounds
  have h0 := o.d.isLt
  have h1 := o.a.isLt
  have h2 := o.imm.isLt
  have h3 := o.ty.isLt
  have h4 := o.sub.isLt
  unfold FVI.toNat
  omega

theorem FG.toNat_bounds (o : FG) (op : Nat) (h : op < 256) : o.toNat op < 2 ^ 64 ∧ o.toNat op % 8 = 0 := by
  have hg := o.guard.toNat_bounds
  have h0 := o.d.isLt
  have h1 := o.a.isLt
  have h2 := o.b.isLt
  have h3 := o.c.isLt
  have h4 := o.sub.isLt
  unfold FG.toNat
  omega

theorem FGI.toNat_bounds (o : FGI) (op : Nat) (h : op < 256) : o.toNat op < 2 ^ 64 ∧ o.toNat op % 8 = 0 := by
  have hg := o.guard.toNat_bounds
  have h0 := o.d.isLt
  have h1 := o.a.isLt
  have h2 := o.imm.isLt
  have h3 := o.sub.isLt
  unfold FGI.toNat
  omega

theorem FE.toNat_bounds (o : FE) (op : Nat) (h : op < 256) : o.toNat op < 2 ^ 64 ∧ o.toNat op % 8 = 0 := by
  have hg := o.guard.toNat_bounds
  have h0 := o.d.isLt
  have h1 := o.imm.isLt
  have h2 := o.q.isLt
  unfold FE.toNat
  omega

theorem FB.toNat_bounds (o : FB) (op : Nat) (h : op < 256) : o.toNat op < 2 ^ 64 ∧ o.toNat op % 8 = 0 := by
  have hg := o.guard.toNat_bounds
  have h0 := o.d.isLt
  have h1 := o.off.isLt
  have h2 := o.q.isLt
  unfold FB.toNat
  omega

theorem FM.toNat_bounds (o : FM) (op : Nat) (h : op < 256) : o.toNat op < 2 ^ 64 ∧ o.toNat op % 8 = 0 := by
  have hg := o.guard.toNat_bounds
  have h0 := o.d.isLt
  have h1 := o.a.isLt
  have h2 := o.b.isLt
  have h3 := o.ord.isLt
  have h4 := Bool.toNat_lt o.defer
  have h5 := o.idx.isLt
  have h6 := o.mop.isLt
  have h7 := o.scope.isLt
  have h8 := o.space.isLt
  have h9 := o.size.isLt
  have h10 := o.mq.isLt
  unfold FM.toNat
  omega

theorem FX.toNat_bounds (o : FX) (op : Nat) (h : op < 256) : o.toNat op < 2 ^ 64 ∧ o.toNat op % 8 = 0 := by
  have hg := o.guard.toNat_bounds
  have h0 := o.d.isLt
  have h1 := o.a.isLt
  have h2 := o.b.isLt
  have h3 := o.c.isLt
  have h4 := o.qual.isLt
  unfold FX.toNat
  omega

namespace Laws.Fields

/-- The word of the instruction, as an encoder leaves it. -/
def Statement (i : Instr) : Prop := encodeInstr i < 2 ^ 64 ∧ encodeInstr i % 8 = 0

/-- A step that has no native word. -/
theorem noWord (i : Instr) (h : encodeInstr i = 0) : Statement i := by simp [Statement, h]

theorem nop (o : FX) : Statement (.nop o) := o.toNat_bounds 0x01 (by decide)
theorem br (o : FB) : Statement (.br o) := o.toNat_bounds 0x02 (by decide)
theorem brg (o : FB) : Statement (.brg o) := o.toNat_bounds 0x03 (by decide)
theorem jt (o : FX) : Statement (.jt o) := o.toNat_bounds 0x04 (by decide)
theorem jtv (o : FX) : Statement (.jtv o) := o.toNat_bounds 0x05 (by decide)
theorem call (o : FB) : Statement (.call o) := o.toNat_bounds 0x06 (by decide)
theorem calli (o : FX) : Statement (.calli o) := o.toNat_bounds 0x07 (by decide)
theorem ret (o : FX) : Statement (.ret o) := o.toNat_bounds 0x08 (by decide)
theorem lpad (o : FX) : Statement (.lpad o) := o.toNat_bounds 0x09 (by decide)
theorem regang (o : FX) : Statement (.regang o) := o.toNat_bounds 0x0A (by decide)
theorem exit (o : FX) : Statement (.exit o) := o.toNat_bounds 0x0B (by decide)
theorem trap (o : FX) : Statement (.trap o) := o.toNat_bounds 0x0C (by decide)
theorem brk (o : FX) : Statement (.brk o) := o.toNat_bounds 0x0D (by decide)
theorem elect (o : FX) : Statement (.elect o) := o.toNat_bounds 0x0E (by decide)
theorem acquire (o : FX) : Statement (.acquire o) := o.toNat_bounds 0x0F (by decide)
theorem maskrd (o : FX) : Statement (.maskrd o) := o.toNat_bounds 0x10 (by decide)
theorem maskwr (o : FX) : Statement (.maskwr o) := o.toNat_bounds 0x11 (by decide)
theorem sread (o : FX) : Statement (.sread o) := o.toNat_bounds 0x12 (by decide)
theorem swriteFflags (o : FX) : Statement (.swriteFflags o) := o.toNat_bounds 0x13 (by decide)
theorem swriteFmode (o : FX) : Statement (.swriteFmode o) := o.toNat_bounds 0x13 (by decide)
theorem swritePrivhwm (o : FX) : Statement (.swritePrivhwm o) := o.toNat_bounds 0x13 (by decide)
theorem swriteTrapvec (o : FX) : Statement (.swriteTrapvec o) := o.toNat_bounds 0x13 (by decide)
theorem gmovi (o : FE) : Statement (.gmovi o) := o.toNat_bounds 0x14 (by decide)
theorem gmovh (o : FE) : Statement (.gmovh o) := o.toNat_bounds 0x15 (by decide)
theorem glea (o : FG) : Statement (.glea o) := o.toNat_bounds 0x16 (by decide)
theorem gsel (o : FG) : Statement (.gsel o) := o.toNat_bounds 0x17 (by decide)
theorem gset (o : FG) : Statement (.gset o) := o.toNat_bounds 0x18 (by decide)
theorem gadd (o : FG) : Statement (.gadd o) := o.toNat_bounds 0x20 (by decide)
theorem gsub (o : FG) : Statement (.gsub o) := o.toNat_bounds 0x21 (by decide)
theorem gmul (o : FG) : Statement (.gmul o) := o.toNat_bounds 0x22 (by decide)
theorem gmulh (o : FG) : Statement (.gmulh o) := o.toNat_bounds 0x23 (by decide)
theorem gdiv (o : FG) : Statement (.gdiv o) := o.toNat_bounds 0x24 (by decide)
theorem grem (o : FG) : Statement (.grem o) := o.toNat_bounds 0x25 (by decide)
theorem gand (o : FG) : Statement (.gand o) := o.toNat_bounds 0x26 (by decide)
theorem gor (o : FG) : Statement (.gor o) := o.toNat_bounds 0x27 (by decide)
theorem gxor (o : FG) : Statement (.gxor o) := o.toNat_bounds 0x28 (by decide)
theorem gshl (o : FG) : Statement (.gshl o) := o.toNat_bounds 0x29 (by decide)
theorem gshr (o : FG) : Statement (.gshr o) := o.toNat_bounds 0x2A (by decide)
theorem gsar (o : FG) : Statement (.gsar o) := o.toNat_bounds 0x2B (by decide)
theorem gmin (o : FG) : Statement (.gmin o) := o.toNat_bounds 0x2C (by decide)
theorem gmax (o : FG) : Statement (.gmax o) := o.toNat_bounds 0x2D (by decide)
theorem gaddImm (o : FGI) : Statement (.gaddImm o) := o.toNat_bounds 0x30 (by decide)
theorem gsubImm (o : FGI) : Statement (.gsubImm o) := o.toNat_bounds 0x31 (by decide)
theorem gmulImm (o : FGI) : Statement (.gmulImm o) := o.toNat_bounds 0x32 (by decide)
theorem gmulhImm (o : FGI) : Statement (.gmulhImm o) := o.toNat_bounds 0x33 (by decide)
theorem gdivImm (o : FGI) : Statement (.gdivImm o) := o.toNat_bounds 0x34 (by decide)
theorem gremImm (o : FGI) : Statement (.gremImm o) := o.toNat_bounds 0x35 (by decide)
theorem gandImm (o : FGI) : Statement (.gandImm o) := o.toNat_bounds 0x36 (by decide)
theorem gorImm (o : FGI) : Statement (.gorImm o) := o.toNat_bounds 0x37 (by decide)
theorem gxorImm (o : FGI) : Statement (.gxorImm o) := o.toNat_bounds 0x38 (by decide)
theorem gshlImm (o : FGI) : Statement (.gshlImm o) := o.toNat_bounds 0x39 (by decide)
theorem gshrImm (o : FGI) : Statement (.gshrImm o) := o.toNat_bounds 0x3A (by decide)
theorem gsarImm (o : FGI) : Statement (.gsarImm o) := o.toNat_bounds 0x3B (by decide)
theorem gminImm (o : FGI) : Statement (.gminImm o) := o.toNat_bounds 0x3C (by decide)
theorem gmaxImm (o : FGI) : Statement (.gmaxImm o) := o.toNat_bounds 0x3D (by decide)
theorem iadd (o : FV3) : Statement (.iadd o) := o.toNat_bounds 0x40 (by decide)
theorem isub (o : FV3) : Statement (.isub o) := o.toNat_bounds 0x41 (by decide)
theorem imul (o : FV3) : Statement (.imul o) := o.toNat_bounds 0x42 (by decide)
theorem imulh (o : FV3) : Statement (.imulh o) := o.toNat_bounds 0x43 (by decide)
theorem imad (o : FV3) : Statement (.imad o) := o.toNat_bounds 0x44 (by decide)
theorem iand (o : FV3) : Statement (.iand o) := o.toNat_bounds 0x45 (by decide)
theorem ior (o : FV3) : Statement (.ior o) := o.toNat_bounds 0x46 (by decide)
theorem ixor (o : FV3) : Statement (.ixor o) := o.toNat_bounds 0x47 (by decide)
theorem ishl (o : FV3) : Statement (.ishl o) := o.toNat_bounds 0x48 (by decide)
theorem ishr (o : FV3) : Statement (.ishr o) := o.toNat_bounds 0x49 (by decide)
theorem isar (o : FV3) : Statement (.isar o) := o.toNat_bounds 0x4A (by decide)
theorem imin (o : FV3) : Statement (.imin o) := o.toNat_bounds 0x4B (by decide)
theorem imax (o : FV3) : Statement (.imax o) := o.toNat_bounds 0x4C (by decide)
theorem iabs (o : FV3) : Statement (.iabs o) := o.toNat_bounds 0x4D (by decide)
theorem iclz (o : FV3) : Statement (.iclz o) := o.toNat_bounds 0x4E (by decide)
theorem ipopc (o : FV3) : Statement (.ipopc o) := o.toNat_bounds 0x4F (by decide)
theorem iaddImm (o : FVI) : Statement (.iaddImm o) := o.toNat_bounds 0x50 (by decide)
theorem isubImm (o : FVI) : Statement (.isubImm o) := o.toNat_bounds 0x51 (by decide)
theorem imulImm (o : FVI) : Statement (.imulImm o) := o.toNat_bounds 0x52 (by decide)
theorem iandImm (o : FVI) : Statement (.iandImm o) := o.toNat_bounds 0x55 (by decide)
theorem iorImm (o : FVI) : Statement (.iorImm o) := o.toNat_bounds 0x56 (by decide)
theorem ixorImm (o : FVI) : Statement (.ixorImm o) := o.toNat_bounds 0x57 (by decide)
theorem ishlImm (o : FVI) : Statement (.ishlImm o) := o.toNat_bounds 0x58 (by decide)
theorem ishrImm (o : FVI) : Statement (.ishrImm o) := o.toNat_bounds 0x59 (by decide)
theorem isarImm (o : FVI) : Statement (.isarImm o) := o.toNat_bounds 0x5A (by decide)
theorem iminImm (o : FVI) : Statement (.iminImm o) := o.toNat_bounds 0x5B (by decide)
theorem imaxImm (o : FVI) : Statement (.imaxImm o) := o.toNat_bounds 0x5C (by decide)
theorem ibfx (o : FV3) : Statement (.ibfx o) := o.toNat_bounds 0x60 (by decide)
theorem ibfi (o : FV3) : Statement (.ibfi o) := o.toNat_bounds 0x61 (by decide)
theorem iset (o : FV3) : Statement (.iset o) := o.toNat_bounds 0x62 (by decide)
theorem isetImm (o : FVI) : Statement (.isetImm o) := o.toNat_bounds 0x63 (by decide)
theorem mov (o : FV3) : Statement (.mov o) := o.toNat_bounds 0x64 (by decide)
theorem movi (o : FE) : Statement (.movi o) := o.toNat_bounds 0x65 (by decide)
theorem movg (o : FV3) : Statement (.movg o) := o.toNat_bounds 0x66 (by decide)
theorem sel (o : FV3) : Statement (.sel o) := o.toNat_bounds 0x67 (by decide)
theorem qop (o : FV3) : Statement (.qop o) := o.toNat_bounds 0x68 (by decide)
theorem qmov (o : FV3) : Statement (.qmov o) := o.toNat_bounds 0x69 (by decide)
theorem fadd (o : FV3) : Statement (.fadd o) := o.toNat_bounds 0x70 (by decide)
theorem fsub (o : FV3) : Statement (.fsub o) := o.toNat_bounds 0x71 (by decide)
theorem fmul (o : FV3) : Statement (.fmul o) := o.toNat_bounds 0x72 (by decide)
theorem ffma (o : FV3) : Statement (.ffma o) := o.toNat_bounds 0x73 (by decide)
theorem fmin (o : FV3) : Statement (.fmin o) := o.toNat_bounds 0x74 (by decide)
theorem fmax (o : FV3) : Statement (.fmax o) := o.toNat_bounds 0x75 (by decide)
theorem fset (o : FV3) : Statement (.fset o) := o.toNat_bounds 0x76 (by decide)
theorem fclass (o : FV3) : Statement (.fclass o) := o.toNat_bounds 0x77 (by decide)
theorem frnd (o : FV3) : Statement (.frnd o) := o.toNat_bounds 0x78 (by decide)
theorem hadd2 (o : FV3) : Statement (.hadd2 o) := o.toNat_bounds 0x79 (by decide)
theorem hmul2 (o : FV3) : Statement (.hmul2 o) := o.toNat_bounds 0x7A (by decide)
theorem hfma2 (o : FV3) : Statement (.hfma2 o) := o.toNat_bounds 0x7B (by decide)
theorem cvt (o : FV3) : Statement (.cvt o) := o.toNat_bounds 0x7C (by decide)
theorem dp4 (o : FV3) : Statement (.dp4 o) := o.toNat_bounds 0x80 (by decide)
theorem dp8 (o : FV3) : Statement (.dp8 o) := o.toNat_bounds 0x81 (by decide)
theorem qpack (o : FV3) : Statement (.qpack o) := o.toNat_bounds 0x82 (by decide)
theorem qunpk (o : FV3) : Statement (.qunpk o) := o.toNat_bounds 0x83 (by decide)
theorem rcp (o : FV3) : Statement (.rcp o) := o.toNat_bounds 0x84 (by decide)
theorem rsq (o : FV3) : Statement (.rsq o) := o.toNat_bounds 0x85 (by decide)
theorem sqrt (o : FV3) : Statement (.sqrt o) := o.toNat_bounds 0x86 (by decide)
theorem exp2 (o : FV3) : Statement (.exp2 o) := o.toNat_bounds 0x87 (by decide)
theorem log2 (o : FV3) : Statement (.log2 o) := o.toNat_bounds 0x88 (by decide)
theorem sin (o : FV3) : Statement (.sin o) := o.toNat_bounds 0x89 (by decide)
theorem cos (o : FV3) : Statement (.cos o) := o.toNat_bounds 0x8A (by decide)
theorem tanh (o : FV3) : Statement (.tanh o) := o.toNat_bounds 0x8B (by decide)
theorem lperm (o : FV3) : Statement (.lperm o) := o.toNat_bounds 0x8C (by decide)
theorem bcast (o : FV3) : Statement (.bcast o) := o.toNat_bounds 0x8D (by decide)
theorem qfold (o : FV3) : Statement (.qfold o) := o.toNat_bounds 0x8E (by decide)
theorem redx (o : FV3) : Statement (.redx o) := o.toNat_bounds 0x8F (by decide)
theorem scanx (o : FV3) : Statement (.scanx o) := o.toNat_bounds 0x90 (by decide)
theorem ld (o : FM) : Statement (.ld o) := o.toNat_bounds 0xA0 (by decide)
theorem st (o : FM) : Statement (.st o) := o.toNat_bounds 0xA1 (by decide)
theorem ldd (o : FM) : Statement (.ldd o) := o.toNat_bounds 0xA2 (by decide)
theorem stq (o : FM) : Statement (.stq o) := o.toNat_bounds 0xA3 (by decide)
theorem pf (o : FM) : Statement (.pf o) := o.toNat_bounds 0xA4 (by decide)
theorem rld (o : FM) : Statement (.rld o) := o.toNat_bounds 0xA5 (by decide)
theorem rst (o : FM) : Statement (.rst o) := o.toNat_bounds 0xA6 (by decide)
theorem rat (o : FM) : Statement (.rat o) := o.toNat_bounds 0xA7 (by decide)
theorem atom (o : FM) : Statement (.atom o) := o.toNat_bounds 0xA8 (by decide)
theorem red (o : FM) : Statement (.red o) := o.toNat_bounds 0xA9 (by decide)
theorem fence (o : FM) : Statement (.fence o) := o.toNat_bounds 0xAA (by decide)
theorem clean (o : FM) : Statement (.clean o) := o.toNat_bounds 0xAB (by decide)
theorem inval (o : FM) : Statement (.inval o) := o.toNat_bounds 0xAC (by decide)
theorem icinv (o : FM) : Statement (.icinv o) := o.toNat_bounds 0xAD (by decide)
theorem attempt (o : FB) : Statement (.attempt o) := o.toNat_bounds 0xB0 (by decide)
theorem otherwise (o : FB) : Statement (.otherwise o) := o.toNat_bounds 0xB1 (by decide)
theorem settle (o : FX) : Statement (.settle o) := o.toNat_bounds 0xB2 (by decide)
theorem abandon (o : FX) : Statement (.abandon o) := o.toNat_bounds 0xB3 (by decide)
theorem retry (o : FX) : Statement (.retry o) := o.toNat_bounds 0xB4 (by decide)
theorem xstat (o : FX) : Statement (.xstat o) := o.toNat_bounds 0xB5 (by decide)
theorem waitw (o : FM) : Statement (.waitw o) := o.toNat_bounds 0xB6 (by decide)
theorem stinit (o : FX) : Statement (.stinit o) := o.toNat_bounds 0xB7 (by decide)
theorem starr (o : FX) : Statement (.starr o) := o.toNat_bounds 0xB8 (by decide)
theorem stexp (o : FX) : Statement (.stexp o) := o.toNat_bounds 0xB9 (by decide)
theorem stwait (o : FX) : Statement (.stwait o) := o.toNat_bounds 0xBA (by decide)
theorem fbegin (o : FX) : Statement (.fbegin o) := o.toNat_bounds 0xBB (by decide)
theorem fend (o : FX) : Statement (.fend o) := o.toNat_bounds 0xBC (by decide)
theorem copy (o : FX) : Statement (.copy o) := o.toNat_bounds 0xC0 (by decide)
theorem msgsend (o : FX) : Statement (.msgsend o) := o.toNat_bounds 0xC1 (by decide)
theorem launch (o : FX) : Statement (.launch o) := o.toNat_bounds 0xC2 (by decide)
theorem dturn (o : FX) : Statement (.dturn o) := o.toNat_bounds 0xC3 (by decide)
theorem dstat (o : FX) : Statement (.dstat o) := o.toNat_bounds 0xC4 (by decide)
theorem tld (o : FX) : Statement (.tld o) := o.toNat_bounds 0xD0 (by decide)
theorem tst (o : FX) : Statement (.tst o) := o.toNat_bounds 0xD1 (by decide)
theorem tzero (o : FX) : Statement (.tzero o) := o.toNat_bounds 0xD2 (by decide)
theorem tmov (o : FX) : Statement (.tmov o) := o.toNat_bounds 0xD3 (by decide)
theorem trd (o : FX) : Statement (.trd o) := o.toNat_bounds 0xD4 (by decide)
theorem twr (o : FX) : Statement (.twr o) := o.toNat_bounds 0xD5 (by decide)
theorem cimld (o : FX) : Statement (.cimld o) := o.toNat_bounds 0xD6 (by decide)
theorem cimsel (o : FX) : Statement (.cimsel o) := o.toNat_bounds 0xD7 (by decide)
theorem mma (o : FX) : Statement (.mma o) := o.toNat_bounds 0xD8 (by decide)
theorem mmas (o : FX) : Statement (.mmas o) := o.toNat_bounds 0xD9 (by decide)
theorem sheaf (o : FX) : Statement (.sheaf o) := o.toNat_bounds 0xDA (by decide)
theorem mwait (o : FX) : Statement (.mwait o) := o.toNat_bounds 0xDB (by decide)
theorem laneResultLand (part index : Nat) : Statement (.laneResultLand part index) := noWord _ rfl
theorem pageWalk (sector : Nat) : Statement (.pageWalk sector) := noWord _ rfl
theorem faultReplay (part : Nat) : Statement (.faultReplay part) := noWord _ rfl
theorem trapDelivery (part : Nat) : Statement (.trapDelivery part) := noWord _ rfl
theorem acquireGrant (core : Nat) : Statement (.acquireGrant core) := noWord _ rfl
theorem serialTokenGrant (hedge : Nat) : Statement (.serialTokenGrant hedge) := noWord _ rfl
theorem notice (index : Nat) : Statement (.notice index) := noWord _ rfl
theorem pollInterval (part : Nat) : Statement (.pollInterval part) := noWord _ rfl
theorem watchdogExpiry (context : Nat) : Statement (.watchdogExpiry context) := noWord _ rfl
theorem matrixOpStart (core : Nat) : Statement (.matrixOpStart core) := noWord _ rfl
theorem matrixOpRetire (core : Nat) : Statement (.matrixOpRetire core) := noWord _ rfl
theorem copyElementLand (copy : Nat) : Statement (.copyElementLand copy) := noWord _ rfl
theorem handlerAdmit (core : Nat) : Statement (.handlerAdmit core) := noWord _ rfl
theorem messageAccept (index : Nat) : Statement (.messageAccept index) := noWord _ rfl
theorem wayBankWake (unit : GateUnit) : Statement (.wayBankWake unit) := noWord _ rfl
theorem evictionOrder (core : Nat) : Statement (.evictionOrder core) := noWord _ rfl
theorem baleComplete (workgroup : Nat) : Statement (.baleComplete workgroup) := noWord _ rfl
theorem baleRestart (hedge : Nat) : Statement (.baleRestart hedge) := noWord _ rfl
theorem paddockRestore (index : Nat) : Statement (.paddockRestore index) := noWord _ rfl
theorem paddockPlace (die : Nat) : Statement (.paddockPlace die) := noWord _ rfl
theorem faultNotification (index : Nat) : Statement (.faultNotification index) := noWord _ rfl
theorem faultResponse (hedge : Nat) : Statement (.faultResponse hedge) := noWord _ rfl
theorem doorbellWrite (address : Nat) (data : List Byte) : Statement (.doorbellWrite address data) := noWord _ rfl
theorem nopPacket (queue : Nat) : Statement (.nopPacket queue) := noWord _ rfl
theorem launchPacket (queue : Nat) : Statement (.launchPacket queue) := noWord _ rfl
theorem copyPacket (queue : Nat) : Statement (.copyPacket queue) := noWord _ rfl
theorem barrierPacket (queue : Nat) : Statement (.barrierPacket queue) := noWord _ rfl
theorem barrierEvaluate (queue : Nat) : Statement (.barrierEvaluate queue) := noWord _ rfl
theorem barrierPoll (queue : Nat) : Statement (.barrierPoll queue) := noWord _ rfl
theorem signalPacket (queue : Nat) : Statement (.signalPacket queue) := noWord _ rfl
theorem scriptLoad (queue : Nat) : Statement (.scriptLoad queue) := noWord _ rfl
theorem scriptRun (queue : Nat) : Statement (.scriptRun queue) := noWord _ rfl
theorem tlbinv (queue : Nat) : Statement (.tlbinv queue) := noWord _ rfl
theorem packetComplete (queue : Nat) : Statement (.packetComplete queue) := noWord _ rfl
theorem sli (o : FSI) : Statement (.sli o) := noWord _ rfl
theorem slui (o : FSI) : Statement (.slui o) := noWord _ rfl
theorem sarg (o : FS) : Statement (.sarg o) := noWord _ rfl
theorem sadd (o : FS) : Statement (.sadd o) := noWord _ rfl
theorem ssub (o : FS) : Statement (.ssub o) := noWord _ rfl
theorem sand (o : FS) : Statement (.sand o) := noWord _ rfl
theorem sor (o : FS) : Statement (.sor o) := noWord _ rfl
theorem sxor (o : FS) : Statement (.sxor o) := noWord _ rfl
theorem saddi (o : FS) : Statement (.saddi o) := noWord _ rfl
theorem sshl (o : FS) : Statement (.sshl o) := noWord _ rfl
theorem sshr (o : FS) : Statement (.sshr o) := noWord _ rfl
theorem sld (o : FS) : Statement (.sld o) := noWord _ rfl
theorem sst (o : FS) : Statement (.sst o) := noWord _ rfl
theorem ssig (o : FS) : Statement (.ssig o) := noWord _ rfl
theorem sbeq (o : FS) : Statement (.sbeq o) := noWord _ rfl
theorem sbne (o : FS) : Statement (.sbne o) := noWord _ rfl
theorem sblt (o : FS) : Statement (.sblt o) := noWord _ rfl
theorem sloop (o : FS) : Statement (.sloop o) := noWord _ rfl
theorem senq (o : FS) : Statement (.senq o) := noWord _ rfl
theorem sabort (o : FS) : Statement (.sabort o) := noWord _ rfl
theorem fabricRequest (r : PeerReq) : Statement (.fabricRequest r) := noWord _ rfl
theorem stallNotice (index : Nat) : Statement (.stallNotice index) := noWord _ rfl
theorem planeDead (peer plane : Nat) : Statement (.planeDead peer plane) := noWord _ rfl
theorem planeRestore (peer plane : Nat) : Statement (.planeRestore peer plane) := noWord _ rfl
theorem flitCrcFail (port : Nat) : Statement (.flitCrcFail port) := noWord _ rfl
theorem linkRetrain (port lanes : Nat) : Statement (.linkRetrain port lanes) := noWord _ rfl
theorem criticalRequest (plane sequence : Nat) (r : PeerReq) : Statement (.criticalRequest plane sequence r) := noWord _ rfl
theorem hostRdmaWrite (connection address : Nat) (data : List Byte) : Statement (.hostRdmaWrite connection address data) := noWord _ rfl
theorem hostRdmaRead (connection address length : Nat) : Statement (.hostRdmaRead connection address length) := noWord _ rfl
theorem hostAtomic (connection address : Nat) (cas : Bool) (a b : Word64) : Statement (.hostAtomic connection address cas a b) := noWord _ rfl
theorem connectionFail (connection : Nat) : Statement (.connectionFail connection) := noWord _ rfl
theorem heartbeatTimeout (session : Nat) : Statement (.heartbeatTimeout session) := noWord _ rfl
theorem eccUncorrectable (unit : EccUnit) (second : Bool) : Statement (.eccUncorrectable unit second) := noWord _ rfl
theorem unassignedOpcode (op : BitVec 8) : Statement (.unassignedOpcode op) := by
  have h := op.isLt
  constructor
  · show op.toNat * 2 ^ 56 < 2 ^ 64
    omega
  · show op.toNat * 2 ^ 56 % 8 = 0
    omega
theorem swriteReadOnly (o : FX) : Statement (.swriteReadOnly o) := o.toNat_bounds 0x13 (by decide)
theorem accessPerformed (part index : Nat) : Statement (.accessPerformed part index) := noWord _ rfl
theorem invalidationAcknowledged (part core : Nat) : Statement (.invalidationAcknowledged part core) := noWord _ rfl
theorem missFill (slice line : Nat) : Statement (.missFill slice line) := noWord _ rfl
theorem registerAnswer (part index : Nat) : Statement (.registerAnswer part index) := noWord _ rfl
theorem spillBlockWritten (workgroup : Nat) : Statement (.spillBlockWritten workgroup) := noWord _ rfl
theorem preemptionSaveDone (index : Nat) : Statement (.preemptionSaveDone index) := noWord _ rfl
theorem zeroingComplete (index : Nat) : Statement (.zeroingComplete index) := noWord _ rfl
theorem powerGate (unit : GateUnit) : Statement (.powerGate unit) := noWord _ rfl
theorem linkDown (port : Nat) : Statement (.linkDown port) := noWord _ rfl
theorem turnStep : Statement (.turnStep) := noWord _ rfl
theorem sdone : Statement .sdone := noWord _ rfl
theorem getVersion : Statement (.getVersion) := noWord _ rfl
theorem getCapabilities : Statement (.getCapabilities) := noWord _ rfl
theorem negotiateAlgorithms : Statement (.negotiateAlgorithms) := noWord _ rfl
theorem getDigests : Statement (.getDigests) := noWord _ rfl
theorem getCertificate : Statement (.getCertificate) := noWord _ rfl
theorem challenge : Statement (.challenge) := noWord _ rfl
theorem getMeasurements : Statement (.getMeasurements) := noWord _ rfl
theorem keyExchange : Statement (.keyExchange) := noWord _ rfl
theorem finish : Statement (.finish) := noWord _ rfl
theorem heartbeat : Statement (.heartbeat) := noWord _ rfl
theorem keyUpdate : Statement (.keyUpdate) := noWord _ rfl
theorem endSession : Statement (.endSession) := noWord _ rfl
theorem claim : Statement (.claim) := noWord _ rfl
theorem bind : Statement (.bind) := noWord _ rfl
theorem keyset : Statement (.keyset) := noWord _ rfl
theorem keyclr : Statement (.keyclr) := noWord _ rfl
theorem devreset : Statement (.devreset) := noWord _ rfl
theorem hedgereset : Statement (.hedgereset) := noWord _ rfl
theorem fwwrite : Statement (.fwwrite) := noWord _ rfl
theorem fwcommit : Statement (.fwcommit) := noWord _ rfl
theorem health : Statement (.health) := noWord _ rfl
theorem powerOn : Statement (.powerOn) := noWord _ rfl
theorem thermalTrip : Statement (.thermalTrip) := noWord _ rfl
theorem retirementReport : Statement (.retirementReport) := noWord _ rfl
theorem powerLoss : Statement (.powerLoss) := noWord _ rfl

end Laws.Fields

end Sys2Proof
end

