-- ==== Sys2Proof/Tests/Slice0.lean ====
section
/-! SUPPORT. The model's own tests: words written out from the encoding tables of the spec, an ill-formed term for each check
of WellFormed, one step of small machines, and for every statement with hypotheses a state and operands that meet them. -/

namespace Sys2Proof.Tests

set_option Elab.async false

open Sys2Proof Sys2Proof.Machine

/-! ## Words (R32 to R40, R367) -/

/-- GE = 1, GN = 1, GQ = 5. -/
def guarded : Guard := { ge := true, gn := true, gq := 5 }

/-- The word decodes to this instruction, with these P and S. -/
def reads (w : Word64) (i : Instr) (p : Bool := false) (m : Bool := false) : Bool :=
  match decodeWord w with
  | .ok x => decide (x = ⟨i, p, m⟩)
  | .error _ => false

/-- The AUX with which the encoding refuses a word. -/
def refusedWith (w : Word64) : Option Nat :=
  match decodeWord w with
  | .ok _ => none
  | .error a => some a

/-- Row 0x0_ of the opcode map (R40), the words laid out by R34. -/
theorem test_decode_row_0a :
    [(0x0100000000000000, .nop { d := 0, a := 0, b := 0, c := 0, qual := 0x0 }),
     (0x02007FFFFFFF01E8, .br { d := 0, off := 0xfffffffe, q := 1, guard := guarded }),
     (0x0302FFFFFFFF0100, .brg { d := 5, off := 0xfffffffe, q := 1 }),
     (0x04000140C07ABC00, .jt { d := 0, a := 5, b := 6, c := 7, qual := 0xabc }),
     (0x05004B00C07ABC00, .jtv { d := 0, a := 300, b := 6, c := 7, qual := 0xabc }),
     (0x06007FFFFFFF01E8, .call { d := 0, off := 0xfffffffe, q := 1, guard := guarded }),
     (0x0700024000012300, .calli { d := 0, a := 9, b := 0, c := 0, qual := 0x123 }),
     (0x0800000000000000, .ret { d := 0, a := 0, b := 0, c := 0, qual := 0x0 })].all (fun x => reads x.1 x.2 && encodeWord ⟨x.2, false, false⟩ == x.1) = true := by
  decide +kernel

/-- Row 0x0_ of the opcode map (R40), the words laid out by R34. -/
theorem test_decode_row_0b :
    [(0x09000000000FFF00, .lpad { d := 0, a := 0, b := 0, c := 0, qual := 0xfff }),
     (0x0A000FC000000000, .regang { d := 0, a := 63, b := 0, c := 0, qual := 0x0 }),
     (0x0B00000000000000, .exit { d := 0, a := 0, b := 0, c := 0, qual := 0x0 }),
     (0x0C00000000000F00, .trap { d := 0, a := 0, b := 0, c := 0, qual := 0xf }),
     (0x0D00000000000000, .brk { d := 0, a := 0, b := 0, c := 0, qual := 0x0 }),
     (0x0E038840000000E8, .elect { d := 7, a := 33, b := 0, c := 0, qual := 0x0, guard := guarded }),
     (0x0F00000000000000, .acquire { d := 0, a := 0, b := 0, c := 0, qual := 0x0 })].all (fun x => reads x.1 x.2 && encodeWord ⟨x.2, false, false⟩ == x.1) = true := by
  decide +kernel

/-- Row 0x1_ of the opcode map (R40), the words laid out by R34. -/
theorem test_decode_row_1a :
    [(0x10038840000000E8, .maskrd { d := 7, a := 33, b := 0, c := 0, qual := 0x0, guard := guarded }),
     (0x111081C0000000E8, .maskwr { d := 33, a := 7, b := 0, c := 0, qual := 0x0, guard := guarded }),
     (0x121403C000000000, .sread { d := 40, a := 15, b := 0, c := 0, qual := 0x0 }),
     (0x1304884000000000, .swriteFflags { d := 9, a := 33, b := 0, c := 0, qual := 0x0 }),
     (0x1305084000000000, .swriteFmode { d := 10, a := 33, b := 0, c := 0, qual := 0x0 }),
     (0x1306084000000000, .swritePrivhwm { d := 12, a := 33, b := 0, c := 0, qual := 0x0 }),
     (0x1307084000000000, .swriteTrapvec { d := 14, a := 33, b := 0, c := 0, qual := 0x0 })].all (fun x => reads x.1 x.2 && encodeWord ⟨x.2, false, false⟩ == x.1) = true := by
  decide +kernel

/-- Row 0x1_ of the opcode map (R40), the words laid out by R34. -/
theorem test_decode_row_1b :
    [(0x1302884000000000, .swriteReadOnly { d := 5, a := 33, b := 0, c := 0, qual := 0x0 }),
     (0x141FC4D5E6F78000, .gmovi { d := 63, imm := 0x89abcdef, q := 0 }),
     (0x151FC4D5E6F78000, .gmovh { d := 63, imm := 0x89abcdef, q := 0 }),
     (0x1600808063F00F00, .glea { d := 1, a := 2, b := 3, c := 63, sub := 15 }),
     (0x1700808063F00000, .gsel { d := 1, a := 2, b := 3, c := 63, sub := 0 }),
     (0x18008087E0000900, .gset { d := 1, a := 2, b := 63, c := 0, sub := 9 })].all (fun x => reads x.1 x.2 && encodeWord ⟨x.2, false, false⟩ == x.1) = true := by
  decide +kernel

/-- Row 0x2_ of the opcode map (R40), the words laid out by R34. -/
theorem test_decode_row_2a :
    [(0x201E8F87E0000000, .gadd { d := 61, a := 62, b := 63, c := 0, sub := 0 }),
     (0x211E8F87E0000000, .gsub { d := 61, a := 62, b := 63, c := 0, sub := 0 }),
     (0x221E8F87E0000000, .gmul { d := 61, a := 62, b := 63, c := 0, sub := 0 }),
     (0x231E8F87E0000100, .gmulh { d := 61, a := 62, b := 63, c := 0, sub := 1 }),
     (0x241E8F87E0000100, .gdiv { d := 61, a := 62, b := 63, c := 0, sub := 1 }),
     (0x251E8F87E0000100, .grem { d := 61, a := 62, b := 63, c := 0, sub := 1 }),
     (0x261E8F87E0000000, .gand { d := 61, a := 62, b := 63, c := 0, sub := 0 })].all (fun x => reads x.1 x.2 && encodeWord ⟨x.2, false, false⟩ == x.1) = true := by
  decide +kernel

/-- Row 0x2_ of the opcode map (R40), the words laid out by R34. -/
theorem test_decode_row_2b :
    [(0x271E8F87E0000000, .gor { d := 61, a := 62, b := 63, c := 0, sub := 0 }),
     (0x281E8F87E0000000, .gxor { d := 61, a := 62, b := 63, c := 0, sub := 0 }),
     (0x291E8F87E0000000, .gshl { d := 61, a := 62, b := 63, c := 0, sub := 0 }),
     (0x2A1E8F87E0000000, .gshr { d := 61, a := 62, b := 63, c := 0, sub := 0 }),
     (0x2B1E8F87E0000000, .gsar { d := 61, a := 62, b := 63, c := 0, sub := 0 }),
     (0x2C1E8F87E0000100, .gmin { d := 61, a := 62, b := 63, c := 0, sub := 1 }),
     (0x2D1E8F87E0000100, .gmax { d := 61, a := 62, b := 63, c := 0, sub := 1 })].all (fun x => reads x.1 x.2 && encodeWord ⟨x.2, false, false⟩ == x.1) = true := by
  decide +kernel

/-- Row 0x3_ of the opcode map (R40), the words laid out by R34. -/
theorem test_decode_row_3a :
    [(0x301E8FA6AF37C000, .gaddImm { d := 61, a := 62, imm := 0x9abcdf, sub := 0 }),
     (0x311E8FA6AF37C000, .gsubImm { d := 61, a := 62, imm := 0x9abcdf, sub := 0 }),
     (0x321E8FA6AF37C000, .gmulImm { d := 61, a := 62, imm := 0x9abcdf, sub := 0 }),
     (0x331E8FA6AF37C100, .gmulhImm { d := 61, a := 62, imm := 0x9abcdf, sub := 1 }),
     (0x341E8FA6AF37C100, .gdivImm { d := 61, a := 62, imm := 0x9abcdf, sub := 1 }),
     (0x351E8FA6AF37C100, .gremImm { d := 61, a := 62, imm := 0x9abcdf, sub := 1 }),
     (0x361E8FA6AF37C000, .gandImm { d := 61, a := 62, imm := 0x9abcdf, sub := 0 })].all (fun x => reads x.1 x.2 && encodeWord ⟨x.2, false, false⟩ == x.1) = true := by
  decide +kernel

/-- Row 0x3_ of the opcode map (R40), the words laid out by R34. -/
theorem test_decode_row_3b :
    [(0x371E8FA6AF37C000, .gorImm { d := 61, a := 62, imm := 0x9abcdf, sub := 0 }),
     (0x381E8FA6AF37C000, .gxorImm { d := 61, a := 62, imm := 0x9abcdf, sub := 0 }),
     (0x391E8F80000FC000, .gshlImm { d := 61, a := 62, imm := 0x3f, sub := 0 }),
     (0x3A1E8F80000FC000, .gshrImm { d := 61, a := 62, imm := 0x3f, sub := 0 }),
     (0x3B1E8F80000FC000, .gsarImm { d := 61, a := 62, imm := 0x3f, sub := 0 }),
     (0x3C1E8FA6AF37C100, .gminImm { d := 61, a := 62, imm := 0x9abcdf, sub := 1 }),
     (0x3D1E8FA6AF37C100, .gmaxImm { d := 61, a := 62, imm := 0x9abcdf, sub := 1 })].all (fun x => reads x.1 x.2 && encodeWord ⟨x.2, false, false⟩ == x.1) = true := by
  decide +kernel

/-- Row 0x4_ of the opcode map (R40), the words laid out by R34. -/
theorem test_decode_row_4a :
    [(0x40FF0080800418E8, .iadd { d := 510, a := 2, b := 4, c := 0, gb := false, sat := true, rnd := 0, ty := 3, sub := 0, guard := guarded }),
     (0x41FF0080800418E8, .isub { d := 510, a := 2, b := 4, c := 0, gb := false, sat := true, rnd := 0, ty := 3, sub := 0, guard := guarded }),
     (0x42FF0080800418E8, .imul { d := 510, a := 2, b := 4, c := 0, gb := false, sat := true, rnd := 0, ty := 3, sub := 0, guard := guarded }),
     (0x43FF80C7E0080800, .imulh { d := 511, a := 3, b := 63, c := 0, gb := true, sat := false, rnd := 0, ty := 1, sub := 0 }),
     (0x440200C0FFE00900, .imad { d := 4, a := 3, b := 7, c := 510, gb := false, sat := false, rnd := 0, ty := 1, sub := 1 }),
     (0x45FF0080800010E8, .iand { d := 510, a := 2, b := 4, c := 0, gb := false, sat := false, rnd := 0, ty := 2, sub := 0, guard := guarded }),
     (0x46FF0080800010E8, .ior { d := 510, a := 2, b := 4, c := 0, gb := false, sat := false, rnd := 0, ty := 2, sub := 0, guard := guarded }),
     (0x47FF0080800010E8, .ixor { d := 510, a := 2, b := 4, c := 0, gb := false, sat := false, rnd := 0, ty := 2, sub := 0, guard := guarded })].all (fun x => reads x.1 x.2 && encodeWord ⟨x.2, false, false⟩ == x.1) = true := by
  decide +kernel

/-- Row 0x4_ of the opcode map (R40), the words laid out by R34. -/
theorem test_decode_row_4b :
    [(0x48FF0080A0001000, .ishl { d := 510, a := 2, b := 5, c := 0, gb := false, sat := false, rnd := 0, ty := 2, sub := 0 }),
     (0x49FF0080A0001000, .ishr { d := 510, a := 2, b := 5, c := 0, gb := false, sat := false, rnd := 0, ty := 2, sub := 0 }),
     (0x4AFF0080A0001000, .isar { d := 510, a := 2, b := 5, c := 0, gb := false, sat := false, rnd := 0, ty := 2, sub := 0 }),
     (0x4BFF0080800010E8, .imin { d := 510, a := 2, b := 4, c := 0, gb := false, sat := false, rnd := 0, ty := 2, sub := 0, guard := guarded }),
     (0x4CFF0080800010E8, .imax { d := 510, a := 2, b := 4, c := 0, gb := false, sat := false, rnd := 0, ty := 2, sub := 0, guard := guarded }),
     (0x4DFF008000041000, .iabs { d := 510, a := 2, b := 0, c := 0, gb := false, sat := true, rnd := 0, ty := 2, sub := 0 }),
     (0x4EFF808000001800, .iclz { d := 511, a := 2, b := 0, c := 0, gb := false, sat := false, rnd := 0, ty := 3, sub := 0 }),
     (0x4FFF808000001800, .ipopc { d := 511, a := 2, b := 0, c := 0, gb := false, sat := false, rnd := 0, ty := 3, sub := 0 })].all (fun x => reads x.1 x.2 && encodeWord ⟨x.2, false, false⟩ == x.1) = true := by
  decide +kernel

/-- Row 0x5_ of the opcode map (R40), the words laid out by R34. -/
theorem test_decode_row_5a :
    [(0x50FF00BB72EA8CE8, .iaddImm { d := 510, a := 2, imm := 0xedcbaa, ty := 3, sub := 0, guard := guarded }),
     (0x51FF00BB72EA8CE8, .isubImm { d := 510, a := 2, imm := 0xedcbaa, ty := 3, sub := 0, guard := guarded }),
     (0x52FF00BB72EA8CE8, .imulImm { d := 510, a := 2, imm := 0xedcbaa, ty := 3, sub := 0, guard := guarded }),
     (0x55FF00BB72EA8CE8, .iandImm { d := 510, a := 2, imm := 0xedcbaa, ty := 3, sub := 0, guard := guarded }),
     (0x56FF00BB72EA8CE8, .iorImm { d := 510, a := 2, imm := 0xedcbaa, ty := 3, sub := 0, guard := guarded }),
     (0x57FF00BB72EA8CE8, .ixorImm { d := 510, a := 2, imm := 0xedcbaa, ty := 3, sub := 0, guard := guarded })].all (fun x => reads x.1 x.2 && encodeWord ⟨x.2, false, false⟩ == x.1) = true := by
  decide +kernel

/-- Row 0x5_ of the opcode map (R40), the words laid out by R34. -/
theorem test_decode_row_5b :
    [(0x58FF0080000FCC00, .ishlImm { d := 510, a := 2, imm := 0x3f, ty := 3, sub := 0 }),
     (0x59FF0080000FCC00, .ishrImm { d := 510, a := 2, imm := 0x3f, ty := 3, sub := 0 }),
     (0x5AFF0080000FCC00, .isarImm { d := 510, a := 2, imm := 0x3f, ty := 3, sub := 0 }),
     (0x5BFF00BB72EA8CE8, .iminImm { d := 510, a := 2, imm := 0xedcbaa, ty := 3, sub := 0, guard := guarded }),
     (0x5CFF00BB72EA8CE8, .imaxImm { d := 510, a := 2, imm := 0xedcbaa, ty := 3, sub := 0, guard := guarded })].all (fun x => reads x.1 x.2 && encodeWord ⟨x.2, false, false⟩ == x.1) = true := by
  decide +kernel

/-- Row 0x6_ of the opcode map (R40), the words laid out by R34. -/
theorem test_decode_row_6a :
    [(0x60FF80C7E0080000, .ibfx { d := 511, a := 3, b := 63, c := 0, gb := true, sat := false, rnd := 0, ty := 0, sub := 0 }),
     (0x61FF80C7E0000800, .ibfi { d := 511, a := 3, b := 63, c := 0, gb := false, sat := false, rnd := 0, ty := 1, sub := 0 }),
     (0x6203FF8080001D00, .iset { d := 7, a := 510, b := 4, c := 0, gb := false, sat := false, rnd := 0, ty := 3, sub := 5 }),
     (0x6303FFFFFFFFC700, .isetImm { d := 7, a := 511, imm := 0xffffff, ty := 1, sub := 3 }),
     (0x64FF010000001800, .mov { d := 510, a := 4, b := 0, c := 0, gb := false, sat := false, rnd := 0, ty := 3, sub := 0 })].all (fun x => reads x.1 x.2 && encodeWord ⟨x.2, false, false⟩ == x.1) = true := by
  decide +kernel

/-- Row 0x6_ of the opcode map (R40), the words laid out by R34. -/
theorem test_decode_row_6b :
    [(0x65FFC4D5E6F780E8, .movi { d := 511, imm := 0x89abcdef, q := 0, guard := guarded }),
     (0x66FF0FC000001800, .movg { d := 510, a := 63, b := 0, c := 0, gb := false, sat := false, rnd := 0, ty := 3, sub := 0 }),
     (0x67FF0100C0701800, .sel { d := 510, a := 4, b := 6, c := 7, gb := false, sat := false, rnd := 0, ty := 3, sub := 0 }),
     (0x68038180A0000700, .qop { d := 7, a := 6, b := 5, c := 0, gb := false, sat := false, rnd := 0, ty := 0, sub := 7 }),
     (0x69FF81C000000200, .qmov { d := 511, a := 7, b := 0, c := 0, gb := false, sat := false, rnd := 0, ty := 0, sub := 2 })].all (fun x => reads x.1 x.2 && encodeWord ⟨x.2, false, false⟩ == x.1) = true := by
  decide +kernel

/-- Row 0x7_ of the opcode map (R40), the words laid out by R34. -/
theorem test_decode_row_7a :
    [(0x70FFFFBFA00620E8, .fadd { d := 511, a := 510, b := 509, c := 0, gb := false, sat := true, rnd := 4, ty := 4, sub := 0, guard := guarded }),
     (0x71FFFFBFA00620E8, .fsub { d := 511, a := 510, b := 509, c := 0, gb := false, sat := true, rnd := 4, ty := 4, sub := 0, guard := guarded }),
     (0x72FFFFBFA00620E8, .fmul { d := 511, a := 510, b := 509, c := 0, gb := false, sat := true, rnd := 4, ty := 4, sub := 0, guard := guarded }),
     (0x73FFFF87FFCCA000, .ffma { d := 511, a := 510, b := 63, c := 508, gb := true, sat := true, rnd := 1, ty := 4, sub := 0 }),
     (0x74FFFFBFA0002000, .fmin { d := 511, a := 510, b := 509, c := 0, gb := false, sat := false, rnd := 0, ty := 4, sub := 0 }),
     (0x75FFFFBFA0002000, .fmax { d := 511, a := 510, b := 509, c := 0, gb := false, sat := false, rnd := 0, ty := 4, sub := 0 }),
     (0x7603FFBFA0002700, .fset { d := 7, a := 510, b := 509, c := 0, gb := false, sat := false, rnd := 0, ty := 4, sub := 7 })].all (fun x => reads x.1 x.2 && encodeWord ⟨x.2, false, false⟩ == x.1) = true := by
  decide +kernel

/-- Row 0x7_ of the opcode map (R40), the words laid out by R34. -/
theorem test_decode_row_7b :
    [(0x77FFFF8000002000, .fclass { d := 511, a := 510, b := 0, c := 0, gb := false, sat := false, rnd := 0, ty := 4, sub := 0 }),
     (0x78FFFF800001A000, .frnd { d := 511, a := 510, b := 0, c := 0, gb := false, sat := false, rnd := 3, ty := 4, sub := 0 }),
     (0x79FFFFBFA0013000, .hadd2 { d := 511, a := 510, b := 509, c := 0, gb := false, sat := false, rnd := 2, ty := 6, sub := 0 }),
     (0x7AFFFFBFA0013000, .hmul2 { d := 511, a := 510, b := 509, c := 0, gb := false, sat := false, rnd := 2, ty := 6, sub := 0 }),
     (0x7BFFFFBFBFC42800, .hfma2 { d := 511, a := 510, b := 509, c := 508, gb := false, sat := true, rnd := 0, ty := 5, sub := 0 }),
     (0x7CFF00C000E51000, .cvt { d := 510, a := 3, b := 0, c := 14, gb := false, sat := true, rnd := 2, ty := 2, sub := 0 })].all (fun x => reads x.1 x.2 && encodeWord ⟨x.2, false, false⟩ == x.1) = true := by
  decide +kernel

/-- Row 0x8_ of the opcode map (R40), the words laid out by R34. -/
theorem test_decode_row_8a :
    [(0x80FFFFBFBFC05300, .dp4 { d := 511, a := 510, b := 509, c := 508, gb := false, sat := false, rnd := 0, ty := 10, sub := 3 }),
     (0x81FFFF87FFCA4800, .dp8 { d := 511, a := 510, b := 63, c := 508, gb := true, sat := false, rnd := 4, ty := 9, sub := 0 }),
     (0x82FFFFBFA004CF00, .qpack { d := 511, a := 510, b := 509, c := 0, gb := false, sat := true, rnd := 1, ty := 9, sub := 7 }),
     (0x83FFFFBFA004CF00, .qunpk { d := 511, a := 510, b := 509, c := 0, gb := false, sat := true, rnd := 1, ty := 9, sub := 7 }),
     (0x84FFFF80000020E8, .rcp { d := 511, a := 510, b := 0, c := 0, gb := false, sat := false, rnd := 0, ty := 4, sub := 0, guard := guarded }),
     (0x85FFFF80000020E8, .rsq { d := 511, a := 510, b := 0, c := 0, gb := false, sat := false, rnd := 0, ty := 4, sub := 0, guard := guarded }),
     (0x86FFFF800001A000, .sqrt { d := 511, a := 510, b := 0, c := 0, gb := false, sat := false, rnd := 3, ty := 4, sub := 0 }),
     (0x87FFFF8000042000, .exp2 { d := 511, a := 510, b := 0, c := 0, gb := false, sat := true, rnd := 0, ty := 4, sub := 0 })].all (fun x => reads x.1 x.2 && encodeWord ⟨x.2, false, false⟩ == x.1) = true := by
  decide +kernel

/-- Row 0x8_ of the opcode map (R40), the words laid out by R34. -/
theorem test_decode_row_8b :
    [(0x88FFFF80000020E8, .log2 { d := 511, a := 510, b := 0, c := 0, gb := false, sat := false, rnd := 0, ty := 4, sub := 0, guard := guarded }),
     (0x89FFFF80000020E8, .sin { d := 511, a := 510, b := 0, c := 0, gb := false, sat := false, rnd := 0, ty := 4, sub := 0, guard := guarded }),
     (0x8AFFFF80000020E8, .cos { d := 511, a := 510, b := 0, c := 0, gb := false, sat := false, rnd := 0, ty := 4, sub := 0, guard := guarded }),
     (0x8BFFFF80000020E8, .tanh { d := 511, a := 510, b := 0, c := 0, gb := false, sat := false, rnd := 0, ty := 4, sub := 0, guard := guarded }),
     (0x8CFFFFBFA0500B00, .lperm { d := 511, a := 510, b := 509, c := 5, gb := false, sat := false, rnd := 0, ty := 1, sub := 3 }),
     (0x8DFF7F07E0081800, .bcast { d := 510, a := 508, b := 63, c := 0, gb := true, sat := false, rnd := 0, ty := 3, sub := 0 }),
     (0x8EFF81C000400500, .qfold { d := 511, a := 7, b := 0, c := 4, gb := false, sat := false, rnd := 0, ty := 0, sub := 5 }),
     (0x8FFFFF8000322000, .redx { d := 511, a := 510, b := 0, c := 3, gb := false, sat := false, rnd := 4, ty := 4, sub := 0 })].all (fun x => reads x.1 x.2 && encodeWord ⟨x.2, false, false⟩ == x.1) = true := by
  decide +kernel

/-- Row 0x9_ of the opcode map (R40), the words laid out by R34. -/
theorem test_decode_row_9a :
    [(0x90FFFF8000140C00, .scanx { d := 511, a := 510, b := 0, c := 1, gb := false, sat := true, rnd := 0, ty := 1, sub := 4 })].all (fun x => reads x.1 x.2 && encodeWord ⟨x.2, false, false⟩ == x.1) = true := by
  decide +kernel

/-- Row 0xA_ of the opcode map (R40), the words laid out by R34. -/
theorem test_decode_row_Aa :
    [(0xA0FE0FFFCB0924E8, .ld { d := 508, a := 63, b := 510, ord := 1, defer := false, idx := 3, mop := 0, scope := 4, space := 4, size := 4, mq := 4, guard := guarded }),
     (0xA1FF0FFFF6045A00, .st { d := 510, a := 63, b := 511, ord := 2, defer := true, idx := 2, mop := 0, scope := 2, space := 1, size := 3, mq := 2 }),
     (0xA2FE0FFFCB070200, .ldd { d := 508, a := 63, b := 510, ord := 1, defer := false, idx := 3, mop := 0, scope := 3, space := 4, size := 0, mq := 2 }),
     (0xA3FE0FC010070600, .stq { d := 508, a := 63, b := 0, ord := 2, defer := false, idx := 0, mop := 0, scope := 3, space := 4, size := 0, mq := 6 }),
     (0xA4000FFFE1071100, .pf { d := 0, a := 63, b := 511, ord := 0, defer := false, idx := 1, mop := 0, scope := 3, space := 4, size := 2, mq := 1 }),
     (0xA5FF8FC008090900, .rld { d := 511, a := 63, b := 0, ord := 1, defer := false, idx := 0, mop := 0, scope := 4, space := 4, size := 1, mq := 1 }),
     (0xA6FF8FC014091000, .rst { d := 511, a := 63, b := 0, ord := 2, defer := true, idx := 0, mop := 0, scope := 4, space := 4, size := 2, mq := 0 })].all (fun x => reads x.1 x.2 && encodeWord ⟨x.2, false, false⟩ == x.1) = true := by
  decide +kernel

/-- Row 0xA_ of the opcode map (R40), the words laid out by R34. -/
theorem test_decode_row_Ab :
    [(0xA7FE0FC018791800, .rat { d := 508, a := 63, b := 0, ord := 3, defer := false, idx := 0, mop := 7, scope := 4, space := 4, size := 3, mq := 0 }),
     (0xA803010041271100, .atom { d := 6, a := 4, b := 2, ord := 0, defer := false, idx := 1, mop := 2, scope := 3, space := 4, size := 2, mq := 1 }),
     (0xA9FF8FC014C25000, .red { d := 511, a := 63, b := 0, ord := 2, defer := true, idx := 0, mop := 12, scope := 1, space := 1, size := 2, mq := 0 }),
     (0xAA00000018080000, .fence { d := 0, a := 0, b := 0, ord := 3, defer := false, idx := 0, mop := 0, scope := 4, space := 0, size := 0, mq := 0 }),
     (0xAB000FC7C00900E8, .clean { d := 0, a := 63, b := 62, ord := 0, defer := false, idx := 0, mop := 0, scope := 4, space := 4, size := 0, mq := 0, guard := guarded }),
     (0xAC000FC7C00900E8, .inval { d := 0, a := 63, b := 62, ord := 0, defer := false, idx := 0, mop := 0, scope := 4, space := 4, size := 0, mq := 0, guard := guarded }),
     (0xAD000FC7C0070000, .icinv { d := 0, a := 63, b := 62, ord := 0, defer := false, idx := 0, mop := 0, scope := 3, space := 4, size := 0, mq := 0 })].all (fun x => reads x.1 x.2 && encodeWord ⟨x.2, false, false⟩ == x.1) = true := by
  decide +kernel

/-- Row 0xB_ of the opcode map (R40), the words laid out by R34. -/
theorem test_decode_row_Ba :
    [(0xB000091A2B3C0000, .attempt { d := 0, off := 0x12345678, q := 0 }),
     (0xB100091A2B3C0000, .otherwise { d := 0, off := 0x12345678, q := 0 }),
     (0xB200000000000000, .settle { d := 0, a := 0, b := 0, c := 0, qual := 0x0 }),
     (0xB300000000007F00, .abandon { d := 0, a := 0, b := 0, c := 0, qual := 0x7f }),
     (0xB400000000000000, .retry { d := 0, a := 0, b := 0, c := 0, qual := 0x0 }),
     (0xB51F800000000100, .xstat { d := 63, a := 0, b := 0, c := 0, qual := 0x1 }),
     (0xB6FF0FC008945800, .waitw { d := 510, a := 63, b := 0, ord := 1, defer := false, idx := 0, mop := 9, scope := 2, space := 1, size := 3, mq := 0 })].all (fun x => reads x.1 x.2 && encodeWord ⟨x.2, false, false⟩ == x.1) = true := by
  decide +kernel

/-- Row 0xB_ of the opcode map (R40), the words laid out by R34. -/
theorem test_decode_row_Bb :
    [(0xB7000F87E0000100, .stinit { d := 0, a := 62, b := 63, c := 0, qual := 0x1 }),
     (0xB81E8F87E0000100, .starr { d := 61, a := 62, b := 63, c := 0, qual := 0x1 }),
     (0xB9000F87E0000100, .stexp { d := 0, a := 62, b := 63, c := 0, qual := 0x1 }),
     (0xBA000F87E0000100, .stwait { d := 0, a := 62, b := 63, c := 0, qual := 0x1 }),
     (0xBB00000000000000, .fbegin { d := 0, a := 0, b := 0, c := 0, qual := 0x0 }),
     (0xBC00000000000000, .fend { d := 0, a := 0, b := 0, c := 0, qual := 0x0 })].all (fun x => reads x.1 x.2 && encodeWord ⟨x.2, false, false⟩ == x.1) = true := by
  decide +kernel

/-- Row 0xC_ of the opcode map (R40), the words laid out by R34. -/
theorem test_decode_row_Ca :
    [(0xC0038F87E0000300, .copy { d := 7, a := 62, b := 63, c := 0, qual := 0x3 }),
     (0xC1038F8703FABC00, .msgsend { d := 7, a := 62, b := 56, c := 63, qual := 0xabc }),
     (0xC2038F87E0000100, .launch { d := 7, a := 62, b := 63, c := 0, qual := 0x1 })].all (fun x => reads x.1 x.2 && encodeWord ⟨x.2, false, false⟩ == x.1) = true := by
  decide +kernel

/-- Row 0xC_ of the opcode map (R40), the words laid out by R34. -/
theorem test_decode_row_Cb :
    [(0xC303800000003800, .dturn { d := 7, a := 0, b := 0, c := 0, qual := 0x38 }),
     (0xC41F800000000000, .dstat { d := 63, a := 0, b := 0, c := 0, qual := 0x0 })].all (fun x => reads x.1 x.2 && encodeWord ⟨x.2, false, false⟩ == x.1) = true := by
  decide +kernel

/-- Row 0xD_ of the opcode map (R40), the words laid out by R34. -/
theorem test_decode_row_Da :
    [(0xD0078F87E007E000, .tld { d := 15, a := 62, b := 63, c := 0, qual := 0x7e0 }),
     (0xD1078F87E017E000, .tst { d := 15, a := 62, b := 63, c := 1, qual := 0x7e0 }),
     (0xD207800000000000, .tzero { d := 15, a := 0, b := 0, c := 0, qual := 0x0 }),
     (0xD307838000000000, .tmov { d := 15, a := 14, b := 0, c := 0, qual := 0x0 }),
     (0xD4FF83C000023FE8, .trd { d := 511, a := 15, b := 0, c := 0, qual := 0x23f, guard := guarded }),
     (0xD5FF03C011460000, .twr { d := 510, a := 15, b := 0, c := 276, qual := 0x600 })].all (fun x => reads x.1 x.2 && encodeWord ⟨x.2, false, false⟩ == x.1) = true := by
  decide +kernel

/-- Row 0xD_ of the opcode map (R40), the words laid out by R34. -/
theorem test_decode_row_Db :
    [(0xD600830000003F00, .cimld { d := 1, a := 12, b := 0, c := 0, qual := 0x3f }),
     (0xD700800000000000, .cimsel { d := 1, a := 0, b := 0, c := 0, qual := 0x0 }),
     (0xD802000020021500, .mma { d := 4, a := 0, b := 1, c := 0, qual := 0x215 }),
     (0xD90281802001FC00, .mmas { d := 5, a := 6, b := 1, c := 0, qual := 0x1fc }),
     (0xDA1F0FC000000000, .sheaf { d := 62, a := 63, b := 0, c := 0, qual := 0x0 }),
     (0xDB000F87E0000000, .mwait { d := 0, a := 62, b := 63, c := 0, qual := 0x0 })].all (fun x => reads x.1 x.2 && encodeWord ⟨x.2, false, false⟩ == x.1) = true := by
  decide +kernel

/-- The script words (R367). -/
theorem test_decode_script :
    [(0x01F08001, .sli { d := 15, imm := 0x8001 }),
     (0x0210FFFF, .slui { d := 1, imm := 0xffff }),
     (0x03300007, .sarg { d := 3, a := 0, b := 0, imm := 0x7 }),
     (0x04345000, .sadd { d := 3, a := 4, b := 5, imm := 0x0 }),
     (0x05345000, .ssub { d := 3, a := 4, b := 5, imm := 0x0 }),
     (0x06345000, .sand { d := 3, a := 4, b := 5, imm := 0x0 }),
     (0x07345000, .sor { d := 3, a := 4, b := 5, imm := 0x0 }),
     (0x08345000, .sxor { d := 3, a := 4, b := 5, imm := 0x0 }),
     (0x09340FFF, .saddi { d := 3, a := 4, b := 0, imm := 0xfff }),
     (0x0A34003F, .sshl { d := 3, a := 4, b := 0, imm := 0x3f }),
     (0x0B34003F, .sshr { d := 3, a := 4, b := 0, imm := 0x3f }),
     (0x0C3407F8, .sld { d := 3, a := 4, b := 0, imm := 0x7f8 }),
     (0x0D340808, .sst { d := 3, a := 4, b := 0, imm := 0x808 }),
     (0x0E045000, .ssig { d := 0, a := 4, b := 5, imm := 0x0 }),
     (0x0F045001, .sbeq { d := 0, a := 4, b := 5, imm := 0x1 }),
     (0x100450FF, .sbne { d := 0, a := 4, b := 5, imm := 0xff }),
     (0x11045002, .sblt { d := 0, a := 4, b := 5, imm := 0x2 }),
     (0x12600003, .sloop { d := 6, a := 0, b := 0, imm := 0x3 }),
     (0x13645001, .senq { d := 6, a := 4, b := 5, imm := 0x1 }),
     (0x14000000, .sdone),
     (0x150000AB, .sabort { d := 0, a := 0, b := 0, imm := 0xab })].all (fun x : BitVec 32 × Instr => decodeScript x.1 == some x.2 && encodeScript x.2 == some x.1) = true := by
  decide +kernel

/-- The examples of R72, R98, R128 and R59 (`gadd g5, g5, -1`, `brg g5, top`, and the pair of an IADD and an LD). -/
theorem test_decode_examples :
    reads 0x3002817FFFFFC000 (.gaddImm { d := 5, a := 5, imm := 0xFFFFFF, sub := 0 }) false false = true ∧
    reads 0x0302FFFFFFFF0000 (.brg { d := 5, off := 0xFFFFFFFE, q := 0 }) false false = true ∧
    reads 0x4002004040000002 (.iadd { d := 4, a := 1, b := 2, c := 0, gb := false, sat := false, rnd := 0, ty := 0, sub := 0 }) true false = true ∧
    reads 0xA004010061071001 (.ld { d := 8, a := 4, b := 3, ord := 0, defer := false, idx := 1, mop := 0, scope := 3, space := 4, size := 2, mq := 0 }) false true = true ∧
    reads 0xA803010041271100 (.atom { d := 6, a := 4, b := 2, ord := 0, defer := false, idx := 1, mop := 2, scope := 3, space := 4, size := 2, mq := 1 }) false false = true := by
  decide +kernel

/-- The bytes of that pair as memory holds them (R59). -/
theorem test_decode_bytes :
    leNat [0x02, 0x00, 0x00, 0x40, 0x40, 0x00, 0x02, 0x40] = 0x4002004040000002 ∧
    decodeTableWord 64 0x0100000000000000 = some (.nop { d := 0, a := 0, b := 0, c := 0, qual := 0 }) ∧
    decodeTableWord 32 0x14000000 = some .sdone := by decide +kernel

/-- Words that the encoding refuses, with the AUX of R402: an unassigned or ILLEGAL opcode is an instruction that traps with
AUX 0x01, bit 2 and reserved bits give 0x02. -/
theorem test_decode_refusals :
    refusedWith 0x0100000000000004 = some 2 ∧ refusedWith 0x2002804000001000 = some 2 ∧ refusedWith 0x2020000000000000 = some 3 ∧
    refusedWith 0x400600C0E0040010 = some 6 ∧ refusedWith 0x4000000000007800 = some 4 ∧
    reads 0xFFFFFFFFFFFFFFFF (.unassignedOpcode 0xFF) true true = true := by decide +kernel

/-! ## Terms that the checks refuse (R35, R36, R39, R63 to R69, R92 to R128, R167, R183, R368) -/

/-- A field outside its kind: a gang register 64, a predicate 8, a tile 16, a bank 2, an odd pair, a quad that is no multiple of
4, and a field that the instruction does not use. -/
theorem test_wf_kinds :
    (Instr.gadd { d := 64, a := 1, b := 2, c := 0, sub := 0 }).wellFormed = false ∧
    (Instr.maskrd { d := 8, a := 1, b := 0, c := 0, qual := 0 }).wellFormed = false ∧
    (Instr.tzero { d := 16, a := 0, b := 0, c := 0, qual := 0 }).wellFormed = false ∧
    (Instr.cimsel { d := 2, a := 0, b := 0, c := 0, qual := 0 }).wellFormed = false ∧
    (Instr.mov { d := 5, a := 2, b := 0, c := 0, gb := false, sat := false, rnd := 0, ty := 3, sub := 0 }).wellFormed = false ∧
    (Instr.ld { d := 6, a := 1, b := 0, ord := 0, defer := false, idx := 0, mop := 0, scope := 3, space := 4, size := 4, mq := 0 }).wellFormed = false ∧
    (Instr.nop { d := 1, a := 0, b := 0, c := 0, qual := 0 }).wellFormed = false ∧
    (Instr.sread { d := 1, a := 16, b := 0, c := 0, qual := 0 }).wellFormed = false ∧
    (Instr.swriteFmode { d := 9, a := 1, b := 0, c := 0, qual := 0 }).wellFormed = false := by decide

/-- Guards: GE where none is taken, and GN or GQ without GE. -/
theorem test_wf_guards :
    (Instr.gadd { d := 1, a := 1, b := 2, c := 0, sub := 0, guard := guarded }).wellFormed = false ∧
    (Instr.movi { d := 1, imm := 0, q := 0, guard := { gn := true } }).wellFormed = false ∧
    (Instr.br { d := 0, off := 0, q := 0, guard := { gq := 1 } }).wellFormed = false ∧
    (Instr.fence { d := 0, a := 0, b := 0, ord := 1, defer := false, idx := 0, mop := 0, scope := 3, space := 0, size := 0, mq := 0, guard := guarded }).wellFormed = false := by
  decide

/-- The subfields of a lane word: TY, SUB, SAT, RND, GB, Q2 and a shift count, each at a code that is not accepted. -/
theorem test_wf_lane_words :
    let o : FV3 := { d := 2, a := 4, b := 6, c := 0, gb := false, sat := false, rnd := 0, ty := 0, sub := 0 }
    (Instr.iadd { o with ty := 4 }).wellFormed = false ∧ (Instr.iadd { o with sub := 1 }).wellFormed = false ∧
    (Instr.imulh { o with sat := true }).wellFormed = false ∧ (Instr.iadd { o with rnd := 1 }).wellFormed = false ∧
    (Instr.fadd { o with ty := 4, rnd := 5 }).wellFormed = false ∧ (Instr.iadd { o with ty := 3, gb := true }).wellFormed = false ∧
    (Instr.iabs { o with b := 0, gb := true }).wellFormed = false ∧ (Instr.iadd { o with c := 1 }).wellFormed = false ∧
    (Instr.sel { o with ty := 1, c := 8 }).wellFormed = false ∧ (Instr.iset { o with d := 7, sub := 6 }).wellFormed = false ∧
    (Instr.lperm { o with ty := 1, c := 6 }).wellFormed = false ∧ (Instr.bcast { o with ty := 1, b := 6 }).wellFormed = false ∧
    (Instr.redx { o with ty := 4, b := 0, sub := 3 }).wellFormed = false ∧ (Instr.cvt { o with b := 0, c := 15 }).wellFormed = false ∧
    (Instr.qpack { o with ty := 8, sub := 4 }).wellFormed = false ∧
    (Instr.ishlImm { d := 2, a := 4, imm := 32, ty := 0, sub := 0 }).wellFormed = false ∧
    (Instr.gshlImm { d := 2, a := 4, imm := 64, sub := 0 }).wellFormed = false ∧
    (Instr.gadd { d := 1, a := 1, b := 2, c := 0, sub := 1 }).wellFormed = false ∧
    (Instr.gset { d := 1, a := 1, b := 2, c := 0, sub := 10 }).wellFormed = false := by decide

/-- The Q and QUAL bits that an instruction does not use, and the mode 3 of a branch. -/
theorem test_wf_qualifiers :
    (Instr.gmovi { d := 1, imm := 0, q := 1 }).wellFormed = false ∧ (Instr.brg { d := 1, off := 0, q := 2 }).wellFormed = false ∧
    (Instr.br { d := 0, off := 0, q := 3, guard := guarded }).wellFormed = false ∧ (Instr.br { d := 0, off := 0, q := 1 }).wellFormed = false ∧
    (Instr.attempt { d := 0, off := 0, q := 1 }).wellFormed = false ∧
    (Instr.trap { d := 0, a := 0, b := 0, c := 0, qual := 16 }).wellFormed = false ∧
    (Instr.abandon { d := 0, a := 0, b := 0, c := 0, qual := 128 }).wellFormed = false ∧
    (Instr.dturn { d := 1, a := 0, b := 0, c := 0, qual := 7 }).wellFormed = false ∧
    (Instr.dturn { d := 1, a := 0, b := 0, c := 0, qual := 57 }).wellFormed = false ∧
    (Instr.msgsend { d := 1, a := 0, b := 57, c := 0, qual := 0 }).wellFormed = false := by decide

/-- The fields of a memory word: SCOPE for the space, SIZE, ORD, IDX, DEFER, MOP and MQ. -/
theorem test_wf_memory_words :
    let o : FM := { d := 8, a := 1, b := 0, ord := 0, defer := false, idx := 0, mop := 0, scope := 3, space := 4, size := 2, mq := 0 }
    (Instr.ld { o with scope := 5 }).wellFormed = false ∧ (Instr.ld { o with space := 0 }).wellFormed = false ∧
    (Instr.ld { o with size := 5 }).wellFormed = false ∧ (Instr.ld { o with ord := 2 }).wellFormed = false ∧
    (Instr.ld { o with defer := true }).wellFormed = false ∧ (Instr.ld { o with mop := 1 }).wellFormed = false ∧
    (Instr.ld { o with mq := 1 }).wellFormed = false ∧ (Instr.ldd { o with size := 0, idx := 1 }).wellFormed = false ∧
    (Instr.atom { o with scope := 2 }).wellFormed = false ∧ (Instr.atom { o with mop := 13 }).wellFormed = false ∧
    (Instr.red { o with mop := 6 }).wellFormed = false ∧ (Instr.atom { o with mop := 10, size := 3 }).wellFormed = false ∧
    (Instr.atom { o with mq := 1 }).wellFormed = false ∧ (Instr.rld { o with scope := 3 }).wellFormed = false ∧
    (Instr.waitw { o with mop := 10 }).wellFormed = false ∧ (Instr.clean { o with d := 0, scope := 0, size := 0 }).wellFormed = false := by
  decide

/-- Tile and matrix words: rows beyond the tile, four tiles beyond the last, a pair of accumulators at an odd tile, accumulators
that overlap A, and the format half of TWR and TRD. -/
theorem test_wf_matrix_words :
    let o : FX := { d := 4, a := 0, b := 0, c := 0, qual := 0 }
    (Instr.tld { o with qual := 63 * 64 + 1 }).wellFormed = false ∧ (Instr.tst { o with c := 2 }).wellFormed = false ∧
    (Instr.cimld { o with d := 0, a := 13, qual := 8 }).wellFormed = false ∧ (Instr.cimld { o with d := 0, qual := 16 }).wellFormed = false ∧
    (Instr.mma { o with d := 5 }).wellFormed = false ∧ (Instr.mma { o with a := 5 }).wellFormed = false ∧
    (Instr.mmas { o with a := 1, qual := 512 }).wellFormed = false ∧ (Instr.trd { o with qual := 1024 + 2048 }).wellFormed = false ∧
    (Instr.trd { o with qual := 1024 + 1 }).wellFormed = false := by decide

/-- Script words: fields that an op does not use, a count of 0, an offset that is no multiple of 8, and an argument beyond 7. -/
theorem test_wf_script_words :
    let o : FS := { d := 1, a := 2, b := 3, imm := 8 }
    (Instr.sarg { o with a := 0, b := 0 }).wellFormed = false ∧ (Instr.sadd o).wellFormed = false ∧ (Instr.saddi o).wellFormed = false ∧
    (Instr.sshl { o with b := 0, imm := 64 }).wellFormed = false ∧ (Instr.sld { o with b := 0, imm := 4 }).wellFormed = false ∧
    (Instr.ssig o).wellFormed = false ∧ (Instr.sbeq { o with d := 0, imm := 0 }).wellFormed = false ∧
    (Instr.sloop { o with a := 0, b := 0, imm := 0 }).wellFormed = false ∧ (Instr.senq { o with imm := 2 }).wellFormed = false ∧
    (Instr.sabort o).wellFormed = false ∧ (Instr.unassignedOpcode 0x20).wellFormed = false := by decide

/-! ## A small machine

One part, number 1, runs with its gang, workgroup and context on core 0. Its address space, with root 0x100000 and ASID 1, maps
the first GiB of HBM4 for data and the second for code. The driver's tables and queue 0 are as a driver leaves them. -/

/-- The driver's structures and the page tables. -/
def tables : List Host.Cell :=
  -- the root block: hedge table, ASID table, queue table of die 0, export table, health ring
  [(0x02, 0x24), (0x0A, 0x21), (0x12, 0x20), (0x2A, 0x22), (0x32, 0x23), (0x38, 0x10)] ++
  -- L4, L3 and L2 of the page table
  [(0x100000, 0x01), (0x100001, 0x20), (0x100002, 0x10), (0x102000, 0x01), (0x102001, 0x40), (0x102002, 0x10),
   (0x104000, 0x65), (0x104001, 0x0E), (0x104010, 0xA5), (0x104011, 0x0C), (0x104013, 0x40),
   -- the third GiB has tables down to L0, for private memory
   (0x104020, 0x01), (0x104021, 0x60), (0x104022, 0x10), (0x106000, 0x01), (0x106001, 0x80), (0x106002, 0x10)] ++
  -- queue 0: ring 0x300000 of 16, device-writable and privileged, hedge 1, ASID 1, WIDX 1, completion ring 0x310000 of 16, a
  -- script window of 4 KiB at 0x320000
  [(0x200002, 0x30), (0x200008, 0x10), (0x20000C, 0x06), (0x20000D, 0x01), (0x20000E, 0x01), (0x200018, 0x01),
   (0x200022, 0x31), (0x200028, 0x10), (0x200072, 0x32), (0x200079, 0x10)] ++
  -- ASID 1: root, key 5, hedge 1, valid
  [(0x210022, 0x10), (0x210028, 0x05), (0x21002A, 0x01), (0x21002B, 0x01)] ++
  -- the export table's entry 0: device 7, ASID 2 imports 1 GiB of ASID 1
  [(0x220000, 0x07), (0x220002, 0x02), (0x220004, 0x01), (0x220006, 0x01), (0x220013, 0x40)] ++
  -- the hedge's page pool: WIDX 4, and the frame 0x800000
  [(0x250008, 4), (0x250042, 0x80)]

def leafData : TlbEntry :=
  { asid := 1, page := 0, pa := 0, r := true, w := true, x := false, mt := 0, ext := true, fmt := 0, blk := 0, sfa := 0, lg := 30 }
def leafCode : TlbEntry := { leafData with page := 0x40000, pa := 0x40000000, w := false, x := true, ext := false }

/-- Gang registers by number. -/
def gregs (xs : List (Nat × Word64)) : Vector Word64 64 := xs.foldl (fun g x => g.setIfInBounds x.1 x.2) (Vector.replicate 64 0)

/-- The part in hand, with every slice of its gang. -/
def part0 : Part :=
  { id := 1, gang := 1, state := .ready, pc := 0x40001000, slices := 0xFF, act := 0xFFFFFFFF
    g := gregs [(1, 0x500000), (2, 8), (3, 3), (4, 0x500080), (5, 64)] }

/-- The machine: `code` is a list of words from the part's PC on. -/
def base (code : List Word64 := []) : State :=
  { me := part0
    gang := { id := 1, workgroup := 1, started := 0xFF, vblk := 16, full := true, privLimit := 1024, hwm := 256 }
    wg := { id := 1, context := 1, core := 0, state := .running, scr := 65536, ntiles := 16, cim := 3, granted := true }
    ctx := { id := 1, live := true, asid := 1, hedge := 1, root := 0x100000, key := 5, ngang := 1, npad := 1, nslice := 8, placed := 1
             entry := 0x40001000, privBase := 0x80000000, privLimit := 1024, trapArea := 0x700000, vfull := 16, scr := 65536, tiles := 16, cim := 2 }
    core := { id := 1, tlb := [leafData, leafCode], icache := code.zipIdx.map fun x => (icacheKey 1 (0x40001000 + 8 * x.2), x.1) }
    mgmt := { keys := [{ n := 5, key := some [1] }] }
    hedges := [{ n := 1, cores := 1, pool := 0x250000 }]
    mem := tables ++ (code.zipIdx.flatMap fun x => ((leBytes 8 x.1.toNat).zipIdx.filter (·.1 ≠ 0)).map fun y =>
      (0x40001000 + 8 * x.2 + y.2, y.1))
    resident := [0xA000, 0xA001, 0xA002, 0xA003, 0x800020, 0xE000].map fun l => { line := l }
    queues := [{ handle := 0 }]
    nextId := 10
    boot := .running }

/-- The machine with another part in hand. -/
def baseWith (f : Part → Part) (code : List Word64 := []) : State := { base code with me := f (base code).me }

theorem test_base_memory : memoryWf (base [0x0100000000000000, 0x0B00000000000001]) = true := by decide +kernel

/-- The page tables say what the TLB holds. -/
theorem test_base_walk :
    base.walk 0x100000 1 0x500000 = .leaf leafData ∧ base.walk 0x100000 1 0x40001000 = .leaf leafCode ∧
    base.walk 0x100000 1 0x80000000 = .fault 7 1 := by decide +kernel

/-! ## Witnesses: the hypotheses of the statements, met together

Each theorem shows states and operands that meet the hypotheses of the statement it names; with several clauses, of each. -/

/-- The word's checks pass, as a Bool. -/
def ready (i : Instr) (s : State) : Bool := i.wellFormed && decide (s.me.id ≠ 0) && (s.contextTrap i).isNone

theorem ready_iff (i : Instr) (s : State) : Ready i s ↔ ready i s = true := by
  simp [Ready, ready, and_assoc]

def v3 (d a b : Field) (ty : BitVec 4) (sub : BitVec 3 := 0) (c : Field := 0) : FV3 :=
  { d := d, a := a, b := b, c := c, gb := false, sat := false, rnd := 0, ty := ty, sub := sub }
def vi (d a : Field) (imm : BitVec 24) (ty : BitVec 4) : FVI := { d := d, a := a, imm := imm, ty := ty, sub := 0 }
def g3 (d a b : Field) (sub : BitVec 4 := 0) (c : Field := 0) : FG := { d := d, a := a, b := b, c := c, sub := sub }
def gi (d a : Field) (imm : BitVec 24) : FGI := { d := d, a := a, imm := imm, sub := 0 }
def fx (d a b c : Field) (qual : BitVec 12 := 0) : FX := { d := d, a := a, b := b, c := c, qual := qual }
def fm (d a : Field) (scope space size : BitVec 3) : FM :=
  { d := d, a := a, b := 0, ord := 0, defer := false, idx := 0, mop := 0, scope := scope, space := space, size := size, mq := 0 }

/-- NativeWordsRoundTrip and NativeWordsHaveOneMeaning: a word of each field at its greatest value. -/
theorem test_witness_round_trip :
    let x : Decoded := ⟨.ffma { d := 511, a := 510, b := 63, c := 508, gb := true, sat := true, rnd := 4, ty := 4, sub := 0, guard := guarded }, true, true⟩
    x.instr.isNative = true ∧ x.instr.wellFormed = true ∧ reads (encodeWord x) x.instr true true = true ∧
      ∀ op, x.instr ≠ .unassignedOpcode op := ⟨by decide +kernel, by decide +kernel, by decide +kernel, fun _ => by simp⟩

/-- ScriptWordsRoundTrip. -/
theorem test_witness_script_words :
    encodeScript (.saddi { d := 15, a := 15, b := 0, imm := 0xFFF }) = some 0x09FF0FFF ∧
    (Instr.saddi { d := 15, a := 15, b := 0, imm := 0xFFF }).wellFormed = true ∧
    decodeScript 0x09FF0FFF = some (.saddi { d := 15, a := 15, b := 0, imm := 0xFFF }) := by decide +kernel

/-- GangWordsWriteTheirRegister: each gang word, among them a write to g0, a division by 0 and the shift by 63. -/
theorem test_witness_gang_words :
    ([.gmovi { d := 0, imm := 5, q := 0 }, .gmovh { d := 63, imm := 5, q := 0 }, .glea (g3 1 2 3 15 4), .gsel (g3 1 2 3 0 4),
      .gset (g3 1 2 3 9), .gadd (g3 1 2 3), .gsub (g3 1 2 3), .gmul (g3 1 2 3), .gmulh (g3 1 2 3 1), .gdiv (g3 1 2 6),
      .grem (g3 1 2 6 1), .gand (g3 1 2 3), .gor (g3 1 2 3), .gxor (g3 1 2 3), .gshl (g3 1 2 3), .gshr (g3 1 2 3), .gsar (g3 1 2 3),
      .gmin (g3 1 2 3 1), .gmax (g3 1 2 3), .gaddImm (gi 1 2 0x800000), .gsubImm (gi 1 2 3), .gmulImm (gi 1 2 3), .gmulhImm (gi 1 2 3),
      .gdivImm (gi 1 2 0), .gremImm (gi 1 2 0), .gandImm (gi 1 2 3), .gorImm (gi 1 2 3), .gxorImm (gi 1 2 3), .gshlImm (gi 1 2 63),
      .gshrImm (gi 1 2 63), .gsarImm (gi 1 2 63), .gminImm (gi 1 2 3), .gmaxImm (gi 1 2 3)] : List Instr).all
      (fun i => (gangValue base.rg i).isSome && ready i base) = true := by decide +kernel

/-- IntegerAndMoveWordsPutResultsInFlight: each integer word in its register form and its immediate form, in both widths. -/
theorem test_witness_integer_words :
    ([.iadd (v3 2 4 6 3), .isub (v3 2 4 6 0), .imul (v3 2 4 6 1), .imulh (v3 2 4 6 1), .imad (v3 2 4 7 0 1 8), .imad (v3 2 4 6 0 0 7),
      .iand (v3 2 4 6 3), .ior (v3 2 4 6 1), .ixor (v3 2 4 6 1), .ishl (v3 2 4 7 3), .ishr (v3 2 4 6 1), .isar (v3 2 4 6 0), .imin (v3 2 4 6 0),
      .imax (v3 2 4 6 2), .iabs { v3 2 4 0 2 with sat := true }, .iclz (v3 2 4 0 3), .ipopc (v3 2 4 0 1), .iaddImm (vi 2 4 0x800000 3),
      .isubImm (vi 2 4 1 0), .imulImm (vi 2 4 1 0), .iandImm (vi 2 4 0xFFFFFF 3), .iorImm (vi 2 4 1 1), .ixorImm (vi 2 4 1 1),
      .ishlImm (vi 2 4 63 3), .ishrImm (vi 2 4 31 1), .isarImm (vi 2 4 31 0), .iminImm (vi 2 4 1 0), .imaxImm (vi 2 4 1 0)] : List Instr).all
      (fun i => (laneValue base i).isSome && ready i base) = true := by decide +kernel

/-- The same for the bit-field, move and predicate words. -/
theorem test_witness_move_words :
    ([.ibfx (v3 2 4 6 0), .ibfi (v3 2 4 6 1), .iset (v3 7 4 6 3 5), .isetImm { vi 7 4 1 3 with sub := 3 }, .mov (v3 2 4 0 3),
      .movi { d := 511, imm := 7, q := 0 }, .movg (v3 2 63 0 3), .sel (v3 2 4 6 3 0 7), .qop (v3 7 6 5 0 7), .qmov (v3 7 6 0 0 0),
      .qmov (v3 7 6 0 0 1), .qmov (v3 6 7 0 0 2)] : List Instr).all
      (fun i => (moveValue base i).isSome && ready i base) = true := by decide +kernel

/-- FloatingWordsPutResultsInFlight. -/
theorem test_witness_floating_words :
    ([.fadd (v3 2 4 6 4), .fsub (v3 2 4 6 4), .fmul (v3 2 4 6 4), .ffma (v3 2 4 6 4 0 8), .fmin (v3 2 4 6 4), .fmax (v3 2 4 6 4),
      .fset (v3 7 4 6 4 7), .fclass (v3 2 4 0 4), .frnd (v3 2 4 0 4), .hadd2 (v3 2 4 6 5), .hmul2 (v3 2 4 6 6), .hfma2 (v3 2 4 6 5 0 8),
      .dp4 (v3 2 4 6 10 3 8), .dp4 (v3 2 4 6 8 0 8), .dp8 (v3 2 4 6 11 0 8), .dp8 (v3 2 4 6 9 0 8), .cvt (v3 2 4 0 2 0 4),
      .cvt (v3 2 4 0 4 0 3), .qpack (v3 2 4 6 9 7), .qunpk (v3 2 4 6 7 3), .sqrt (v3 2 4 0 4), .rcp (v3 2 4 0 4), .rsq (v3 2 4 0 4),
      .exp2 { v3 2 4 0 4 with sat := true }, .log2 (v3 2 4 0 4), .sin (v3 2 4 0 4), .cos (v3 2 4 0 4), .tanh (v3 2 4 0 4)] : List Instr).all
      (fun i => (floatValue base i).isSome && ready i base) = true := by decide +kernel

/-- CrossLaneWordsPutResultsInFlight. -/
theorem test_witness_cross_lane_words :
    ([.lperm (v3 2 4 0 3 4), .lperm (v3 2 4 6 1 2 5), .bcast { v3 2 4 6 3 with gb := true }, .qfold (v3 7 6 0 0 2 5), .qfold (v3 7 6 0 0 5 0),
      .redx (v3 2 4 0 4 0 3), .redx { v3 2 4 0 0 0 with sat := true }, .scanx (v3 2 4 0 4 6 1)] : List Instr).all
      (fun i => (crossValue base i).isSome && ready i base) = true := by decide +kernel

/-- EncodingRoundsCorrectly and ExactValuesAndSums: values that round in each direction, a tie, and the greatest encoding that is no NaN,
in each format. -/
theorem test_witness_encodings :
    (floatFormats.all fun f => (List.range 4).all fun rm =>
      (f.encode (.fin false 3 (-1)) rm false false).2 &&& flagOF == 0 && (f.encode (.fin true 5 (-30)) rm true false).2 &&& flagOF == 0) = true ∧
    (floatFormats.all fun f => isNan (f.decode 1) == false && isNan (f.decode (2 ^ f.width)) == false) = true := by decide +kernel

/-- A tie: halfway between 1 and the next FP16 value, with both neighbours. -/
theorem test_witness_tie :
    let out := fmt16.encode (.fin false 2049 (-11)) 0 false false
    out.2 &&& flagOF = 0 ∧ out.1 = 0x3C00 ∧ fmt16.decode 0x3C00 = .fin false 1024 (-10) ∧ fmt16.decode 0x3C01 = .fin false 1025 (-10) ∧
    ratOf false 1025 (-10) ≠ ratOf false 1024 (-10) ∧
    (ratOf false 1025 (-10) - ratOf false 2049 (-11)).abs = (ratOf false 1024 (-10) - ratOf false 2049 (-11)).abs := by
  refine ⟨by decide +kernel, by decide +kernel, by decide +kernel, by decide +kernel, ?_, ?_⟩ <;> decide +kernel

/-- Conversions: a value at each end of a type and beyond it, a NaN, an infinity and a fraction. -/
theorem test_witness_conversions :
    integerType 10 = some (8, true) ∧ integerType 0 = some (32, true) ∧
    convert 10 0 0 false false 128 = (placed 8 true 127, flagSAT) ∧ convert 10 0 0 false false 127 = (127, 0) ∧
    convert 12 0 0 false false 300 = (0x2C, 0) ∧ convert 12 0 0 true false 300 = (255, flagSAT) ∧
    convert 0 4 2 false false 0x40490FDB = (3, flagNX) ∧ convert 10 4 1 false false 0x43960000 = (127, flagNV) ∧
    convert 0 4 0 false false 0x7FC00000 = (0, flagNV) ∧ convert 1 4 0 false false 0xFF800000 = (0, flagNV) := by decide +kernel

/-- The special values: a signalling NaN, the least negative input, and the ends of EXP2's ranges. -/
theorem test_witness_special_values :
    isNan (fmt32.decode 0x7F800001) = true ∧ (0x80800000 : Word32).toNat ≤ 0xFF800000 ∧
    Approx.exp2.eval false false 0x43000000 = (0x7F800000, flagOF) ∧ Approx.exp2.eval true false 0x7F7FFFFF = (0x7F7FFFFF, flagOF ||| flagSAT) ∧
    Approx.exp2.eval false false 0xC3160001 = (0, flagUF) ∧ Approx.rsq.eval false false 0x80800000 = (0x7FC00000, flagNV) := by decide +kernel

/-- StepRunsTheWordAtThePc: the word NOP at the PC, a GADD that reads a poisoned register, and the word 4, which traps. -/
theorem test_witness_step_word :
    let s := { base [0x0100000000000000] with agenda := [.issue 1] }
    let u := { base [0x0100000000000004] with agenda := [.issue 1] }
    let p := { baseWith fun p => { p with badG := [2] } with agenda := [.issue 1] }
    Issues p [] ∧ ((chosen s []).fetch s.me.pc).1.poisonWord (.nop (fx 0 0 0 0)) = none ∧
    ((chosen p []).poisonWord (.gadd (g3 1 2 3))).map (·.code) = some 0x0B ∧
    Issues s [] ∧ ((chosen s []).fetch s.me.pc).2 = .word 0x0100000000000000 ∧ reads 0x0100000000000000 (.nop (fx 0 0 0 0)) = true ∧
    ((chosen s []).fetch s.me.pc).1.atStop false = false ∧
    Issues u [] ∧ ((chosen u []).fetch u.me.pc).2 = .word 0x0100000000000004 ∧ refusedWith 0x0100000000000004 = some 2 ∧ u.me.second = false := by
  refine ⟨⟨by decide, by decide, by decide +kernel, by decide, fun _ h => by cases h⟩, by decide +kernel, by decide +kernel,
    ⟨by decide, by decide, by decide +kernel, by decide, fun _ h => by cases h⟩, by decide +kernel, by decide +kernel, by decide +kernel,
    ⟨by decide, by decide, by decide +kernel, by decide, fun _ h => by cases h⟩, by decide +kernel, by decide +kernel, by decide⟩

/-- StepRunsPairsScriptsAndEvents: the pair of R59, a script op, and an event. -/
theorem test_witness_step_pair :
    let s := { base [0x4002004040000002, 0xA004010061071001] with agenda := [.issue 1] }
    let s1 := ((chosen s []).fetch s.me.pc).1
    let r := { base with agenda := [.script 0], scr := { live := true, words := [0x14000000] } }
    Issues s [] ∧ ((chosen s []).fetch s.me.pc).2 = .word 0x4002004040000002 ∧ (s1.fetch (s1.me.pc + 8)).2 = .word 0xA004010061071001 ∧
    (s1.fetch (s1.me.pc + 8)).1.atStop true = false ∧ bitFault (.iadd (v3 4 1 2 0)) = none ∧
    r.agenda = [.script r.scr.queue] ∧ r.scriptWord = some .sdone ∧ Instr.isEvent .turnStep = true := by
  refine ⟨⟨by decide, by decide, by decide +kernel, by decide, fun _ h => by cases h⟩, by decide +kernel, by decide +kernel, by decide +kernel,
    rfl, rfl, by decide +kernel, by decide +kernel⟩

/-- EveryStepGoesOn, StepsKeepMemoryForm: a machine with an empty agenda, and the one from reset. -/
theorem test_witness_steps :
    (∀ (e : Instr) (rest : List Input), base.agenda = .event e :: rest → e.isEvent = true) ∧
    memoryWf base = true ∧ ∃ t, step State.reset = .next t :=
  ⟨fun _ _ h => by simp [base] at h, by decide +kernel, _, rfl⟩

/-- DarkDevicesStayDark: a device after a thermal trip, and a dark one whose agenda names a part. -/
theorem test_witness_dark :
    let s : State := { boot := .tripped, agenda := [.issue 1] }
    Tripped s ∧ (∀ rest, s.agenda ≠ .event .powerLoss :: rest) ∧ s.boot ≠ .running ∧ ∃ t, step s = .next t :=
  ⟨⟨rfl, by simp [State.allCtxs], by simp⟩, by simp, by decide, _, rfl⟩

/-- ContextChecksComeFirst: a masked word, a register, a tile and a bank beyond the allotment, and an uncovered word. -/
theorem test_witness_context_checks :
    let m := { base with ctx := { base.ctx with mask := 2 } }
    let v := { base with gang := { base.gang with vblk := 1 } }
    let w := { base with wg := { base.wg with ntiles := 1, cim := 1 } }
    let h := { base with ctx := { base.ctx with harvest := true } }
    let rld : Instr := .rld (fm 8 1 4 4 2)
    let x := { h with me := { h.me with levels := [default] } }
    (Instr.tzero (fx 1 0 0 0)).issueClass = .matrix ∧ x.me.levels ≠ [] ∧ x.me.inFurrow = false ∧ (Instr.tzero (fx 1 0 0 0)).bare = false ∧
    m.contextTrap rld = some (3, 1) ∧ v.contextTrap (.iadd (v3 2 4 32 0)) = some (4, 1) ∧ v.contextTrap (.iadd (v3 2 4 31 0)) = none ∧
    w.contextTrap (.tzero (fx 1 0 0 0)) = some (4, 2) ∧ w.contextTrap (.cimsel (fx 1 0 0 0)) = some (4, 3) ∧
    h.contextTrap (.gadd (g3 48 1 1)) = some (4, 4) ∧ h.contextTrap (.gadd (g3 47 1 1)) = some (0x0E, 0x20) ∧
    h.contextTrap (.nop (fx 0 0 0 0)) = none ∧ rld.isNative = true ∧ bitFault rld = none ∧ w.me.levels = [] := by decide +kernel

/-- GangAndIntegerHalvesReadOldRegisters: GADD and IADD, in either order. -/
theorem test_witness_pairs :
    let a : Decoded := ⟨.gadd (g3 1 2 3), true, false⟩
    let b : Decoded := ⟨.iadd (v3 2 4 6 0), false, true⟩
    let b' : Decoded := { b with pair := true, mark := false }
    let a' : Decoded := { a with pair := false, mark := true }
    pairTrap a b = none ∧ base.pairContext a.instr b.instr = none ∧ pairTrap b' a' = none ∧ base.pairContext b.instr a.instr = none ∧
    a.instr.wellFormed = true ∧ b.instr.wellFormed = true ∧ base.poisonWord a.instr = none ∧ base.poisonWord b.instr = none ∧ base.me.state = .ready ∧
    (∀ second : Bool, (laneValue { base with me := { base.me with act := base.issueLanes, second := second, hide := 0 } } b.instr).isSome) ∧
    (gangValue base.rg a.instr).isSome ∧ base.me.drain = false ∧ base.me.trap = none ∧
    base.me.replay = none := by decide +kernel

/-- RegisterReadsSeeLandedOrInFlight: a part without results in flight, where the read is what has landed. -/
theorem test_witness_reads : ∀ e ∈ base.me.visible, ∀ x : Word32, (32 * 3 + 1, x) ∉ e.writes := by simp [base, part0, Part.visible]

/-- SystemRegistersAreRead: every register, and WID. -/
theorem test_witness_sread :
    ((List.range 16).all fun n => ready (.sread (fx (if n = 0 then 2 else 5) (BitVec.ofNat 9 n) 0 0)) base) = true := by decide +kernel

/-- The machine with one gang register set. -/
def withG1 (x : Word64) : State := baseWith fun p => { p with g := gregs [(1, x)] }

/-- SystemRegistersAreWritten: each register at the ends of what it takes, and beyond. -/
theorem test_witness_swrite :
    ([.swriteFflags (fx 9 1 0 0), .swriteFmode (fx 10 1 0 0), .swritePrivhwm (fx 12 1 0 0), .swriteTrapvec (fx 14 1 0 0),
      .swriteReadOnly (fx 15 1 0 0)] : List Instr).all (fun i => ready i base) = true ∧
    ((withG1 63).rg 1).toNat < 64 ∧ ((withG1 7).rg 1).toNat < 8 ∧ ((withG1 0x1FFFFFFFFFFFFF9).rg 1).toNat / 2 % 4 = 0 ∧
    ((withG1 256).rg 1).toNat % 2 ^ 32 ≤ (withG1 256).gang.hwm ∧ ((withG1 1024).rg 1).toNat % 2 ^ 32 ≤ (withG1 1024).gang.privLimit ∧
    (base.grow ((257 + 127) / 128 * 128)).2 = none ∧ (base.grow ((257 + 127) / 128 * 128)).1.gang.hwm = 384 ∧
    (withG1 1025).gang.privLimit < ((withG1 1025).rg 1).toNat % 2 ^ 32 ∧ ((withG1 2).rg 1).toNat / 2 % 4 ≠ 0 ∧
    base.me.id ≠ 0 ∧ 16 ≤ (16 : Field).toNat := by decide +kernel

/-- MaskWordsMoveLaneBits: with active lanes, and with none. -/
theorem test_witness_mask_words :
    ([.maskrd (fx 7 63 0 0), .maskwr (fx 63 7 0 0), .elect (fx 7 63 0 0)] : List Instr).all (fun i => ready i base) = true ∧
    lanesOf (base.active { ge := true, gq := 1 }) = [] ∧ lanesOf (base.active {}) = List.range 32 := by decide +kernel

/-- No predicate is set in the machine. -/
theorem base_rq (code : List Word64) (r l : Nat) : (base code).rq r l = false := by
  have h : (Vector.replicate 8 (0 : LaneMask)).getD r 0 = 0 := by
    by_cases hr : r < 8 <;> simp [Vector.getD, hr]
  simp only [State.rq, base, Part.visible, part0, List.take_nil, State.mixQ, h]
  exact BitVec.getLsbD_zero

/-- UniformBranchesGoOneWay: a branch without a guard, and one whose condition holds in no lane. -/
theorem test_witness_uniform_branches :
    let o : FB := { d := 0, off := 0xFFFFFFFE, q := 0 }
    let n : FB := { d := 0, off := 4, q := 1, guard := { ge := true, gq := 1 } }
    Ready (.br o) base ∧ Ready (.call o) base ∧ Ready (.br n) base ∧ Ready (.call n) base ∧ base.me.slices ≠ 0 ∧
    (∀ i, ¬Disagrees base o i) ∧ (∀ i, ¬Disagrees base n i) ∧ (∀ i, takes base o i) ∧ (∀ i, ¬takes base n i) ∧
    base.me.stack.length < 255 ∧ (baseWith fun p => { p with stack := List.replicate 255 (.ret 0) }).me.stack.length = 255 := by
  refine ⟨(ready_iff _ _).2 (by decide +kernel), (ready_iff _ _).2 (by decide +kernel), (ready_iff _ _).2 (by decide +kernel),
    (ready_iff _ _).2 (by decide +kernel), by decide, fun i h => absurd h.1 (by decide), fun i h => absurd h.2.1 (by decide),
    fun i => by simp [takes], fun i => ?_, by decide, by decide +kernel⟩
  simp [takes, base_rq]

/-- The machine with q1 set in the lanes of a mask. -/
def withQ1 (m : LaneMask) : State := { base with gang := { base.gang with q := (Vector.replicate 8 0).set 1 m } }

theorem withQ1_rq (m : LaneMask) (l : Nat) : (withQ1 m).rq 1 l = m.getLsbD l := by
  simp [State.rq, withQ1, base, Part.visible, part0, State.mixQ, Vector.getD]

/-- The bits of an 8-bit or 32-bit value, told by a predicate. -/
theorem bits_of {n : Nat} (x : BitVec n) (p : Nat → Bool) (h : ∀ i, i < n → x.getLsbD i = p i) (h' : ∀ i, n ≤ i → p i = false) (i : Nat) :
    x.getLsbD i = p i := by
  by_cases hi : i < n
  · exact h i hi
  · rw [h' i (by omega)]; exact BitVec.getLsbD_of_ge x i (by omega)

/-- SplitBranchesMakeTwoParts: the example of R72, q1 set in lanes 0 to 7 of a full part, of a BR and a CALL, outside and inside a
furrow. -/
theorem test_witness_split_branches :
    let s := withQ1 0xFF
    let f := { s with me := { s.me with inFurrow := true } }
    let o : FB := { d := 0, off := 4, q := 0, guard := { ge := true, gq := 1 } }
    Ready (.br o) s ∧ (∀ i, ¬Disagrees s o i) ∧ (∀ i, (0x03 : BitVec 8).getLsbD i = true ↔ s.me.slices.getLsbD i = true ∧ takes s o i) ∧
    (0xFC : BitVec 8) = s.me.slices &&& ~~~0x03 ∧ s.me.levels = [] ∧ s.me.inFurrow = false ∧ s.ctx.harvest = false ∧ s.me.settled = true ∧
    Ready (.call o) s ∧ s.me.stack.length < 255 ∧ Ready (.br o) f ∧ Ready (.call o) f ∧ (∀ i, ¬Disagrees f o i) ∧
    (∀ i, (0x03 : BitVec 8).getLsbD i = true ↔ f.me.slices.getLsbD i = true ∧ takes f o i) := by
  have hq : ∀ l, (withQ1 0xFF).rq 1 l = decide (l < 8) := fun l => by
    rw [withQ1_rq]; exact bits_of _ (fun l => decide (l < 8)) (by decide +kernel) (fun i hi => by simp; omega) l
  have h1 : ∀ i, (0x03 : BitVec 8).getLsbD i = decide (i < 2) :=
    bits_of _ _ (by decide +kernel) (fun i hi => by simp; omega)
  have h2 : ∀ i, (withQ1 0xFF).me.slices.getLsbD i = decide (i < 8) :=
    bits_of _ _ (by decide +kernel) (fun i hi => by simp; omega)
  have hd : ∀ i, ¬Disagrees (withQ1 0xFF) { d := 0, off := 4, q := 0, guard := { ge := true, gq := 1 } } i := by
    rintro i ⟨-, -, -, l, k, rfl, hk, hd⟩
    simp only [hq, show (1 : BitVec 3).toNat = 1 from rfl] at hd
    by_cases h : l < 8
    · simp [h, show k < 8 by omega] at hd
    · simp [h, show ¬k < 8 by omega] at hd
  have ht : ∀ i, (0x03 : BitVec 8).getLsbD i = true ↔ (withQ1 0xFF).me.slices.getLsbD i = true ∧
      takes (withQ1 0xFF) { d := 0, off := 4, q := 0, guard := { ge := true, gq := 1 } } i := by
    intro i
    simp only [h1, h2, takes, decide_eq_true_eq, show (1 : BitVec 3).toNat = 1 from rfl, hq]
    constructor
    · intro hi
      refine ⟨by omega, ?_⟩
      show ∀ l, l / 4 = i → decide (l < 8) ≠ false
      intro l hl
      simp
      omega
    · rintro ⟨-, ht⟩
      have ht' : decide (4 * i < 8) ≠ false := (show ∀ l, l / 4 = i → decide (l < 8) ≠ false from ht) (4 * i) (by omega)
      simp at ht'
      omega
  exact ⟨(ready_iff _ _).2 (by decide +kernel), hd, ht, by decide +kernel, rfl, rfl, rfl, by decide +kernel, (ready_iff _ _).2 (by decide +kernel),
    by decide, (ready_iff _ _).2 (by decide +kernel), (ready_iff _ _).2 (by decide +kernel), hd, ht⟩

/-- DisagreeingSlicesDiverge: the second row of R72's example, q1 set in lanes 0 to 5. -/
theorem test_witness_disagreeing_slices :
    Disagrees (withQ1 0x3F) { d := 0, off := 4, q := 0, guard := { ge := true, gq := 1 } } 1 ∧
    Ready (.br { d := 0, off := 4, q := 0, guard := { ge := true, gq := 1 } }) (withQ1 0x3F) :=
  ⟨⟨rfl, by decide, by decide +kernel, 4, 6, rfl, rfl, by decide +kernel⟩, (ready_iff _ _).2 (by decide +kernel)⟩

/-- The place of an address of the first GiB. -/
def spotOf (a : Nat) : Spot := { ua := a, key := 1 + 5 * 2 ^ 32, mt := 0, entry := some leafData, spans := [leafData.span] }

/-- TransfersReachTheirTargets: each transfer on both of its paths; the table's entry 0 names the LPAD at the kernel's entry. -/
theorem test_witness_transfers :
    let s := base [0x0900000000012300]
    ([.nop (fx 0 0 0 0), .lpad (fx 0 0 0 0 0xFFF), .brg { d := 1, off := 0, q := 0 }, .brg { d := 1, off := 0, q := 1 }, .jt (fx 0 0 1 2 0x123),
      .jt (fx 0 5 1 2), .calli (fx 0 6 0 0 0x123), .ret (fx 0 0 0 0), .jtv (fx 0 3 1 2 0x123)] : List Instr).all (fun i => ready i s) = true ∧
    (s.rg 2).toNat ≤ (s.rg 5).toNat ∧ (s.rg 0).toNat < (s.rg 2).toNat ∧
    Readable s (s.rg 1 + 4 * s.rg 0) 4 2 (spotOf 0x500000) ∧ tableTargetOf s (spotOf 0x500000) = 0x40001000 ∧
    LandsOn s 0x40001000 0x123 (s.fetch 0x40001000).1 ∧ (0x40001000 : Word64).toNat % 8 = 0 ∧
    (∀ l, l < 32 → s.present.getLsbD l = true → s.rv 3 l = 0) ∧ tableTargetOf s (spotOf 0x500000) ≠ s.me.pc + 8 := by
  unfold Readable Uncopied
  refine ⟨by decide +kernel, by decide +kernel, by decide +kernel, by decide +kernel, by decide +kernel,
    ⟨0x0900000000012300, Prod.ext rfl (by decide +kernel), by decide +kernel, by decide +kernel⟩, by decide +kernel, by decide +kernel, by decide +kernel⟩

/-- JTV whose lanes differ within a slice, RET with a return address, and CALLI below the greatest depth. -/
theorem test_witness_transfers_2 :
    let s := { base with gang := { base.gang with v := [(96, 1)] } }
    s.rv 3 0 ≠ s.rv 3 1 ∧ s.present.getLsbD 0 = true ∧ s.me.stack.length < 255 ∧
    (baseWith fun p => { p with stack := [.ret 0x40001008] }).me.stack = .ret 0x40001008 :: [] := by decide +kernel

/-- PartsRejoinAndExit: a part that passes, one that parks, and one that joins another; and EXIT with and without another part. -/
theorem test_witness_regang :
    let named (i : Nat) : Prop := (base.rg 0).toNat % 256 = 0 ∨ (base.rg 0).getLsbD i
    let awaited (s : State) (i : Nat) : Prop := s.gang.started.getLsbD i = true ∧ ¬s.gang.gone.getLsbD i = true
    let half := baseWith fun p => { p with slices := 0x0F }
    let q : Part := { part0 with id := 2, slices := 0xF0, state := .parked (.regang 0) }
    let two := { half with parts := [q] }
    Ready (.regang (fx 0 0 0 0)) base ∧ Ready (.exit (fx 0 0 0 0)) base ∧ base.me.inflight = [] ∧ base.me.levels = [] ∧
    base.me.gang = base.gang.id ∧ base.gang.id ≠ 0 ∧
    (∀ i, i < 8 → named i → awaited base i → base.me.slices.getLsbD i = true) ∧
    (∃ i, i < 8 ∧ named i ∧ awaited half i ∧ half.me.slices.getLsbD i = false) ∧
    two.parts = q :: [] ∧ q.gang = two.gang.id ∧ q.pc = two.me.pc ∧ q.inFurrow = two.me.inFurrow ∧ q.stack = two.me.stack ∧ q.id ≠ 0 ∧
    (∀ i, i < 8 → awaited two i → (two.me.slices ||| q.slices).getLsbD i = true) ∧
    base.gang.workgroup = base.wg.id ∧ base.wg.id ≠ 0 ∧ (∃ p ∈ two.parts, p.gang = two.gang.id ∧ p.state ≠ .exited) ∧
    (∀ p ∈ base.parts, p.gang = base.gang.id → p.state = .exited) := by
  refine ⟨(ready_iff _ _).2 (by decide +kernel), (ready_iff _ _).2 (by decide +kernel), rfl, rfl, rfl, by decide, ?_, ⟨4, by decide, .inl (by decide), by decide,
    by decide⟩, rfl, rfl, rfl, rfl, rfl, by decide, ?_, rfl, by decide, ⟨_, List.mem_cons_self, rfl, by decide⟩, fun p hp => by cases hp⟩
  · intro i hi _ _; revert i; decide +kernel
  · intro i hi _; revert i; decide +kernel

/-- WaitersAskAndAreGranted: ACQUIRE with and without the full allotment, with a request of the gang and without. -/
theorem test_witness_acquire :
    let s := { base with gang := { base.gang with full := false } }
    let t := { s with core := { s.core with acquires := [{ gang := 1, harvest := false }] } }
    ready (.acquire (fx 0 0 0 0)) base = true ∧ base.gang.full = true ∧ s.gang.full = false ∧ s.me.levels = [] ∧
    (∀ a ∈ s.core.acquires, a.gang ≠ s.gang.id) ∧ (∃ a ∈ t.core.acquires, a.gang = t.gang.id) := by decide +kernel

/-- The same, for the grants: a G request that fits, an H request behind none, one that does not fit, and a serial token. -/
theorem test_witness_grants :
    let c := { base.ctx with vfull := 1, scr := 256, tiles := 1, cim := 1 }
    let s := { base with ctx := c, gang := { base.gang with vblk := 1, full := false }, wg := { base.wg with scr := 0, ntiles := 0, cim := 0, granted := false }
                         core := { base.core with acquires := [{ gang := 1, harvest := false }] } }
    let u := { s with ctx := { c with vfull := 33 } }
    let h := { s with core := { s.core with acquires := [{ gang := 1, harvest := true }] } }
    let w := { base with hedges := [{ n := 1, cores := 1, waiters := [(true, 3), (false, 1)] }] }
    s.fits 0 (s.acquireWant s.gang) everyone = true ∧ u.fits 0 (u.acquireWant u.gang) everyone = false ∧ s.wg.core = 0 ∧
    (s.getCore 0).acquires.find? (fun x => !x.harvest) = some { gang := 1, harvest := false } ∧
    (∀ x ∈ (h.getCore 0).acquires, x.harvest = true) ∧ h.gWaits 0 = false ∧
    w.hedge? 1 = some { n := 1, cores := 1, waiters := [(true, 3), (false, 1)] } ∧
    [(true, 3), (false, 1)].find? (fun x : Bool × Nat => !x.1) = some (false, 1) := by decide +kernel

/-- The machine with an enabled trap handler. -/
def armed (f : Part → Part := id) : State :=
  { baseWith f with gang := { base.gang with tvEn := true, tvAddr := 0x8000200 } }

/-- TrapsAreTaken: a trap, TRAP 15, BRK with traps enabled and disabled. -/
theorem test_witness_traps :
    CanEnter (armed) { code := 8, aux := 1, lanes := 1 } (spotOf 0x700000) ∧ CanEnter (armed) { code := 0x2F, aux := 15, lanes := armed.present } (spotOf 0x700000) ∧
    CanEnter (armed) { code := 0x2F, aux := 0xFF, lanes := armed.present } (spotOf 0x700000) ∧
    Ready (.trap (fx 0 0 0 0 15)) (armed) ∧ Ready (.brk (fx 0 0 0 0)) (armed) ∧ Ready (.brk (fx 0 0 0 0)) base ∧ base.gang.tvEn = false := by
  refine ⟨?_, ?_, ?_, (ready_iff _ _).2 (by decide +kernel), (ready_iff _ _).2 (by decide +kernel), (ready_iff _ _).2 (by decide +kernel), rfl⟩ <;>
  · unfold CanEnter
    decide +kernel

/-- TrapsAbortOrEndTheContext: a trap in an attempt, and one that no handler takes. -/
theorem test_witness_trap_ends :
    let s := armed fun p => { p with levels := [{ alt := false, target := 0x40001100, start := 0x40001000 }] }
    s.me.levels ≠ [] ∧ s.me.doomed = false ∧ s.stale s.me.readLines = false ∧ CanEnter (s.hwAbort (0x40 + 8)) { code := 8, aux := 1, lanes := 1 } (spotOf 0x700000) ∧
    base.gang.tvEn = false ∧ base.slotPlace (recordSlot base.ctx base.wg base.gang base.me).toNat = .spot (spotOf 0x700000) ∧
    base.heldByOther 1 0x700000 64 true = none ∧ base.heldByOther 0 0x700000 64 true = none ∧ base.ownedUnit 0 0x700000 64 = false ∧
    base.wg.context = base.ctx.id ∧ base.ctx.report = none := by
  unfold CanEnter
  decide +kernel

/-- ReturnsFromTheHandler: a trap frame whose record is all zero. -/
theorem test_witness_return :
    let s := baseWith fun p => { p with stack := [.trap 0x700000] }
    Ready (.ret (fx 0 0 0 0)) s ∧ s.me.stack = .trap 0x700000 :: [] ∧ Readable s (0x700000 + 40) 8 3 (spotOf 0x700028) ∧
    Readable s (0x700000 + 48) 8 3 (spotOf 0x700030) ∧ Readable s (0x700000 + 56) 8 3 (spotOf 0x700038) ∧ seen s (spotOf 0x700028) 8 % 8 = 0 ∧
    (s.getCore s.here).l1 = [] ∧ s.sectors = [] := by
  refine ⟨(ready_iff _ _).2 (by decide +kernel), ?_⟩
  unfold Readable Uncopied
  decide +kernel

/-- The machine with lanes 0 and 1 under q1, and v3 holding 0 and 1 there. -/
def lanes2 (f : Part → Part := id) : State :=
  { baseWith f with gang := { base.gang with q := (Vector.replicate 8 0).set 1 3, v := [(97, 1)] } }

/-- An access of lanes 0 and 1: to gA plus the index in v3 times the size. -/
def fm2 (a : Field) (ord : BitVec 2) (scope space size : BitVec 3) (mop : BitVec 4 := 0) (mq : BitVec 3 := 0) (defer : Bool := false) : FM :=
  { d := 8, a := a, b := 3, ord := ord, defer := defer, idx := 1, mop := mop, scope := scope, space := space, size := size, mq := mq
    guard := { ge := true, gq := 1 } }

/-- Two words next to each other, and two at the end of a line. -/
def words2 : List (Nat × Spot) := [(0, spotOf 0x500000), (1, spotOf 0x500004)]
def wordsEnd : List (Nat × Spot) := [(0, spotOf 0x500078), (1, spotOf 0x50007C)]

/-- The machine with 4 KiB of peer 9 within reach, and a peer address in g6. -/
def withPeer : State := { lanes2 (fun p => { p with g := gregs [(1, 0x500000), (6, 9 * 2 ^ 54 + 0x100)] }) with peers := [{ device := 9, asid := 1, length := 4096 }] }

def peerWords : List (Nat × Spot) := [(0, { ua := peerAddr 9 1 0x100, mt := 2 }), (1, { ua := peerAddr 9 1 0x104, mt := 2 })]

/-- LoadsPutMemoryInFlight, StoresIssueTheirBytes: words of a line. -/
theorem test_witness_loads_and_stores :
    let o := fm2 1 0 3 4 2
    let s := lanes2
    s.me.levels = [] ∧ Plain s 4 words2 ∧ CleanCopies s ∧ s.blocked (words2.map (·.2)) 4 false = none ∧ ready (.ld o) s = true ∧
    ready (.st o) s = true ∧ Placed s (needOf o true false) (lanesOf (s.active o.guard)) (s.ea o 4) words2 ∧
    Placed s (needOf o false true) (lanesOf (s.active o.guard)) (s.ea o 4) words2 ∧ (∀ x ∈ words2, isOutside x.2.ua = false) ∧
    (∀ x ∈ words2, goesOut s o (s.levelOf s.me o.scope.toNat) x.2 = false ∧
      s.needsFill s.here (x.2.level (s.levelOf s.me o.scope.toNat)) x.2.ua = false) ∧ s.readsBefore (words2.map (·.2)) 4 = false ∧
    o.defer = false ∧ ∀ x ∈ words2, s.planeFull x.2 = false := by
  unfold Plain CleanCopies Placed Uncopied
  decide +kernel

/-- The same, where both lines are missing, one lane's in each, and where the load acquires. -/
theorem test_witness_loads_that_wait :
    let o := fm2 1 0 3 4 2
    let a := fm2 1 1 3 4 2
    let s : State := { lanes2 with resident := [], gang := { lanes2.gang with v := [(97, 32)] } }
    let xs : List (Nat × Spot) := [(0, spotOf 0x500000), (1, spotOf 0x500080)]
    s.me.levels = [] ∧ s.blocked (xs.map (·.2)) 4 false = none ∧ ready (.ld o) s = true ∧ ready (.ld a) s = true ∧
    Placed s (needOf o true false) (lanesOf (s.active o.guard)) (s.ea o 4) xs ∧ Placed s (needOf a true false) (lanesOf (s.active a.guard)) (s.ea a 4) xs ∧
    (∀ x ∈ xs, s.planeFull x.2 = false ∧ goesOut s o (s.levelOf s.me 3) x.2 = false ∧ goesOut s a (s.levelOf s.me 3) x.2 = true ∧
      s.needsFill s.here (x.2.level (s.levelOf s.me 3)) x.2.ua = true) ∧ (s.joinAll (xs.map (loadReq s o 3))).isSome = true ∧
    (s.joinAll []).isSome = true := by
  unfold Placed
  decide +kernel

/-- The same, for RLD with and without an acquire, RST and RAT. -/
theorem test_witness_peer_words :
    ∀ ord : BitVec 2, let o := fm2 6 ord 4 4 2
    let s := withPeer
    s.me.levels = [] ∧ Plain s 4 peerWords ∧ CleanCopies s ∧ s.blocked (peerWords.map (·.2)) 4 false = none ∧
    (ord.toNat < 2 → ready (.rld o) s = true) ∧ (ord.toNat % 2 = 0 → ready (.rst o) s = true) ∧ ready (.rat o) s = true ∧ o.defer = false ∧
    (∀ need ∈ [needOf o true false, needOf o false true, needOf o true true (some 0)],
      let ls := lanesOf (s.active o.guard)
      ls ≠ [] ∧ peerWords.map (·.1) = ls ∧ ∀ x ∈ peerWords,
        peerOf (s.ea o 4 x.1) = 9 ∧ (s.ea o 4 x.1).toNat % need.size = 0 ∧ s.peerPlace need (s.ea o 4 x.1) = .spot x.2) ∧
    (∀ x ∈ peerWords, s.planeFull x.2 = false) ∧
    (∀ x ∈ peerWords, isOutside x.2.ua = true) ∧ s.sendWait (peerWords.map (·.2)) 4 = none := by
  unfold Plain CleanCopies Uncopied
  decide +kernel

/-- The machine whose data page is one of the host, and two words there. -/
def hostPage : State := { lanes2 with core := { lanes2.core with tlb := [{ leafData with mt := 1 }] } }
def hostWords : List (Nat × Spot) := [0, 4].zipIdx.map fun x =>
  (x.2, { ua := hostAddr 1 (0x500000 + x.1), key := 1 + 5 * 2 ^ 32, mt := 1, entry := some { leafData with mt := 1 }, spans := [leafData.span] })

/-- LD of host memory: lanes outside the device. -/
theorem test_witness_host_words :
    let o := fm2 1 0 3 4 2
    let s := hostPage
    let xs := hostWords
    ready (.ld o) s = true ∧ Placed s (needOf o true false) (lanesOf (s.active o.guard)) (s.ea o 4) xs ∧
    (∀ x ∈ xs, isOutside x.2.ua = true ∧ s.planeFull x.2 = false) ∧ s.blocked (xs.map (·.2)) 4 false = none := by
  unfold Placed
  decide +kernel

/-- The machine whose data pages hold FP8 elements under one scale code for each 16, with the codes from 0x600000 on; v2 holds 0, 4, 8
and 12 in the four lanes under q1. -/
def blocked : State :=
  let e : TlbEntry := { leafData with fmt := 3, blk := 1, sfa := 0x60000 }
  { lanes2 with gang := { lanes2.gang with v := [(65, 4), (66, 8), (67, 12)], q := (Vector.replicate 8 0).set 1 15 }, core := { lanes2.core with tlb := [e, leafCode] }, resident := { line := 0xCA00 } :: base.resident }

def blockedSpot (a : Nat) : Spot := { spotOf a with entry := some { leafData with fmt := 3, blk := 1, sfa := 0x60000 } }

/-- The four quarters of a block. -/
def quarters : List (Nat × Spot) :=
  [(0, blockedSpot 0x500000), (1, blockedSpot 0x500004), (2, blockedSpot 0x500008), (3, blockedSpot 0x50000C)]

/-- DecodingLoadsPutElementsInFlight, QuantisingStoresIssueEncodedElements: four lanes read and write one block of 16 elements. -/
theorem test_witness_blocks :
    let o := { fm2 1 0 3 4 0 0 2 with idx := 3, b := 2 }
    let s := blocked
    let ls := lanesOf (s.active o.guard)
    let gs := quarters.map (groupAt 4 (s.ea o 1))
    ready (.ldd o) s = true ∧ ready (.stq o) s = true ∧ s.me.levels = [] ∧ Placed s (groupNeed o true false) ls (s.ea o 1) quarters ∧
    Placed s (groupNeed o false true) ls (s.ea o 1) quarters ∧ (∀ x ∈ quarters, groupExtra 4 (s.ea o 1 x.1) x.2 = none) ∧
    s.blocked ((gs.flatMap Group.spots).map (·.2)) 16 false = none ∧ CleanCopies s ∧
    s.me.got = [] ∧
    (∀ x ∈ gs.flatMap Group.spots, s.needsFill s.here (x.2.level (s.levelOf s.me o.scope.toNat)) x.2.ua = false ∧
      s.late (x.2.level (s.levelOf s.me o.scope.toNat)) x.2.ua = false ∧ s.planeFull x.2 = false) ∧
    (∀ g ∈ gs, g.blk ≠ 0 ∧ covered g (s.blockGives o.d.toNat 4 gs g) = true) ∧
    s.readsBefore ((gs.flatMap Group.spots).map (·.2)) 16 = false := by
  unfold Placed CleanCopies
  decide +kernel

/-- Its elements and codes lie where no copy and no poison is. -/
theorem test_witness_blocks_plain :
    ∀ g ∈ quarters.map (groupAt 4 (blocked.ea { fm2 1 0 3 4 0 0 2 with idx := 3, b := 2 } 1)),
      Plain blocked g.bytes [(g.lane, g.spot)] ∧ Plain blocked 1 [(g.lane, { g.spot with ua := g.scale })] := by
  unfold Plain Uncopied
  decide +kernel

/-- The same on a page without blocks: one element of a lane. -/
theorem test_witness_raw_elements :
    let o := { fm2 1 0 3 4 0 with idx := 3, b := 2 }
    let s : State := { lanes2 with gang := { lanes2.gang with v := [(65, 4)] } }
    let gs := words2.map (groupAt 1 (s.ea o 1))
    ready (.ldd o) s = true ∧ ready (.stq o) s = true ∧ Placed s (groupNeed o true false) (lanesOf (s.active o.guard)) (s.ea o 1) words2 ∧
    (∀ x ∈ words2, groupExtra 1 (s.ea o 1 x.1) x.2 = none) ∧ (∀ g ∈ gs, g.blk = 0) ∧
    s.blocked ((gs.flatMap Group.spots).map (·.2)) 16 false = none ∧ s.readsBefore ((gs.flatMap Group.spots).map (·.2)) 16 = false := by
  unfold Placed
  decide +kernel

/-- BlockScalesFitTheLargestElement: the first and the last format, with the element 1. -/
theorem test_witness_block_scale :
    ([1, 7].all fun f => 1 ≤ f && f ≤ 7) = true ∧ (∀ x ∈ [FVal.fin false 1 0], isNan x = false) ∧ (amax [FVal.fin false 1 0]).1 ≠ 0 := by
  decide +kernel

/-- DeferredWordsAreRecorded: a furrow without and with sixteen entries, and no furrow. -/
theorem test_witness_deferred_words :
    let o := fm2 1 0 3 4 2 0 0 true
    let s := lanes2 fun p => { p with inFurrow := true }
    let t : State := { withPeer with me := { withPeer.me with inFurrow := true } }
    let u := lanes2 fun p => { p with inFurrow := true, deferred := List.replicate 16 default }
    let or := { o with a := 6, scope := 4 }
    o.defer = true ∧ s.me.levels = [] ∧ s.me.recording = none ∧ s.me.inFurrow = true ∧ s.me.deferred.length < 16 ∧ ready (.st o) s = true ∧ ready (.red o) s = true ∧
    Placed s (needOf o false true) (lanesOf (s.active o.guard)) (s.ea o 4) words2 ∧
    Placed s (needOf o true true (some 0)) (lanesOf (s.active o.guard)) (s.ea o 4) words2 ∧
    ready (.rst or) t = true ∧ lanesOf (t.active o.guard) ≠ [] ∧ peerWords.map (·.1) = lanesOf (t.active o.guard) ∧
    (∀ x ∈ peerWords, peerOf (t.ea or 4 x.1) = 9 ∧ (t.ea or 4 x.1).toNat % 4 = 0 ∧
      t.peerPlace (needOf or false true) (t.ea or 4 x.1) = .spot x.2) ∧
    16 ≤ u.me.deferred.length ∧ ready (.st o) u = true ∧ lanes2.me.inFurrow = false ∧ ready (.st o) lanes2 = true := by
  unfold Placed
  decide +kernel

/-- One request of the part in hand at its place, which can reach its point. -/
def reachable (s : State) (index : Nat) (r : Req) : Prop :=
  let p := s.getPart 1
  p.id = 1 ∧ p.pending[index]? = some r ∧ r.part = 1 ∧ r.kind ≠ .fence ∧ s.joined r = false ∧ p.mayGo index r = true ∧ s.behind p r = false ∧
  s.gFirst (s.coreOfPart p) (s.levelOf p r.scope) r = false ∧ s.targetGone p r = false ∧ s.lost r = none ∧ s.clear r = true ∧ s.needsFill (s.coreOfPart p) (s.levelOf p r.scope) r.addr = false ∧
  s.gangOver 1 = false ∧ base.gang ∈ s.gangsOfWg (s.getGang p.gang).workgroup

theorem reachable_can {s : State} {i : Nat} {r : Req} (h : reachable s i r) : CanReach s 1 i r := by
  obtain ⟨h1, h2, h3, h4, h5, h6, h7, h8, h9, h10, h11, h12, h13, h14⟩ := h
  exact ⟨by decide, h1, h2, h3, h4, h5, h6, h7, h8, h9, h10, h11, h12, _, h14, h13⟩

/-- The machine with these requests of its part under way. -/
def underWay (rs : List Req) (ws : List LaneResult := []) : State := baseWith fun p => { p with pending := rs, inflight := ws }

def word0 : Req := { part := 1, kind := .write, addr := 0x500000, size := 4, key := 1 + 5 * 2 ^ 32, scope := 3, data := 7 }

/-- PerformedStoresReachMemory: a store to HBM, and one to the core's scratchpad. -/
theorem test_witness_performed_stores :
    let spad : Req := { word0 with addr := spadAddr 0 64, key := 0 }
    let s := underWay [word0, spad]
    memoryWf s = true ∧ reachable s 0 word0 ∧ UncopiedAt s word0 ∧ reachable s 1 spad ∧ UncopiedAt s spad ∧
    ∀ x ∈ [word0, spad], x.kind = .write ∧ 3 ≤ x.scope ∧ 0 < x.size ∧ x.rel = false ∧ isDoorbell x.addr = false := by
  unfold reachable UncopiedAt
  decide +kernel

/-- SentReadsAreAnswered: a word of host memory, with two results in flight. -/
theorem test_witness_sent_reads :
    let r : Req := { word0 with kind := .read 8 false 7, addr := hostAddr 1 0x500000, key := 0 }
    let s := underWay [r] [{ id := 3 }, { id := 7, waits := 1 }]
    reachable s 0 r ∧ r.kind = .read 8 false 7 ∧ isOutside r.addr = true ∧ s.isPoisoned r.addr r.size = false ∧ UncopiedAt s r ∧ r.addr % 128 + r.size ≤ 128 ∧ CleanCopies s := by
  unfold reachable UncopiedAt CleanCopies
  decide +kernel

/-- ReadsSeeWritesAtTheirLevel: a byte in each level. -/
theorem test_witness_levels :
    memoryWf base = true ∧ (isHbm 0x50007F = true → 0 < 1 + 5 * 2 ^ 32) ∧ ([7] : List Byte) ≠ [] ∧ 0x50007F % 128 + 1 ≤ 128 ∧
    isDoorbell 0x50007F = false ∧ (∀ x ∈ (base.getCore 0).l1, SMap.wf 0 x.data = true) ∧ ∀ e ∈ base.sectors, SMap.wf 0 e.2.data = true := by
  decide +kernel

/-- AtomicsReadModifyAndWrite: ATOM and RED of words of a line, and a request that returns its old value. -/
theorem test_witness_atomics :
    let s := lanes2
    (∀ ord : BitVec 2, let o := fm2 1 ord 3 4 2
      s.me.levels = [] ∧ o.defer = false ∧ s.sendWait (words2.map (·.2)) 4 = none ∧ ready (.atom o) s = true ∧
      (ord.toNat % 2 = 0 → ready (.red o) s = true) ∧
      Placed s (needOf o true true (some 0)) (lanesOf (s.active o.guard)) (s.ea o 4) words2) ∧
    let r : Req := { word0 with kind := .atomic 0 false (some 8) 7, rel := true }
    let t := underWay [r] [{ id := 7, waits := 1 }]
    memoryWf t = true ∧ reachable t 0 r ∧ r.addr % r.size = 0 ∧ isDoorbell r.addr = false ∧ UncopiedAt t r ∧
    t.isPoisoned r.addr r.size = false ∧ CleanCopies t := by
  unfold Placed reachable UncopiedAt CleanCopies
  decide +kernel

/-- MisalignedLanesTrap: lane 1 of two halfword-aligned words. -/
theorem test_witness_misaligned :
    let o := fm2 1 0 3 4 2
    let s : State := { lanes2 with me := { lanes2.me with g := gregs [(1, 0x500002)] } }
    ((lanesOf (s.active o.guard)).filter fun l => decide ((s.ea o 4 l).toNat % 4 ≠ 0)) = 0 :: [1] ∧ o.defer = false ∧
    ready (.ld o) s = true ∧ ready (.st o) s = true ∧ ready (.atom o) s = true ∧ ready (.red o) s = true ∧ s.me.levels = [] := by
  decide +kernel

/-- PageFaultsParkTheirLanes: lane 0 in the first GiB, lane 1 in the third, which has no leaf. -/
theorem test_witness_page_faults :
    let o := { fm2 1 0 3 4 2 with idx := 3, b := 2 }
    let s : State := { lanes2 with gang := { lanes2.gang with v := [(65, 0x7FB00000)] }, walkFaults := [{ core := 0, asid := 1, page := 0x80000, code := 7, aux := 1 }] }
    let xs := [(0, spotOf 0x500000)]
    let ps : List (Nat × Nat) := [(1, 1)]
    let ls := lanesOf (s.active o.guard)
    ready (.ld o) s = true ∧ o.space = 4 ∧ o.ord = 0 ∧ s.me.levels = [] ∧ s.me.replay = none ∧ s.me.parked.length < 4 ∧ s.faultRecords s.here < 256 ∧
    (∀ l ∈ ls, (s.ea o 4 l).toNat % 4 = 0) ∧ ls = [0, 1] ∧
    s.vaPlace (needOf o true false) (s.ea o 4 0).toNat = .spot (spotOf 0x500000) ∧ s.vaPlace (needOf o true false) (s.ea o 4 1).toNat = .fault 7 1 ∧
    xs.map (·.1) = ls.filter (fun l => xs.any fun x => x.1 == l) ∧ ps.map (·.1) = ls.filter (fun l => ps.any fun x => x.1 == l) ∧
    (∀ x ∈ xs, ∀ p ∈ ps, x.1 ≠ p.1) ∧ Plain s 4 xs ∧ s.blocked (xs.map (·.2)) 4 false = none ∧ CleanCopies s ∧
    (∀ x ∈ xs, isOutside x.2.ua = false ∧ s.late (x.2.level (s.levelOf s.me o.scope.toNat)) x.2.ua = false) ∧
    s.readsBefore (xs.map (·.2)) 4 = false ∧
    (∀ x ∈ xs, s.needsFill s.here (x.2.level (s.levelOf s.me o.scope.toNat)) x.2.ua = false) := by
  unfold Plain CleanCopies Uncopied
  decide +kernel

/-- FencesOrderAccesses: in a transaction, with an earlier store, and with none. -/
theorem test_witness_fences :
    let o := { fm 0 0 3 0 0 with ord := 2 }
    let t := lanes2 fun p => { p with levels := [default] }
    let u := lanes2 fun p => { p with pending := [{ part := 1, kind := .write, addr := 0x500000, size := 4, scope := 3 }] }
    ready (.fence o) t = true ∧ t.me.levels ≠ [] ∧ ready (.fence o) u = true ∧ u.me.levels = [] ∧ u.me.fenced = false ∧ u.me.pending ≠ [] ∧
    o.ord ≠ 1 ∧ ready (.fence o) lanes2 = true ∧ lanes2.me.pending = [] ∧ lanes2.me.reading = false := by decide +kernel

/-- CacheWordsActOnTheirRange: CLEAN and INVAL of 64 bytes, ICINV of the hedge's caches, PF. -/
theorem test_witness_cache_words :
    let o := { fm 0 1 3 4 0 with b := 5 }
    let s := base
    let ids := s.allCores.map (·.id)
    0 < (s.rg o.b.toNat).toNat ∧ (s.rg o.b.toNat).toNat ≤ 2 ^ 32 ∧ ids.Nodup ∧ 0 ∉ ids ∧ s.me.levels = [] ∧ s.me.pending = [] ∧ o.space = 4 ∧
    3 ≤ o.scope.toNat ∧ ready (.clean o) s = true ∧ ready (.inval o) s = true ∧ ready (.icinv o) s = true ∧ ready (.pf (fm 0 1 3 4 0)) s = true ∧
    (∀ e ∈ s.sectors, e.1 < 6) ∧ ((s.hedge? s.ctx.hedge).map fun h => h.coreList != []) = some true := by decide +kernel
/-- LevelsOpen: an outermost attempt, its seventh run with a free token and with a taken one, inner levels, and a fifth. -/
theorem test_witness_levels_open :
    let o : FB := { d := 0, off := 4, q := 0 }
    let seventh := baseWith fun p => { p with consec := 6, lastStart := some p.pc }
    let taken : State := { seventh with hedges := [{ n := 1, cores := 1, pool := 0x250000, token := some 9 }] }
    let deep (n : Nat) := baseWith fun p => { p with levels := List.replicate n default }
    let h : Hedge := { n := 1, cores := 1, pool := 0x250000 }
    CleanCopies base ∧ CleanCopies seventh ∧ base.me.levels = [] ∧ base.me.inflight = [] ∧ base.me.settled = true ∧
    consecHere base ≠ 6 ∧ consecHere (baseWith fun p => { p with consec := 6 }) ≠ 6 ∧ consecHere seventh = 6 ∧
    seventh.hedge? 1 = some h ∧ h.token = none ∧ h.waiters = [] ∧ taken.hedge? 1 = some { h with token := some 9 } ∧ taken.me.id = 1 ∧
    (deep 3).me.levels.length < 4 ∧ (deep 1).me.levels ≠ [] ∧ (deep 4).me.levels.length = 4 ∧
    ([base, seventh, taken, deep 3, deep 4].all (ready (.attempt o))) = true ∧ ([deep 1, deep 4, base].all (ready (.otherwise o))) = true := by
  unfold CleanCopies
  decide +kernel

/-- An outermost level that has read one line and written a byte of HBM and one of the core's scratchpad. -/
def level1 : Level :=
  { alt := false, target := 0x40001100, start := 0x40001000, reads := [{ line := 0xA000, version := 0 }]
    writes := [{ addr := 0x500080, key := 1 + 5 * 2 ^ 32, val := 7 }, { addr := spadAddr 0 64, key := 0, val := 9 }] }

/-- SettleClosesOrCommits: no level, an inner one, a commit, and an abort because the line read has a newer version. -/
theorem test_witness_settle :
    let o : FX := fx 0 0 0 0
    let one := baseWith fun p => { p with levels := [level1] }
    let two := baseWith fun p => { p with levels := [default, level1] }
    let old : State := { one with versions := [{ home := one.homeOf 0x500000, line := 0xA000, version := 3 }] }
    ([base, two, one, old].all (ready (.settle o))) = true ∧ base.me.levels = [] ∧ two.me.levels = default :: level1 :: [] ∧
    CommitFree one ∧ one.me.doomed = false ∧ (∀ r ∈ one.me.readLines, one.versionOf r.line = r.version) ∧ CleanCopies one ∧
    memoryWf one = true ∧
    (∀ b ∈ level1.writes, (isHbm b.addr = true → b.key = 1 + 5 * 2 ^ 32 ∧ 0 < 1 + 5 * 2 ^ 32) ∧ isDoorbell (128 * (b.addr / 128)) = false) ∧
    CommitFree old ∧ old.me.serial = false ∧ ∃ r ∈ old.me.readLines, old.versionOf r.line ≠ r.version := by
  unfold CommitFree CleanCopies
  refine ⟨by decide +kernel, rfl, rfl, by decide +kernel, rfl, by decide +kernel, by decide +kernel, by decide +kernel, by decide +kernel, ?_⟩
  decide +kernel

/-- HardwareAbortsRestoreTheCheckpoint, GivingUpALevel: an outermost level, an inner one without and with an alternative. -/
theorem test_witness_giving_up :
    let one := baseWith fun p => { p with levels := [level1] }
    let two := baseWith fun p => { p with levels := [default, { level1 with alt := true }, level1] }
    let a : Instr := .abandon (fx 0 0 0 0 5)
    let r : Instr := .retry (fx 0 0 0 0)
    one.me.levels.getLast? = some level1 ∧ one.me.id ≠ 0 ∧ (∀ p ∈ one.parts, p.id ≠ one.me.id) ∧ ready a two = true ∧
    two.me.levels = default :: [{ level1 with alt := true }, level1] ∧ ready a one = true ∧ one.me.levels = [level1] ∧ ready r two = true ∧
    (default : Level).alt = false ∧ ready r one = true ∧ (∀ l ∈ one.me.levels, l.alt = false) ∧ ready a base = true ∧ ready r base = true ∧
    ready (.xstat (fx 5 0 0 0)) base = true ∧ ready (.xstat (fx 5 0 0 0 1)) base = true := by
  decide +kernel

/-- DisallowedWordsAbortOrTrap: each word in a transaction, and those of a furrow. -/
theorem test_witness_disallowed_words :
    let o := fm2 1 0 3 4 2
    let x : FX := fx 0 5 3 0
    let s := lanes2 fun p => { p with levels := [level1] }
    let f := lanes2 fun p => { p with inFurrow := true }
    ([.stq { fm2 1 0 3 4 0 0 2 with idx := 3, b := 2 }, .rld { o with scope := 4 }, .rst { o with scope := 4 }, .rat { o with scope := 4 }, .atom o, .red o, .clean (fm 0 1 3 4 0), .inval (fm 0 1 3 4 0), .icinv (fm 0 1 3 4 0),
      .copy x, .msgsend x, .launch x, .dturn (fx 2 0 0 0 8), .stinit x, .starr x, .stexp x, .exit (fx 0 0 0 0), .regang (fx 0 0 0 0), .acquire (fx 0 0 0 0)] : List Instr).map (fun i => ready i s) =
        List.replicate 19 true ∧
    s.me.levels ≠ [] ∧ s.me.inflight = [] ∧ ([.msgsend x, .launch x, .exit (fx 0 0 0 0)] : List Instr).all (fun i => ready i f) = true ∧ f.me.levels = [] ∧
    f.me.inFurrow = true ∧ ready (.acquire (fx 0 0 0 0)) { s with gang := { s.gang with full := false } } = true := by
  decide +kernel

/-- TransactionsReadAndBuffer: words of one line and a block's quarters, then two full sets, a page of the host, and a holder of the
serial token. -/
theorem test_witness_transactions :
    let o := fm2 1 0 3 4 2
    let q := { fm2 1 0 3 4 0 0 2 with idx := 3, b := 2 }
    let inTx (s : State) (l : Level) (serial : Bool := false) : State := { s with me := { s.me with levels := [l], serial := serial } }
    let many (n : Nat) : Level := { level1 with reads := (List.range n).map fun i => { line := i, version := 0 }, writes := (List.range n).map fun i => { addr := 128 * i, key := 5, val := 1 } }
    let s := inTx lanes2 level1
    let t := inTx blocked level1
    let spots := (quarters.map (groupAt 4 (t.ea q 1))).flatMap Group.spots
    (s.me.levels = level1 :: [] ∧ s.me.got = [] ∧ s.versions.length < 16000 ∧ s.me.serial = false ∧ ready (.ld o) s = true ∧ ready (.st o) s = true ∧
      o.defer = false ∧ Placed s (needOf o true false) (lanesOf (s.active o.guard)) (s.ea o 4) words2 ∧
      Placed s (needOf o false true) (lanesOf (s.active o.guard)) (s.ea o 4) words2 ∧ TxReadable s 4 words2 ∧
      (distinct (s.me.readCount ++ words2.map fun x => x.2.ua / 128)).length ≤ 64 ∧
      (distinct (s.me.writeLines ++ words2.map fun x => x.2.ua / 128)).length ≤ 16) ∧
    (ready (.ldd q) t = true ∧ Placed t (groupNeed q true false) (lanesOf (t.active q.guard)) (t.ea q 1) quarters ∧
      (∀ x ∈ quarters, groupExtra 4 (t.ea q 1 x.1) x.2 = none) ∧ (distinct (t.me.readCount ++ spots.map fun x => x.2.ua / 128)).length ≤ 64 ∧
      TxReadable t 16 spots ∧ ∀ g ∈ quarters.map (groupAt 4 (t.ea q 1)), t.isPoisoned g.spot.ua g.bytes = false) ∧
    (∀ n ∈ [16, 64], let u := inTx lanes2 (many n);
      ready (.ld o) u = true ∧ ready (.st o) u = true ∧ Placed u (needOf o true false) (lanesOf (u.active o.guard)) (u.ea o 4) words2 ∧
      Placed u (needOf o false true) (lanesOf (u.active o.guard)) (u.ea o 4) words2 ∧
      (n = 16 → 16 < (distinct (u.me.writeLines ++ words2.map fun x => x.2.ua / 128)).length) ∧
      (n = 64 → 64 < (distinct (u.me.readCount ++ words2.map fun x => x.2.ua / 128)).length)) ∧
    (let h := inTx hostPage level1;
      ready (.ld o) h = true ∧ ready (.st o) h = true ∧ Placed h (needOf o true false) (lanesOf (h.active o.guard)) (h.ea o 4) hostWords ∧
      Placed h (needOf o false true) (lanesOf (h.active o.guard)) (h.ea o 4) hostWords ∧ ∃ x ∈ hostWords, x.2.mt ≠ 0) ∧
    (let k := inTx lanes2 level1 true;
      CleanCopies k ∧ TxReadable k 4 words2 ∧ k.txBlocked (words2.map (·.2)) 4 true = false ∧
      ∀ x ∈ words2, k.ownedFirst x.2 4 = false ∧ k.filling x.2 4 = false) := by
  unfold Placed TxReadable CleanCopies
  refine ⟨?_, ?_, ?_, ?_, ?_⟩ <;> decide +kernel

/-- PolledWaitsGoOnOrPollAgain: two words of the host, which meet (memory and v8 are 0) and do not. -/
theorem test_witness_polled_waits :
    let eq := fm2 1 0 3 4 2 0
    let ne := fm2 1 0 3 4 2 1
    let s := hostPage
    let e : TlbEntry := { leafData with mt := 1 }
    let level := s.levelOf s.me 3
    let meets (o : FM) : Bool := hostWords.all fun x => waitMeets o.mop.toNat 4 (bytesSeen s x.2 4) (s.laneData o.d.toNat 4 x.1)
    ready (.waitw eq) s = true ∧ ready (.waitw ne) s = true ∧ s.me.inflight = [] ∧ s.me.levels = [] ∧ s.me.got = [] ∧ lanesOf (s.active eq.guard) ≠ [] ∧
    (∀ l ∈ lanesOf (s.active eq.guard), s.xlate (s.ea eq 4 l).toNat = .hit e) ∧ e.mt ≠ 0 ∧
    Placed s (needOf eq true false) (lanesOf (s.active eq.guard)) (s.ea eq 4) hostWords ∧ Plain s 4 hostWords ∧
    s.blocked (hostWords.map (·.2)) 4 false = none ∧
    (∀ x ∈ hostWords, s.late (x.2.level level) x.2.ua = false ∧ s.needsFill s.here (x.2.level level) x.2.ua = false) ∧ CleanCopies s ∧
    meets eq = true ∧ meets ne = false := by
  unfold Placed Plain Uncopied CleanCopies
  decide +kernel

/-- WordWaitsGoOnOrSleep: no lane, lanes that meet (memory and v8 are 0), and lanes that do not. -/
theorem test_witness_word_waits :
    let eq := fm2 1 0 3 4 2 0
    let ne := fm2 1 0 3 4 2 1
    let s := lanes2
    let none : State := { s with gang := { s.gang with q := Vector.replicate 8 0 } }
    let meets (o : FM) : Bool := words2.all fun x => waitMeets o.mop.toNat 4 (leNat (s.homeRead x.2.key x.2.ua 4)) (s.laneData o.d.toNat 4 x.1)
    ready (.waitw eq) none = true ∧ lanesOf (none.active eq.guard) = [] ∧ ready (.waitw eq) s = true ∧ ready (.waitw ne) s = true ∧ CanAttempt s ∧
    Placed s (needOf eq true false) (lanesOf (s.active eq.guard)) (s.ea eq 4) words2 ∧ TxReadable s 4 words2 ∧
    (∀ l ∈ lanesOf (s.active eq.guard), s.xlate (s.ea eq 4 l).toNat = .hit leafData) ∧ leafData.mt = 0 ∧ meets eq = true ∧ meets ne = false := by
  unfold CanAttempt CleanCopies Placed TxReadable
  decide +kernel

/-- The stile at .l address 64 of core 0. -/
def stileSpot : Spot := { ua := spadAddr 0 64 }

/-- StileWordsActOnTheStile, StileWaitsGoOnOrSleep: an arrival of 1, and of the count in g3; gB = 8 and gB = 0 against phase 0. -/
theorem test_witness_stiles :
    let s := lanes2 fun p => { p with g := gregs [(2, 8), (3, 3), (5, 64)] }
    s.me.levels = [] ∧ memoryWf s = true ∧ (∀ r w, StileAt s (fx 0 5 3 0) r w stileSpot) ∧ 1 ≤ (s.rg 3).toNat ∧ (s.rg 3).toNat ≤ 65535 ∧
    ([.stinit (fx 0 5 3 0), .starr (fx 7 5 0 0), .starr (fx 7 5 3 0), .stexp (fx 0 5 3 0), .stwait (fx 0 5 2 0), .stwait (fx 0 5 0 0)].all
      fun i => ready i s) = true ∧
    s.late 2 stileSpot.ua = false ∧ s.readsBefore [stileSpot] 16 = false ∧ s.blocked [stileSpot] 16 true = none ∧ s.me.settled = true ∧ s.me.pending = [] ∧ CanAttempt s ∧
    TxReadable s 4 [(0, stileSpot)] ∧ (stileIn s stileSpot).poison = false ∧ BitVec.ofNat 64 (stileIn s stileSpot).phase ≠ s.rg 2 ∧
    BitVec.ofNat 64 (stileIn s stileSpot).phase = s.rg 0 := by
  unfold StileAt CanAttempt CleanCopies TxReadable
  decide +kernel

/-- FurrowsOpenAndClose: outside and inside a furrow, in harvest work seven calls deep. -/
theorem test_witness_furrows :
    let f : Instr := .fbegin (fx 0 0 0 0)
    let e : Instr := .fend (fx 0 0 0 0)
    let inside := baseWith fun p => { p with inFurrow := true }
    let harvest : State := { baseWith fun p => { p with stack := List.replicate 7 (.ret 0) } with ctx := { base.ctx with harvest := true } }
    ready f base = true ∧ base.me.inFurrow = false ∧ base.me.levels = [] ∧ ready f harvest = true ∧ harvest.ctx.harvest = true ∧
    harvest.me.stack.length ≤ 7 ∧ harvest.me.inHandler = false ∧ ready f inside = true ∧ inside.me.inFurrow = true ∧ ready e inside = true ∧
    inside.me.settled = true ∧ inside.me.state = .ready ∧ inside.me.deferred = [] ∧ ready e base = true := by decide +kernel

/-- FendPerformsDeferredEffects: a recorded ST and RED of two lanes, a recorded RST, and a furrow that has released its effects, with one
still under way and with none. -/
theorem test_witness_fend :
    let o : FX := fx 0 0 0 0
    let lane (l a : Nat) : DeferLane := { lane := l, va := BitVec.ofNat 64 a, data := l }
    let st : Deferred := { kind := .st, lanes := [lane 0 0x500000, lane 1 0x500004], scope := 3, ord := 0, size := 2, space := 4, mop := 0, unsigned := false }
    let rst : Deferred := { st with kind := .rst, lanes := [lane 0 (9 * 2 ^ 54 + 0x100), lane 1 (9 * 2 ^ 54 + 0x104)] }
    let with_ (s : State) (ds : List Deferred) : State := { s with me := { s.me with inFurrow := true, deferred := ds } }
    let closing (rs : List Req) : State := baseWith fun p => { p with inFurrow := true, fending := true, pending := rs }
    let opens (s : State) (e : Deferred) (xs : List (Nat × Spot)) : Prop :=
      ready (.fend o) s = true ∧ s.me.inflight = [] ∧ s.me.state = .ready ∧ s.me.inFurrow = true ∧ s.me.levels = [] ∧ s.me.deferred = [e] ∧
      s.me.settled = true ∧ xs ≠ [] ∧ xs.map (·.1) = e.lanes.map (·.lane) ∧ (e.lanes.map (·.lane)).Nodup ∧ s.sendWait (xs.map (·.2)) 4 = none ∧
      ∀ x ∈ xs, (e.va x.1).toNat % 4 = 0
    (∀ red : Bool, let e := { st with kind := if red then .red else .st }
      opens (with_ lanes2 [e]) e words2 ∧ ∀ x ∈ words2, (with_ lanes2 [e]).place e.need none x.1 (e.va x.1) = .spot x.2) ∧
    opens (with_ withPeer [rst]) rst peerWords ∧
    (∀ x ∈ peerWords, (with_ withPeer [rst]).peerPlace rst.need (rst.va x.1) = .spot x.2 ∧ peerOf (rst.va x.1) = 9) ∧
    (∀ rs ∈ [[], [word0]], ready (.fend o) (closing rs) = true ∧ (closing rs).me.inflight = [] ∧ (closing rs).me.state = .ready ∧
      (closing rs).me.inFurrow = true ∧ (closing rs).me.levels = [] ∧ (closing rs).me.fending = true ∧ (closing rs).me.deferred = [] ∧
      (closing rs).me.pending = rs) := by
  refine ⟨?_, ?_, ?_, ?_⟩ <;> decide +kernel
/-- The machine with FP16 elements in tile 1 and an FP16 bank 0, and a follower to its right that offers such a bank. -/
def matrixMachine : State :=
  { base with
    ctx := { base.ctx with padW := 2, padH := 1 }
    wg := { base.wg with tiles := [(1, { fmt := 1, valid := true })], banks := [(0, { w := 16, fmt := 1 })] }
    wgs := [{ id := 2, context := 1, core := 1, px := 1, state := .running, banks := [(0, { w := 16, fmt := 1 })], offer := some 0 }]
    gangs := [{ id := 2, workgroup := 2 }] }

/-- MatrixWordsQueueTheirOperation: each operation, a load of a bank from an FP32 tile, and the two that stop. -/
theorem test_witness_matrix_words :
    let s := matrixMachine
    let ok (i : Instr) : Bool := ready i s && (operationOf s i).isSome && (operationOf s i).all fun k =>
      k.tiles.all (fun t => s.ownedTiles.all fun o => o.2 ≠ 16 * s.wg.id + t)
    ([.tzero (fx 15 0 0 0), .tmov (fx 0 15 0 0), .cimsel (fx 1 0 0 0), .cimsel (fx 0 0 0 0 1), .cimld (fx 1 1 0 0), .mmas (fx 2 1 0 0), .mma (fx 2 1 0 0)]
      : List Instr).all ok = true ∧ s.me.levels = [] ∧ s.me.slices = s.gang.started &&& ~~~s.gang.gone ∧ s.gang.shOpen < 255 ∧
    (s.core.matq.filter fun o => o.quadrant == s.gang.quad).length < 16 ∧ s.me.fenced = false ∧ s.me.settled = true ∧ s.ownedTiles = [] ∧
    ready (.cimld (fx 1 0 0 0)) s = true ∧ operationOf s (.cimld (fx 1 0 0 0)) = none ∧
    (Instr.tzero (fx 15 0 0 0)).issueClass = .matrix ∧ ready (.tzero (fx 15 0 0 0)) (baseWith fun p => { p with levels := [default] }) = true ∧
    ready (.tzero (fx 15 0 0 0)) (baseWith fun p => { p with slices := 1 }) = true ∧ (1 : BitVec 8) ≠ base.gang.started &&& ~~~base.gang.gone := by
  decide +kernel

/-- The same, where the formats, the geometry or the pair do not suit: a bank that is not loaded, a place beyond A's tile; at the
paddock's edge, no follower, one that has ended, one without an offer, and one with another width. -/
theorem test_witness_matrix_checks :
    let s := matrixMachine
    let o : FX := fx 2 1 0 0
    let far : FX := fx 2 1 0 0 0x1FC
    let at_ (w : Workgroup → Workgroup) : State := { s with wgs := s.wgs.map w }
    let edge : State := { s with ctx := { s.ctx with padW := 1 } }
    let alone : State := { s with wgs := [] }
    let ended := at_ fun w => { w with state := .released }
    let silent := at_ fun w => { w with offer := none }
    let narrow := at_ fun w => { w with banks := [(0, { w := 8, fmt := 1 })] }
    let width := (shadowBank s.wg s.openKinds 0).1
    ([base, s, edge, alone, ended, silent, narrow].all fun t => ready (.mma o) t && ready (.mmas o) t && ready (.mmas far) t && ready (.mma far) t &&
      decide (t.me.levels = []) && t.me.slices == (t.gang.started &&& ~~~t.gang.gone)) = true ∧
    (∀ p : Bool, multiplyFormats base o p = false ∧ multiplyFormats s o p = true ∧ multiplyFormats s far p = true ∧ multiplyGeometry s far = false) ∧
    multiplyGeometry s o = true ∧ ([edge, alone, ended, silent, narrow].all fun t => multiplyFormats t o true && multiplyGeometry t o) = true ∧
    edge.ctx.padW ≤ edge.wg.px + 1 ∧ alone.wg.px + 1 < alone.ctx.padW ∧ alone.follower = none ∧
    (ended.follower.any fun v => decide (v.state ≠ .running)) = true ∧
    (silent.follower.any fun v => decide (v.state = .running ∧ silent.gangsOfWg v.id ≠ [] ∧ silent.offerOf v = none)) = true ∧
    (narrow.follower.any fun v => decide (v.state = .running ∧ narrow.gangsOfWg v.id ≠ [] ∧ narrow.offerOf v = some 0 ∧ (v.bank 0).w ≠ width)) = true := by
  decide +kernel

/-- The sixteen pieces of a row of 256 bytes, and sixteen of which the last eight lie in a page of another format. -/
def rowPieces : List (Word64 × Spot) :=
  (List.range 16).map fun c => (BitVec.ofNat 64 (0x500000 + 16 * c), spotOf (0x500000 + 16 * c))
def page32 : TlbEntry := { leafData with page := 0x500, pa := 0x500000, lg := 16 }
def page16 : TlbEntry := { leafData with page := 0x510, pa := 0x510000, fmt := 1, lg := 16 }
def mixedPieces : List (Word64 × Spot) :=
  (List.range 16).map fun c =>
    let e := if c < 8 then page32 else page16
    (BitVec.ofNat 64 (0x50FF80 + 16 * c), { spotOf (0x50FF80 + 16 * c) with entry := some e, spans := [e.span] })

/-- The machine whose TLB holds both pages, with the row's address in g1. -/
def mixedMachine : State :=
  { baseWith (fun p => { p with g := gregs [(1, 0x50FF80)] }) with core := { base.core with tlb := [page32, page16, leafCode] } }

/-- The same, for TLD and TST of the first row and of the last, and of a row in two pages of different formats. -/
theorem test_witness_tile_rows :
    (∀ q : BitVec 12, q = 0 ∨ q = 0xFC0 → Ready (.tld (fx 1 1 0 0 q)) base ∧ Ready (.tst (fx 1 1 0 0 q)) base ∧ q.toNat / 64 + (q.toNat % 64 + 1) ≤ 64) ∧
    (base.rg 1).toNat % 32 = 0 ∧ (base.rg 0).toNat % 32 = 0 ∧ CanQueue base [1] ∧
    (∀ need ∈ [tldNeed, tstNeed],
      RowsAt base need ((List.range 16).map fun c => base.rg 1 + BitVec.ofNat 64 (16 * c)) 0 0 rowPieces) ∧
    ready (.tld (fx 1 1 0 0)) mixedMachine = true ∧ ready (.tst (fx 1 1 0 0)) mixedMachine = true ∧ (mixedMachine.rg 1).toNat % 32 = 0 ∧
    (∀ need ∈ [tldNeed, tstNeed],
      PlacedRows mixedMachine need ((List.range 16).map fun c => mixedMachine.rg 1 + BitVec.ofNat 64 (16 * c)) 0 0 mixedPieces) ∧
    (mixedPieces.find? (fun x => pageOf x ≠ (0, 0))).isSome = true := by
  refine ⟨?_, by decide +kernel, by decide +kernel, ⟨by decide, by decide +kernel, by decide +kernel, by decide +kernel, by decide +kernel⟩,
    ?_, by decide +kernel, by decide +kernel, by decide +kernel, ?_, by decide +kernel⟩
  · rintro q (rfl | rfl) <;>
    exact ⟨(ready_iff _ _).2 (by decide +kernel), (ready_iff _ _).2 (by decide +kernel), by decide⟩
  · have h : ∀ need ∈ [tldNeed, tstNeed], rowPieces.map (·.1) = ((List.range 16).map fun c => base.rg 1 + BitVec.ofNat 64 (16 * c)) ∧
        (∀ x ∈ rowPieces, base.vaPlace need x.1.toNat = .spot x.2) ∧ (rowPieces.head?.map pageOf) = some (0, 0) ∧
        ∀ x ∈ rowPieces, pageOf x = (0, 0) := by decide +kernel
    intro need hn
    obtain ⟨h1, h2, h3, h4⟩ := h need hn
    exact ⟨⟨h1, h2, Option.map_eq_some_iff.1 h3⟩, h4⟩
  · have h : ∀ need ∈ [tldNeed, tstNeed], mixedPieces.map (·.1) = ((List.range 16).map fun c => mixedMachine.rg 1 + BitVec.ofNat 64 (16 * c)) ∧
        (∀ x ∈ mixedPieces, mixedMachine.vaPlace need x.1.toNat = .spot x.2) ∧ (mixedPieces.head?.map pageOf) = some (0, 0) := by decide +kernel
    intro need hn
    obtain ⟨h1, h2, h3⟩ := h need hn
    exact ⟨h1, h2, Option.map_eq_some_iff.1 h3⟩

/-- TileReadsAndWrites: TRD and TWR of columns, rows and the sidecar. -/
theorem test_witness_tile_words :
    (∀ q : BitVec 12, q = 0x23F ∨ q = 0xA3F → Ready (.trd (fx 8 15 0 0 q)) base ∧ Ready (.twr (fx 8 15 0 0 q)) base) ∧
    Ready (.trd (fx 8 15 0 0 0x600)) base ∧ Ready (.twr (fx 8 15 0 0x127 0x600)) base ∧ TileFree base 15 ∧ base.me.levels = [] ∧
    (base.wg.tile 15).bad = [] ∧ SMap.wf 0 (base.wg.tile 15).data = true ∧ SMap.wf 0 (base.wg.tile 15).side = true := by
  refine ⟨?_, (ready_iff _ _).2 (by decide +kernel), (ready_iff _ _).2 (by decide +kernel), ⟨rfl, by decide +kernel, by decide +kernel⟩, rfl,
    rfl, by decide +kernel, by decide +kernel⟩
  rintro q (rfl | rfl) <;> exact ⟨(ready_iff _ _).2 (by decide +kernel), (ready_iff _ _).2 (by decide +kernel)⟩

/-- SheavesNumberAndWait: with and without operations to retire; the sheaf word 0 against gB = 0 and gB = 8. -/
theorem test_witness_sheaves :
    let s := lanes2
    let t : State := { s with gang := { s.gang with opsIssued := 1 } }
    let a := (s.rg 5).toNat
    let word := spadAddr s.here (s.wg.sbase + a)
    a % 8 = 0 ∧ a + 8 ≤ s.wg.scr ∧ s.gang.sheaves = [] ∧ ready (.sheaf (fx 7 5 0 0)) s = true ∧ s.me.levels = [] ∧
    s.me.slices = s.gang.started &&& ~~~s.gang.gone ∧ s.gang.id ≠ 0 ∧ t.gang.opsRetired < t.gang.opsIssued ∧ s.gang.opsRetired = s.gang.opsIssued ∧
    s.heldByOther 0 word 8 true = none ∧ s.ownedUnit 0 word 8 = false ∧ ready (.mwait (fx 0 5 0 0)) s = true ∧ ready (.mwait (fx 0 5 2 0)) s = true ∧
    (leNat (s.homeRead 0 word 8) % 65536 + 65536 - (s.rg 0).toNat % 65536) % 65536 < 32768 ∧
    ¬(leNat (s.homeRead 0 word 8) % 65536 + 65536 - (s.rg 2).toNat % 65536) % 65536 < 32768 ∧ isHbm word = false ∧ word % 128 + 8 ≤ 128 := by
  decide +kernel

theorem test_witness_sheaf_word :
    CanAttempt lanes2 ∧ TxReadable lanes2 8 [(0, { ua := spadAddr lanes2.here (lanes2.wg.sbase + 64) })] := by
  refine ⟨by unfold CanAttempt CleanCopies; decide +kernel, ?_⟩
  intro x hx; revert x; decide +kernel

/-- OperationsStartAndRetire: TZERO at the head of quadrant 0's queue, and the same running. -/
theorem test_witness_operations :
    let op : MatOp := { id := 5, gang := 1, workgroup := 1, quadrant := 0, harvest := false, kind := .tzero 1 }
    let q : MatOp := { op with id := 6, quadrant := 1 }
    let s : State := { base with core := { base.core with matq := [q, op] } }
    let r : State := { base with core := { base.core with running := some op } }
    (s.getCore 0).running = none ∧ (s.getCore 0).slaved = none ∧ op ∈ (s.getCore 0).matq ∧ op.harvest = false ∧
    (∀ x ∈ (s.getCore 0).matq, x.quadrant < 4) ∧ (s.getCore 0).rotG = 0 ∧
    (s.getCore 0).matq.find? (fun x => x.quadrant == op.quadrant && x.harvest == op.harvest) = some op ∧
    (r.getCore 0).running = some op ∧ (∃ g ∈ r.gangsOfWg 1, r.gangOver g.id = false) ∧ (r.getGang 1).sheaves = [] := by decide +kernel

/-- TransfersAndPairsTakeEffect: a TLD of a row at the unit, a TST of one from a page with blocks, and a paired MMA. -/
theorem test_witness_unit_operations :
    let s := matrixMachine
    let op (k : MatKind) : MatOp := { id := 5, gang := 1, workgroup := 1, quadrant := 0, harvest := false, kind := k }
    let tld := op (.tld 1 63 1 0 0 (rowPieces.map chunkOf))
    let tst := op (.tst 1 0 1 false (some 1) 0 3 1 ((List.range 8).map fun c => { ua := 0x500000 + 16 * c, key := 5, sc0 := 0x600000 + c, sc1 := 0x600000 + c }))
    let mma := op (.mma 2 1 0 false 0 0 (some (2, 0)))
    let at_ (o : MatOp) : State := { s with core := { s.core with matq := [o] } }
    (∀ o ∈ [tld, tst, mma], UnitTakes (at_ o) 0 o ∧ o.workgroup ≠ 0 ∧ ((at_ o).getWg o.workgroup).id = o.workgroup ∧
      SMap.wf {} ((at_ o).getWg 1).tiles = true ∧ ((at_ o).getGang o.gang).id = o.gang ∧ o.gang ≠ 0) ∧
    SMap.wf 0 (((at_ tld).getWg 1).tile 1).data = true ∧ SMap.wf 0 (((at_ tld).getWg 1).tile 1).side = true ∧ (rowPieces.map chunkOf).length = 16 * 1 ∧
    0 < rowElems (some 1) * fmtBits 3 / 128 ∧ 8 = rowElems (some 1) * fmtBits 3 / 128 * 1 ∧
    (((at_ mma).getWg 1).bank 0).w ≠ 0 ∧ (((at_ mma).getWg 2).bank 0).w = (((at_ mma).getWg 1).bank 0).w := by
  unfold UnitTakes
  decide +kernel

/-- TileStoresAndSheavesReachMemory: a store of the gang's TST, and an operation that retires before a sheaf that waits for it, with
that store still to come and without. -/
theorem test_witness_tile_stores :
    let r : Req := { word0 with id := 4, size := 16 }
    let op : MatOp := { id := 5, gang := 1, workgroup := 1, quadrant := 0, harvest := false, kind := .tzero 1 }
    let h : Sheaf := { number := 0, word := spadAddr 0 64, upTo := 1, upToId := 6 }
    let with_ (rs : List Req) (hs : List Sheaf) : State :=
      { base with gang := { base.gang with stores := rs, opsIssued := 1, sheaves := hs }, core := { base.core with running := some op } }
    let s := with_ [r] []
    (memoryWf s = true ∧ (s.getGang (s.getPart 1).gang).stores[0]? = some r ∧ (s.getGang (s.getPart 1).gang).sheaves = [] ∧
      base.gang ∈ base.gangsOfWg 1 ∧ (∃ g ∈ s.gangsOfWg (s.getGang (s.getPart 1).gang).workgroup, s.gangOver g.id = false) ∧
      s.wayTaken (s.coreOfPart (s.getPart 1)) 2 r.addr r.id r.harvest = false ∧ s.gFirst (s.coreOfPart (s.getPart 1)) 2 r = false ∧
      s.heldByOther 0 r.addr r.size true = none ∧ s.unitFree r.id r.addr r.size true = true ∧ isPeer r.addr = false ∧ isDoorbell r.addr = false ∧
      0 < r.key ∧ r.addr + r.size ≤ hbmEnd ∧ (∀ k ∈ s.allCores, ∀ x ∈ k.l1, x.line ∉ linesOf r.addr r.size) ∧ s.sectors = []) ∧
    ∀ rs ∈ [[], [r]], let t := with_ rs [h]
      (t.getCore 0).running = some op ∧ (t.getGang 1).id = 1 ∧ (t.getGang 1).sheaves = [h] ∧
      (∃ g ∈ t.gangsOfWg 1, t.gangOver g.id = false) ∧ t.heldByOther 0 h.word 8 true = none ∧ t.ownedUnit 0 h.word 8 = false ∧
      h.upTo ≤ (t.getGang 1).opsRetired + 1 ∧ ((∀ x ∈ (t.getGang 1).stores, h.upToId ≤ x.id) ↔ rs = []) := by
  decide +kernel

/-- The machine with a copy descriptor at 0x500000: one byte between global addresses. -/
def withDescriptor : State := { base with mem := [(0x500010, 0x01), (0x500011, 0x44), (0x500018, 0x01)].foldl (fun m x => SMap.put 0 m x.1 x.2) base.mem }

/-- Each piece of 64 bytes is readable: what `decide` can check of BlockAt. -/
def blockReadable (s : State) (va : Word64) (xs : List Spot) : Prop :=
  ∀ x ∈ xs.zipIdx, Readable s (va + BitVec.ofNat 64 (64 * x.2)) 64 6 x.1

theorem block_of {s : State} {va : Word64} {n : Nat} {xs : List Spot} (h : xs.length = n ∧ blockReadable s va xs) : BlockAt s va n false xs :=
  ⟨h.1, fun i x hx => h.2 (x, i) (List.mem_zipIdx_iff_getElem?.2 hx)⟩

/-- The four places of a descriptor. -/
def descSpots : List Spot := [spotOf 0x500000, spotOf 0x500040, spotOf 0x500080, spotOf 0x5000C0]

/-- CopiesAreHandedOver: a descriptor that fails its check, one that passes with a free engine and with a full one, and with a stile. -/
theorem test_witness_copies :
    let s := withDescriptor
    let full : State := { s with copies := List.replicate 32 { (default : CopyJob) with owner := .gang 1 1 1 0 } }
    let o := fx 2 1 0 0
    BlockAt base (base.rg 1) 4 false descSpots ∧ BlockAt s (s.rg 1) 4 false descSpots ∧ BlockAt full (full.rg 1) 4 false descSpots ∧
    (∀ t ∈ [base, s, full], Ready (.copy o) t ∧ MayHandOver t) ∧ (copyDescOf (blockSeen base 4 false descSpots)).ok (some base.wg.ntiles) = false ∧
    (copyDescOf (blockSeen s 4 false descSpots)).ok (some s.wg.ntiles) = true ∧
    (copyDescOf (blockSeen full 4 false descSpots)).ok (some full.wg.ntiles) = true ∧ Ready (.copy { o with b := 5 }) s ∧
    StileAt s { o with a := 5 } true true stileSpot := by
  refine ⟨block_of ?_, block_of ?_, block_of ?_, fun t ht => ?_, by decide +kernel, by decide +kernel, by decide +kernel,
    (ready_iff _ _).2 (by decide +kernel), by unfold StileAt; decide +kernel⟩
  iterate 3 (unfold blockReadable Readable Uncopied; decide +kernel)
  simp only [List.mem_cons, List.not_mem_nil, or_false] at ht
  rcases ht with rfl | rfl | rfl <;> exact ⟨(ready_iff _ _).2 (by decide +kernel), rfl, by decide +kernel, by decide +kernel⟩

/-- MessagesAndLaunchesLeave: a message to a core and to none, with the tag, with another and to no landing pad; a launch to a queue that
is not the context's, to a full one and to one with room. -/
theorem test_witness_messages :
    let s := base [0x0900000000012300, 0x0100000000000000]
    let h : State := { s with me := { s.me with g := gregs [(6, 0x40001000), (7, 0x40001008)] } }
    let o := fx 2 1 8 6 0x123
    MayHandOver h ∧ h.me.inFurrow = false ∧ Ready (.msgsend o) h ∧ (h.rg 6).toNat % 8 = 0 ∧ LandsOn h (h.rg 6) 0x123 (h.fetch 0x40001000).1 ∧
    Ready (.msgsend { o with qual := 0x124 }) h ∧ Ready (.msgsend { o with c := 7 }) h ∧ (h.fetch (h.rg 6)).2 = .word 0x0900000000012300 ∧
    (h.fetch (h.rg 7)).2 = .word 0x0100000000000000 ∧ (∃ c, coreOfId 0 = some c) ∧ (∃ x, coreOfId (x / 256 % 256) = none) := by
  refine ⟨⟨rfl, by decide +kernel, by decide +kernel⟩, rfl, (ready_iff _ _).2 (by decide +kernel), by decide +kernel,
    ⟨0x0900000000012300, Prod.ext rfl (by decide +kernel), by decide +kernel, by decide +kernel⟩, (ready_iff _ _).2 (by decide +kernel),
    (ready_iff _ _).2 (by decide +kernel), by decide +kernel, by decide +kernel, ⟨_, rfl⟩, 255 * 256, by decide +kernel⟩

/-- The place that an engine's access finds, if it finds one. -/
def found : Got TlbEntry → Option TlbEntry
  | .got e => some e
  | _ => none

/-- The same, for LAUNCH. -/
theorem test_witness_launches :
    let o := fx 2 1 0 0
    let p := { o with b := 2 }
    let u := base.release base.here 2
    let full : State := ({ base with mem := SMap.put 0 base.mem 0x200018 14, queues := [{ handle := 0, floors := [(0, 1)] }] } : State).release base.here 2
    let ring : State := ({ base with mem := SMap.put 0 base.mem 0x200018 16 } : State).release base.here 2
    ready (.launch o) base = true ∧ ready (.launch p) base = true ∧ base.me.levels = [] ∧ base.me.fenced = false ∧ base.me.settled = true ∧
    blockReadable base (base.rg 1) [spotOf 0x500000] ∧
    (base.rg 0).toNat = 0 ∧ base.qStopped 0 = false ∧ base.qDev 0 = true ∧ base.qHedge 0 = base.ctx.hedge ∧ base.qAsid 0 = base.ctx.asid ∧
    base.ctx.level < 4 ∧ base.qDev 8 = false ∧ u.qWidx 0 < u.qRidx 0 + u.qSize 0 ∧ u.ordinaryUsed 0 + 4 < u.qSize 0 ∧
    found (u.engineSpot (u.queueSpace 0) (u.qRing 0 + 64 * (u.qWidx 0 % u.qSize 0)) 64 false true) = some leafData ∧
    full.qSize 0 ≤ full.ordinaryUsed 0 + 4 ∧ full.floorFree 0 (full.ctx.level + 1) = false ∧ ring.qRidx 0 + ring.qSize 0 ≤ ring.qWidx 0 := by
  unfold blockReadable Readable Uncopied
  decide +kernel

/-- DrovewayWordsAskAndRead: each end of the range, a free queue and a full one. -/
theorem test_witness_droveway :
    let turn : TurnReq := { die := 0, hedge := 2, context := 2, harvest := false, goal := 32, tick := 0 }
    let full : State := { base with drove := { base.drove with queue := List.replicate 16 turn } }
    let own : State := { base with drove := { base.drove with queue := List.replicate 4 { turn with hedge := 1 } } }
    ([base, full, own].all fun s => ready (.dturn (fx 2 0 0 0 8)) s && ready (.dturn (fx 2 0 0 0 56)) s && ready (.dstat (fx 7 0 0 0)) s) = true ∧
    base.me.levels = [] ∧ (base.drove.queue.filter fun t => t.die == coreDie base.here).length = 0 ∧
    16 ≤ (full.drove.queue.filter fun t => t.die == coreDie full.here).length ∧
    4 ≤ ((own.drove.queue.filter fun t => t.die == coreDie own.here).filter fun t => t.hedge == own.ctx.hedge).length := by decide +kernel

/-- ScriptOpsActOnTheirRegisters, ScriptWordsReachMemory: every op has a state; the windows' first byte and their last word, and an address
outside them. -/
def withScript : State :=
  { base with scr := { live := true, s := (((Vector.replicate 16 0).set 1 0x320000).set 2 0x320FF8).set 3 0x321000, words := [0x14000000] } }

theorem got_of {x : Got TlbEntry} {e : TlbEntry} (h : found x = some e) : x = .got e := by
  cases x <;> simp_all [found]

/-- Bytes of the queue's space that lie in the first GiB can be reached now. -/
def reaches (s : State) (va n : Nat) (r w : Bool) : Bool := found (s.engineSpot (s.queueSpace 0) va n r w) == some leafData

theorem reach_of {s : State} {va n : Nat} {r w : Bool} (h : reaches s va n r w = true) : QueueReach s 0 va n r w leafData :=
  got_of (by simpa [reaches] using h)

/-- The script's packet for SENQ stands at the window's start; queue 0 is its target. -/
theorem test_witness_scripts :
    let s := withScript
    let inside (va n : Nat) : Prop := va % 8 = 0 ∧ ∃ w ∈ s.windowsOf 0, w.1 ≤ va ∧ va + n ≤ w.1 + w.2
    let a := (scriptReg s 1).toNat
    let t := (queueRead s 0 a 64 leafData).1
    let f : State := { s with mem := SMap.put 0 s.mem 0x200018 16 }
    let full := (queueRead f 0 a 64 leafData).1
    s.scr.live = true ∧ s.scr.queue = 0 ∧ (scriptValue s (.saddi { d := 0, a := 1, b := 0, imm := 0xFFFF })).isSome ∧
    inside a 8 ∧ inside (scriptReg s 2).toNat 8 ∧ ¬inside (scriptReg s 3).toNat 8 ∧ ¬inside (scriptReg s 2 + 1).toNat 8 ∧ inside a 64 ∧
    a % 4096 + 64 ≤ 4096 ∧ (∀ r w, reaches s a 8 r w = true) ∧ a % 8 = 0 ∧ leafData.ext = true ∧ (scriptReg s 1 + 1).toNat % 8 ≠ 0 ∧
    (scriptReg s 0).toNat < 2 ^ 14 ∧ s.qStopped 0 = false ∧ t.qWidx 0 < t.qRidx 0 + t.qSize 0 ∧ ¬full.qWidx 0 < full.qRidx 0 + full.qSize 0 ∧
    reaches f a 64 true false = true ∧ t.qDev 0 = true ∧ t.ordinaryUsed 0 + 4 < t.qSize 0 ∧ reaches s a 64 true false = true ∧
    reaches t (t.qRing 0 + 64 * (t.qWidx 0 % t.qSize 0)) 64 false true = true ∧ s.qHedge 8 ≠ s.qHedge 0 := by
  decide +kernel

/-- Numbers written to memory, eight bytes each. -/
def poke (s : State) (xs : List (Nat × Nat)) : State :=
  { s with mem := xs.foldl (fun m x => (leBytes 8 x.2).zipIdx.foldl (fun m y => SMap.put 0 m (x.1 + y.2) y.1) m) s.mem }

/-- The machine with a packet of these words in the ring of queue 0. -/
def withPacketOf (ws : List Nat) (s : State := base) : State := poke s (ws.zipIdx.map fun x => (0x300000 + 8 * x.2, x.1))

/-- The packet as the queue takes it up. -/
def packetOf (ws : List Nat) : Packet := { seq := 0, level := 0, words := (List.range 8).map fun i => BitVec.ofNat 64 (ws.getD i 0) }

/-- The next packet's slot read with acquire. -/
def slotRead (s : State) : State × List Byte := queueRead s 0 (s.qRing 0 + 64 * (s.nextSeq 0 % s.qSize 0)) 64 leafData
def after (s : State) : State := (slotRead s).1

/-- Every packet of queue 0 that has ended has been held against it. -/
def judgedOk (s : State) : Bool := (s.getQueue 0).packets.all fun p => !(s.packetEnd p).isSome || p.judged

theorem judged_of {s : State} (h : judgedOk s = true) : Judged s 0 := by
  intro p hp he
  have := List.all_eq_true.1 h p hp
  simpa [he] using this

def readyOk (s : State) (p : Packet) : Bool :=
  judgedOk s && !s.qStopped 0 && decide (s.nextSeq 0 < s.qWidx 0) && !s.servedFirst 0 && s.asidFault 0 == none &&
  reaches s (s.qRing 0 + 64 * (s.nextSeq 0 % s.qSize 0)) 64 true false &&
  decide (p = { seq := s.nextSeq 0, level := s.packetLevel 0 (s.nextSeq 0)
                words := (List.range 8).map fun i => BitVec.ofNat 64 (leNat (((slotRead s).2.drop (8 * i)).take 8)) }) &&
  (after s).qAborted 0 == false && (after s).mayStart 0 p.seq (decide (p.word 0 / 256 % 2 = 1))

theorem ready_of {s : State} {p : Packet} (h : readyOk s p = true) : ReadyPacket s 0 p (after s) := by
  simp only [readyOk, Bool.and_eq_true, decide_eq_true_eq, beq_iff_eq, Bool.not_eq_true'] at h
  obtain ⟨⟨⟨⟨⟨⟨⟨⟨hj, hs⟩, h1⟩, h0⟩, h2⟩, h4⟩, h5⟩, h3⟩, h6⟩ := h
  exact ⟨judged_of hj, hs, h1, h0, h2, ⟨leafData, reach_of h4, rfl, h5⟩, h3, h6⟩

def nextOk (s : State) (p : Packet) : Bool :=
  readyOk s p && p.fieldsOk && p.signals.all fun va => found ((after s).signalSpot (s.queueSpace 0) va false) == some leafData

theorem next_of {s : State} {p : Packet} (h : nextOk s p = true) : NextPacket s 0 p (after s) := by
  simp only [nextOk, Bool.and_eq_true, beq_iff_eq, List.all_eq_true] at h
  exact ⟨ready_of h.1.1, h.1.2, fun va hv => ⟨leafData, got_of (h.2 va hv)⟩⟩

/-- Reading blocks of the first GiB in turn: the state that this leaves, and the bytes, if each can be reached. -/
def blocksAt (x : Space) (n : Nat) : Nat → State → Nat → Option (State × List (List Byte))
  | 0, s, _ => some (s, [])
  | k + 1, s, va =>
    if found (s.engineSpot x va n true false) = some leafData then
      let r := s.spaceRead x leafData va n
      (blocksAt x n k r.1 (va + n)).map fun z => (z.1, r.2 :: z.2)
    else none

theorem table_of {x : Space} {n k : Nat} {s t : State} {va : Nat} {bss : List (List Byte)} (h : blocksAt x n k s va = some (t, bss)) :
    TableAt x n s va bss t := by
  induction k generalizing s va bss with
  | zero => cases h; rfl
  | succ k ih =>
    simp only [blocksAt] at h
    split at h
    · rename_i hf
      obtain ⟨⟨t', bs⟩, hb, he⟩ := Option.map_eq_some_iff.1 h
      cases he
      exact ⟨leafData, got_of hf, rfl, ih hb⟩
    · cases h

/-- PacketsStart: a NOP; a SIGNAL that sets and one that adds; a COPY with and without a good descriptor; a TLBINV of the first GiB. -/
theorem test_witness_packets :
    nextOk (withPacketOf [0]) (packetOf [0]) = true ∧
    (∀ w0 ∈ [4, 0x204], let s := withPacketOf [w0, 0, 0x500008, 5]
      nextOk s (packetOf [w0, 0, 0x500008, 5]) = true ∧ reaches (after s) 0x500008 8 true true = true) ∧ leafData.ext = true ∧
    (∀ x ∈ [(base, false), (withDescriptor, true)], let t := withPacketOf [2, 0, 0x500000] x.1
      nextOk t (packetOf [2, 0, 0x500000]) = true ∧
      (blocksAt ((after t).queueSpace 0) 64 4 (after t) 0x500000).map (fun z => (z.2.length, (copyDescOf z.2.flatten).ok none)) = some (4, x.2)) := by
  decide +kernel

/-- TlbinvDropsItsRange: with and without the right, and with an access to the range under way. -/
theorem test_witness_tlbinv :
    let ws := [6, 0, 1, 0, 0x40000000]
    let s := withPacketOf ws
    let noRight : State := { s with mem := SMap.put 0 s.mem 0x20000C 2 }
    let busy : State := { s with me := { s.me with pending := [{ word0 with spans := [leafData.span] }] } }
    let p := packetOf ws
    let fs (s : State) := (after s).migrating ((after s).readAsid 1).root 1 0 0x40000000
    nextOk s p = true ∧ nextOk noRight p = true ∧ nextOk busy p = true ∧ p.type = 6 ∧ (after s).qPriv 0 = true ∧ (after noRight).qPriv 0 = false ∧
    ((after s).allCores.map (·.id)).Nodup ∧ (∀ k ∈ (after s).allCores, k.id ≠ 0) ∧ 
    (after s).drained 1 0 0x40000000 (fs s) = true ∧ (after busy).drained 1 0 0x40000000 (fs busy) = false ∧ fs s = [] := by
  decide +kernel

theorem header_of {s : State} {q : Nat} {w : List Word64} {kn : Kernel} {g : Grid} {e : TlbEntry} (h4 : (w.getD 4 0).toNat = 0)
    (h7 : (w.getD 7 0).toNat = 0) (hp : privLimitOk (s.extDefault q).privLimit = true) (hg : gridOf (w.getD 5 0).toNat = some g)
    (hd : (w.getD 2 0).toNat % 64 = 0) (he : s.engineSpot (s.queueSpace q) (w.getD 2 0).toNat 64 true false = .got e)
    (hk : kernelOf (s.spaceRead (s.queueSpace q) e (w.getD 2 0).toNat 64).2 = some kn) (fail : State → HeaderEnd → State)
    (k : State → Header → State) :
    s.readHeader q w fail k = k (s.spaceRead (s.queueSpace q) e (w.getD 2 0).toNat 64).1 { kernel := kn, ext := s.extDefault q, grid := g, bucket := none, shapes := [] } := by
  have hs : (s.extDefault q).padsel = 0x00FFFFFF := rfl
  have ho : padselOk 0x00FFFFFF = true := by decide
  have hx : { s.extDefault q with padsel := 0x00FFFFFF } = s.extDefault q := rfl
  simp only [State.readHeader, h4, h7, hp, hs, hg, hd, he, hk, ho, hx, State.load64, State.engineLoad, decide_true, Bool.and_self, if_true, ne_eq,
    not_true_eq_false, if_false, Bool.not_true]
  rfl

/-- The same, for a launch of one workgroup of one gang, whose kernel descriptor stands at 0x500000. -/
theorem test_witness_launch_packet :
    let ws := [1, 0, 0x500000, 0, 0, 0x01010001]
    let s := poke (withPacketOf ws) [(0x500000, 0x40001000), (0x500008, 0x0101010000010100), (0x500010, 0x500000000)]
    let p := packetOf ws
    let u := after s
    let t := (u.spaceRead (u.queueSpace 0) leafData 0x500000 64).1
    nextOk s p = true ∧ p.type = 1 ∧ u.qHedge 0 < 48 ∧ ∃ h x, u.hedge? (u.qHedge 0) = some h ∧ t.hedge? (u.qHedge 0) = some h ∧ h.cores ≠ 0 ∧
      (∀ fail k, u.readHeader 0 p.words fail k = k t x) ∧ t.headerFault h (t.qHarvest 0) x.kernel x.grid = none := by
  refine ⟨by decide +kernel, by decide +kernel, by decide +kernel, { n := 1, cores := 1, pool := 0x250000 }, _, by decide +kernel, by decide +kernel,
    by decide,
    header_of (kn := { entry := 0x40001000, harvest := false, vpro := 1, vfull := 1, tiles := 0, cim := 0, padW := 1, padH := 1, scr := 0,
                       widths := [5, 0, 0, 0, 0, 0] })
      (g := { npad := 1, gangs := 1, slices := 1 }) (e := leafData) (by decide +kernel) (by decide +kernel) (by decide +kernel) (by decide +kernel)
      (by decide +kernel) (got_of (by decide +kernel)) (by decide +kernel), by decide +kernel⟩

/-- Does an engine's access end in a refusal? -/
def refused : Got TlbEntry → Bool
  | .bad .. => true
  | _ => false

theorem bad_of {x : Got TlbEntry} (h : refused x = true) : ∃ v c a, x = .bad v c a := by
  cases x <;> simp_all [refused]

/-- PacketsAreRefusedAtTheirStart: a NOP with a field that is not 0; a signal that is misaligned, one on a page without EXT, one on a page
that cannot be written; an ASID whose entry is not valid, and an aborted queue. -/
theorem test_witness_refused_packets :
    let u : State := { base with mem := SMap.put 0 base.mem 0x21002B 0 }
    let v : State := { withPacketOf [0] with mem := SMap.put 0 (withPacketOf [0]).mem 0x20002C 1 }
    let noExt := poke (withPacketOf [0, 0xC0500008]) [(0x104030, 0x0C65)]
    let signal (a : Nat) : Bool := let s := withPacketOf [0, a]
      readyOk s (packetOf [0, a]) && (packetOf [0, a]).fieldsOk && decide ((packetOf [0, a]).signals = a :: [])
    let words (s : State) : List Word64 := (List.range 8).map fun i => BitVec.ofNat 64 (leNat (((slotRead s).2.drop (8 * i)).take 8))
    readyOk (withPacketOf [0, 0, 1]) (packetOf [0, 0, 1]) = true ∧ (packetOf [0, 0, 1]).fieldsOk = false ∧
    signal 0x500004 = true ∧ 0x500004 % 8 ≠ 0 ∧ signal 0x40001000 = true ∧ 0x40001000 % 8 = 0 ∧
    refused ((after (withPacketOf [0, 0x40001000])).engineSpot ((withPacketOf [0, 0x40001000]).queueSpace 0) 0x40001000 8 true true false) = true ∧
    readyOk noExt (packetOf [0, 0xC0500008]) = true ∧ (packetOf [0, 0xC0500008]).signals = [0xC0500008] ∧
    ((found ((after noExt).engineSpot (noExt.queueSpace 0) 0xC0500008 8 true true false)).any fun e => e.ext == false) = true ∧
    judgedOk u = true ∧ u.qStopped 0 = false ∧ u.nextSeq 0 < u.qWidx 0 ∧ u.servedFirst 0 = false ∧ u.asidFault 0 = some 2 ∧ u.qAborted 0 = false ∧
    u.mayStart 0 0 true = true ∧ judgedOk v = true ∧ v.qStopped 0 = false ∧
    v.nextSeq 0 < v.qWidx 0 ∧ v.servedFirst 0 = false ∧ v.asidFault 0 = none ∧ reaches v 0x300000 64 true false = true ∧
    packetOf [0] = { seq := 0, level := v.packetLevel 0 0, words := words v } ∧ (after v).qAborted 0 = true := by
  decide +kernel

theorem of_any {α : Type} {o : Option α} {p : α → Bool} (h : o.any p = true) : ∃ z, o = some z ∧ p z = true := by
  cases o <;> simp_all

theorem words_of {x : Space} {n : Nat} {s t : State} {va : Nat} {acc : List Nat} {bss : List (List Byte)} {bad : State → State}
    {k : State → List Nat → State} (h : blocksAt x 8 n s (va + 8 * acc.length) = some (t, bss)) :
    s.loadWords x va bad k n acc = k t (acc ++ bss.map leNat) := by
  induction n generalizing s acc bss with
  | zero => cases h; simp [State.loadWords]
  | succ n ih =>
    simp only [blocksAt] at h
    split at h
    · rename_i hf
      obtain ⟨⟨t', bs⟩, hb, he⟩ := Option.map_eq_some_iff.1 h
      cases he
      simp only [State.loadWords, State.engineLoad, got_of hf]
      rw [ih (by simpa [Nat.mul_add, Nat.add_assoc] using hb)]
      simp
    · cases h

theorem entries_of {x : Space} {n : Nat} {s t : State} {va : Nat} {acc bss : List (List Byte)} {bad : State → State}
    {k : State → List (List Byte) → State} (h : blocksAt x 64 n s (va + 64 * acc.length) = some (t, bss)) :
    s.loadTable x va bad k n acc = k t (acc ++ bss) := by
  induction n generalizing s acc bss with
  | zero => cases h; simp [State.loadTable]
  | succ n ih =>
    simp only [blocksAt] at h
    split at h
    · rename_i hf
      obtain ⟨⟨t', bs⟩, hb, he⟩ := Option.map_eq_some_iff.1 h
      cases he
      simp only [State.loadTable, State.engineLoad, got_of hf]
      rw [ih (by simpa [Nat.mul_add, Nat.add_assoc] using hb)]
      simp
    · cases h

theorem no_bucket_of {s s1 t : State} {q n : Nat} {w : List Word64} {b1 b2 : List (List Byte)} (h4 : (w.getD 4 0).toNat = 0)
    (hp : privLimitOk (s.extDefault q).privLimit = true) (h7 : (w.getD 7 0).toNat ≠ 0) (ha : (w.getD 7 0).toNat % 64 = 0)
    (hn : bits (w.getD 0 0).toNat 12 9 = n) (hb : 1 ≤ n ∧ n ≤ 8) (hr : (s.extDefault q).shapeReg % 8 = 0)
    (h1 : blocksAt (s.queueSpace q) 8 8 s (s.extDefault q).shapeReg = some (s1, b1))
    (h2 : blocksAt (s.queueSpace q) 64 n s1 (w.getD 7 0).toNat = some (t, b2)) (hc : chooseBucket (b2.map bucketOf) (b1.map leNat) = none)
    (fail : State → HeaderEnd → State) (k : State → Header → State) : s.readHeader q w fail k = fail t .noBucket := by
  have hc0 : ¬(n < 1) ∧ ¬(8 < n) := by omega
  simp only [State.readHeader, h4, h7, hp, ha, hn, hr, hc0, if_true, if_false, decide_false, Bool.false_and, Bool.false_eq_true, ne_eq,
    not_true_eq_false, Bool.or_self]
  rw [words_of (va := (s.extDefault q).shapeReg) (acc := []) (by simpa only [List.length_nil, Nat.mul_zero, Nat.add_zero] using h1)]
  simp only [List.nil_append]
  rw [entries_of (va := (w.getD 7 0).toNat) (acc := []) (by simpa only [List.length_nil, Nat.mul_zero, Nat.add_zero] using h2)]
  simp only [List.nil_append, hc]

/-- The same, for launches: no core in the hedge, a grid word of 0, a bucket that no shape fits, and a kernel whose lane indices are too
narrow. -/
theorem test_witness_refused_launches :
    let ws := [1, 0, 0x500000, 0, 0, 0x01010002]
    let grid := [1, 0, 0x500000]
    let bucket := [0x201, 0, 0, 0, 0, 0, 0, 0x500100]
    let s := poke (withPacketOf ws) [(0x500000, 0x40001000), (0x500008, 0x0101010000010100), (0x500010, 0x500000000)]
    let u := after s
    let t := (u.spaceRead (u.queueSpace 0) leafData 0x500000 64).1
    let g := after (withPacketOf grid)
    let b := after (withPacketOf bucket)
    let none_ : State := { withPacketOf grid with hedges := [{ n := 1, cores := 0, pool := 0x250000 }] }
    (∀ z ∈ [(s, ws), (withPacketOf grid, grid), (withPacketOf bucket, bucket), (none_, grid)],
      nextOk z.1 (packetOf z.2) = true ∧ (packetOf z.2).type = 1 ∧ (after z.1).qHedge 0 < 48) ∧
    ((after none_).hedge? ((after none_).qHedge 0)).map (·.cores) = some 0 ∧
    (∀ z ∈ [u, g, b], (z.hedge? (z.qHedge 0)).map (·.cores) = some 1) ∧
    (∀ fail k, g.readHeader 0 (packetOf grid).words fail k = fail g (.reject 1)) ∧
    (∃ t, ∀ fail k, b.readHeader 0 (packetOf bucket).words fail k = fail t .noBucket) ∧
    ∃ x : Header, (∀ fail k, u.readHeader 0 (packetOf ws).words fail k = k t x) ∧ x.grid.gangs ≤ 32 ∧
      headerRefusal t { n := 1, cores := 1, pool := 0x250000 } (t.qHarvest 0) x.kernel x.grid = some 5 := by
  refine ⟨by decide +kernel, by decide +kernel, by decide +kernel, ?_, ?_, _,
    header_of (kn := { entry := 0x40001000, harvest := false, vpro := 1, vfull := 1, tiles := 0, cim := 0, padW := 1, padH := 1, scr := 0,
                       widths := [5, 0, 0, 0, 0, 0] })
      (g := { npad := 2, gangs := 1, slices := 1 }) (e := leafData) (by decide +kernel) (by decide +kernel) (by decide +kernel) (by decide +kernel)
      (by decide +kernel) (got_of (by decide +kernel)) (by decide +kernel), by decide, by decide +kernel⟩
  · intro fail k
    have h4 : ((packetOf [1, 0, 0x500000]).words.getD 4 0).toNat = 0 := by decide
    have h7 : ((packetOf [1, 0, 0x500000]).words.getD 7 0).toNat = 0 := by decide
    have hp : privLimitOk ((after (withPacketOf [1, 0, 0x500000])).extDefault 0).privLimit = true := by decide +kernel
    have hg : gridOf ((packetOf [1, 0, 0x500000]).words.getD 5 0).toNat = none := by decide
    have hs : ((after (withPacketOf [1, 0, 0x500000])).extDefault 0).padsel = 0x00FFFFFF := rfl
    simp only [State.readHeader, h4, h7, hp, hg, hs, decide_true, Bool.and_self, if_true]
  · have h : ((blocksAt ((after (withPacketOf [0x201, 0, 0, 0, 0, 0, 0, 0x500100])).queueSpace 0) 8 8 (after (withPacketOf [0x201, 0, 0, 0, 0, 0, 0, 0x500100]))
        ((after (withPacketOf [0x201, 0, 0, 0, 0, 0, 0, 0x500100])).extDefault 0).shapeReg).any fun z =>
          (blocksAt ((after (withPacketOf [0x201, 0, 0, 0, 0, 0, 0, 0x500100])).queueSpace 0) 64 1 z.1 0x500100).any fun y =>
            (chooseBucket (y.2.map bucketOf) (z.2.map leNat)).isNone) = true := by decide +kernel
    obtain ⟨⟨s1, b1⟩, h1, h'⟩ := of_any h
    obtain ⟨⟨t, b2⟩, h2, hc⟩ := of_any h'
    exact ⟨t, no_bucket_of (n := 1) (by decide) (by decide +kernel) (by decide) (by decide) (by decide) (by decide) (by decide +kernel) h1 h2
      (Option.isNone_iff_eq_none.1 hc)⟩

/-- BadEndsAbortTheQueue: a copy that has ended with status 0x41, not yet held against the queue. -/
theorem test_witness_bad_end :
    let p : Packet := { packetOf [2, 0, 0x500000] with ended := some (0x41, 1) }
    let s : State := { base with queues := [{ handle := 0, taken := 1, packets := [p] }] }
    (s.getQueue 0).packets.filter (fun z => !z.judged && (s.packetEnd z).isSome) = [p] ∧ s.packetEnd p = some (0x41, 1) ∧ s.qAborted 0 = false ∧
    memoryWf s = true ∧ s.sectors = [] ∧ queueAddr s 0 + 256 ≤ hbmEnd ∧ (s.getQueue 0).packets.filter Packet.offered = [] ∧
    s.waitingBarrier 0 = none := by
  decide +kernel

/-- The machine with a BARRIER in its ring that watches a signal of this value. -/
def barrierAt (v : Nat) : State := poke (withPacketOf [3, 0, 0x500008]) [(0x500008, v)]
def barrierPacket : Packet := packetOf [3, 0, 0x500008]

/-- The same, with the packet taken up. -/
def barrierLater (v : Nat) : State :=
  { barrierAt v with queues := [{ handle := 0, taken := 1, packets := [{ barrierPacket with started := some 0 }] }] }

/-- The value of the one signal that the barrier watches, read with acquire, and the state after it. -/
def watchedBy (s : State) : State × List Byte := s.spaceRead (s.queueSpace 0) leafData 0x500008 8

theorem watches_of {s : State} (h : found (s.signalSpot (s.queueSpace 0) 0x500008 false) = some leafData) :
    Watches (s.queueSpace 0) s [0x500008] [leafData] [BitVec.ofNat 64 (leNat (watchedBy s).2)] (watchedBy s).1 :=
  ⟨leafData, [], [], rfl, got_of h, rfl, rfl, rfl, rfl⟩

/-- BarriersWaitForTheirSignals: one watched signal that is 0, positive or negative, at the packet's start and at a later look. -/
theorem test_witness_barriers :
    ([0, 1, 2 ^ 63].all fun v =>
      let s := barrierAt v
      let t0 := tookUp (after s) 0 (started (after s) barrierPacket)
      let t := (watchedBy t0).1
      let l := barrierLater v
      nextOk s barrierPacket && found (t0.signalSpot (t0.queueSpace 0) 0x500008 false) == some leafData &&
      decide (BitVec.ofNat 64 v = BitVec.ofNat 64 (leNat (watchedBy t0).2)) && memoryWf t && t.qAborted 0 == false &&
      decide (queueAddr t 0 + 256 ≤ hbmEnd ∧ (t.getQueue 0).packets.filter Packet.offered = [] ∧ t.sectors = []) &&
      judgedOk l && l.waitingBarrier 0 == some { barrierPacket with started := some 0 } &&
      found (l.signalSpot (l.queueSpace 0) 0x500008 false) == some leafData) = true ∧
    barrierPacket.type = 3 ∧ barrierPacket.word 7 = 0 ∧ barrierPacket.watched = [0x500008] ∧ leafData.mt = 0 := by
  decide +kernel

/-- ScriptPacketsLoadAndRun: a script that passes verification, one that does not, and a run of a loaded and of no script. -/
theorem test_witness_script_packets :
    let load := [0x205, 0, 0x500000, 1]
    let s (w : Nat) := poke (withPacketOf load) [(0x500000, w)]
    let r := withPacketOf [5]
    let t : State := { r with queues := [{ handle := 0, script := [0x14000000] }] }
    (∀ w ∈ [0x14000000, 0x00000000], nextOk (s w) (packetOf load) = true ∧
      (blocksAt ((after (s w)).queueSpace 0) 4 1 (after (s w)) 0x500000).map (fun z => z.2.map fun b => BitVec.ofNat 32 (leNat b)) =
        some [BitVec.ofNat 32 w]) ∧
    scriptOk [0x14000000] = true ∧ scriptOk [0] = false ∧ (packetOf load).word 0 / 512 % 8 = 1 ∧ (packetOf load).word 2 % 4 = 0 ∧
    (packetOf load).word 3 = 1 ∧ nextOk r (packetOf [5]) = true ∧ nextOk t (packetOf [5]) = true ∧ (packetOf [5]).type = 5 ∧
    (packetOf [5]).word 0 / 512 % 8 = 0 ∧ ((after t).getQueue 0).script ≠ [] ∧ ((after r).getQueue 0).script = [] := by
  decide +kernel

/-! The machine after the record of a packet whose signal is the word at 0x500008, and after CWIDX has gone up: the record holds ELAPSED,
which is free, so that what follows is shown of every byte off the record. -/

def ended : Packet := { packetOf [0, 0x500008] with ended := some (0, 0), judged := true }
def signalledEnd : State := { base with queues := [{ handle := 0, taken := 1, packets := [ended] }] }
def recorded := queueWrite signalledEnd 0 0x310000 (signalledEnd.completionRecord ended 0 0) leafData

theorem recorded_mem : recorded.mem = SMap.putAll 0 base.mem 0x310000 (signalledEnd.completionRecord ended 0 0) := by rfl

def counted := recorded.wr 0x200038 8 1
theorem base_wf : SMap.wf 0 base.mem = true := by decide +kernel
theorem recorded_tags : recorded.tags = [(0x18800, 1 + 5 * 2 ^ 32), (0x18801, 1 + 5 * 2 ^ 32)] := by decide +kernel

theorem counted_tags : counted.tags = [(0x10001, 1), (0x18800, 1 + 5 * 2 ^ 32), (0x18801, 1 + 5 * 2 ^ 32)] := by decide +kernel
theorem recall_none {s : State} (h : s.sectors = []) (k : Option Nat) (l : Nat) : s.recallBut k l = s := by
  cases s; cases h; rfl

theorem wr_mem {s : State} (h : s.sectors = []) (ht : SMap.get 0 s.tags 0x10001 = 0) :
    (s.wr 0x200038 8 1).mem = SMap.putAll 0 s.mem 0x200038 (leBytes 8 1) := by
  have hl : linesOf 0x200038 (leBytes 8 1).length = [0x4000] := by decide
  have hc : sectorsOf 0x200038 (leBytes 8 1).length = [0x10001] := by decide
  simp only [State.wr, State.homeWriteAll, hl, List.foldl, recall_none h, State.homeWrite, bumpVersion_mem, hc, State.retag, ht, decide_true,
    Bool.or_true, if_true, State.putBytes]
  rw [if_pos (by decide)]

theorem counted_mem : counted.mem = SMap.putAll 0 recorded.mem 0x200038 (leBytes 8 1) := wr_mem (by decide +kernel) (by decide +kernel)
theorem record_length : (signalledEnd.completionRecord ended 0 0).length = 64 := by simp [State.completionRecord, leBytes_length]

theorem recorded_key : recorded.keyTag 0 = 1 := by decide +kernel
theorem counted_key : counted.keyTag 0 = 1 := by decide +kernel
theorem base_key : base.keyTag 0 = 1 := by decide +kernel

theorem recorded_byte (b : Nat) (h : b < 0x310000) : recorded.readByte 1 b = base.readByte 1 b := by
  have ht : SMap.get 0 recorded.tags (b / 32) = 0 := by
    rw [recorded_tags]; simp only [SMap.get]
    rw [if_neg (by omega), if_neg (by omega)]
  have hb : SMap.get 0 base.tags (b / 32) = 0 := rfl
  have hm : SMap.get 0 recorded.mem b = SMap.get 0 base.mem b := by
    rw [recorded_mem, SMap.get_putAll _ _ _ _ base_wf, record_length, if_neg (by omega)]
  simp only [State.readByte, ht, hb, hm, decide_true, Bool.true_or, if_true]

theorem counted_byte (b : Nat) (h : b < 0x200038 ∨ 0x200040 ≤ b ∧ b < 0x310000) : counted.readByte 1 b = base.readByte 1 b := by
  have hb : SMap.get 0 base.tags (b / 32) = 0 := rfl
  have hm : SMap.get 0 counted.mem b = SMap.get 0 base.mem b := by
    rw [counted_mem, SMap.get_putAll _ _ _ _ (recorded_mem ▸ SMap.putAll_wf _ _ _ base_wf), recorded_mem, SMap.get_putAll _ _ _ _ base_wf, record_length, leBytes_length]
    rw [if_neg (by omega), if_neg (by omega)]
  have ht : SMap.get 0 counted.tags (b / 32) = 0 ∨ SMap.get 0 counted.tags (b / 32) = 1 := by
    rw [counted_tags]; simp only [SMap.get]
    split
    · exact .inr rfl
    · rw [if_neg (by omega), if_neg (by omega)]; exact .inl rfl
  simp only [State.readByte, hb, hm]
  rcases ht with h | h <;> simp [h]

theorem recorded_rd (b n : Nat) (h : b + n ≤ 0x310000) : recorded.rd b n = base.rd b n := by
  simp only [State.rd, State.homeRead, recorded_key, base_key]
  rw [List.map_congr_left fun i hi => recorded_byte _ (by have := List.mem_range.1 hi; omega)]

theorem counted_rd (b n : Nat) (h : b + n ≤ 0x200038 ∨ 0x200040 ≤ b ∧ b + n ≤ 0x310000) : counted.rd b n = base.rd b n := by
  simp only [State.rd, State.homeRead, counted_key, base_key]
  rw [List.map_congr_left fun i hi => counted_byte _ (by have := List.mem_range.1 hi; omega)]

theorem counted_pte (t i : Nat) (h : t + 16 * i + 16 ≤ 0x200038) : counted.readPte t i = base.readPte t i := by
  simp only [State.readPte, State.homeRead, counted_key, base_key]
  rw [List.map_congr_left fun j hj => counted_byte _ (by have := List.mem_range.1 hj; omega)]

theorem recorded_addr : queueAddr recorded 0 = 0x200000 := by
  simp only [queueAddr, State.qtable]
  rw [recorded_rd _ _ (by decide)]
  decide +kernel

theorem counted_space : counted.queueSpace 0 = base.queueSpace 0 := by
  have a : queueAddr counted 0 = queueAddr base 0 := by
    simp only [queueAddr, State.qtable]; rw [counted_rd _ _ (by decide)]
  have q : queueAddr base 0 = 0x200000 := by decide +kernel
  have b : base.qAsid 0 = 1 := by decide +kernel
  have c : base.atable = 0x210000 := by decide +kernel
  have d : counted.qAsid 0 = base.qAsid 0 := by simp only [State.qAsid, a, q]; rw [counted_rd _ _ (by decide)]
  have e : counted.qHedge 0 = base.qHedge 0 := by simp only [State.qHedge, a, q]; rw [counted_rd _ _ (by decide)]
  have g : counted.qHarvest 0 = base.qHarvest 0 := by simp only [State.qHarvest, State.qCtl, a, q]; rw [counted_rd _ _ (by decide)]
  have f : counted.atable = base.atable := by simp only [State.atable]; rw [counted_rd _ _ (by decide)]
  simp (disch := decide) only [State.queueSpace, d, e, g, State.readAsid, f, b, c, counted_rd]

theorem walk_table {s : State} {asid va n table e : Nat} (hn : n ≠ 0) (he : s.readPte table (bits va (20 + 9 * n) (12 + 9 * n)) = e)
    (h : bits e 0 0 ≠ 0 ∧ pteMalformed n e = false ∧ bits e 2 2 = 0) :
    s.walkFrom asid va (n + 1) table = s.walkFrom asid va n (bits e 51 12 * 4096) := by
  simp [State.walkFrom, State.pteAt, hn, he, h]

theorem counted_leaf (asid va n table : Nat) (hn : n ≠ 0) (h : counted.readPte table (bits va (20 + 9 * n) (12 + 9 * n)) = base.readPte table (bits va (20 + 9 * n) (12 + 9 * n)))
    (h2 : bits (base.readPte table (bits va (20 + 9 * n) (12 + 9 * n))) 2 2 ≠ 0) :
    counted.walkFrom asid va (n + 1) table = base.walkFrom asid va (n + 1) table := by
  simp [State.walkFrom, State.pteAt, hn, h, h2]

theorem counted_walk : counted.walk 0x100000 1 0x500008 = .leaf leafData := by
  have i4 : bits 0x500008 (20 + 9 * 4) (12 + 9 * 4) = 0 := by decide
  have i3 : bits 0x500008 (20 + 9 * 3) (12 + 9 * 3) = 0 := by decide
  have i2 : bits 0x500008 (20 + 9 * 2) (12 + 9 * 2) = 0 := by decide
  have r0 : counted.readPte 0x100000 (bits 0x500008 (20 + 9 * 4) (12 + 9 * 4)) = 0x102001 := by rw [i4, counted_pte _ _ (by decide)]; decide +kernel
  have r1 : counted.readPte 0x102000 (bits 0x500008 (20 + 9 * 3) (12 + 9 * 3)) = 0x104001 := by rw [i3, counted_pte _ _ (by decide)]; decide +kernel
  have r2 : counted.readPte 0x104000 (bits 0x500008 (20 + 9 * 2) (12 + 9 * 2)) = base.readPte 0x104000 (bits 0x500008 (20 + 9 * 2) (12 + 9 * 2)) := by
    rw [i2, counted_pte _ _ (by decide)]
  have b2 : base.walkFrom 1 0x500008 (2 + 1) 0x104000 = .leaf leafData := by decide +kernel
  have s4 := walk_table (asid := 1) (by decide) r0 (by decide)
  have s3 := walk_table (asid := 1) (by decide) r1 (by decide)
  have s2 := counted_leaf 1 0x500008 2 0x104000 (by decide) r2 (by rw [i2]; decide +kernel)
  rw [show bits 0x102001 51 12 * 4096 = 0x102000 from by decide] at s4
  rw [show bits 0x104001 51 12 * 4096 = 0x104000 from by decide] at s3
  have h5 : counted.walk 0x100000 1 0x500008 = counted.walkFrom 1 0x500008 (4 + 1) 0x100000 := if_neg (by decide)
  exact h5.trans (s4.trans (s3.trans (s2.trans b2)))

theorem counted_spot : counted.engineSpot (counted.queueSpace 0) 0x500008 8 true true = .got leafData := by
  have hw : counted.translateNow 0x100000 1 0x500008 = .leaf leafData := counted_walk
  have hs : base.queueSpace 0 = { who := .queue 0, hedge := 1, die := 0, asid := 1, root := 0x100000, key := 5, codeKey := 0, harvest := false } := by decide +kernel
  have h1 : counted.awaited (.queue 0) 1 (0x500008 / 4096) = false := by decide +kernel
  have h2 : counted.refusedTo (.queue 0) 1 (0x500008 / 4096) = false := by decide +kernel
  have h3 : counted.isPoisoned 0x500008 8 = false := by decide +kernel
  have h4 : counted.engineGate { who := .queue 0, hedge := 1, die := 0, asid := 1, root := 0x100000, key := 5, codeKey := 0, harvest := false }
      0x500008 8 true leafData = .got leafData := got_of (by decide +kernel)
  have h5 : counted.beyond (.queue 0) 1 leafData 0x500008 true true = none := by rfl
  rw [counted_space, hs, State.engineSpot]
  simp only [h1, h2, hw, h5, Bool.false_eq_true, if_false]
  exact (if_neg (by decide)).trans ((if_neg (by rw [show leafData.phys 0x500008 = 0x500008 from rfl, h3]; decide)).trans h4)

/-- CompletionsAndDoorbells: a packet that has ended, with and without a signal, a full completion ring, and doorbell values at the ends of
the ring. -/
theorem test_witness_completions :
    let p : Packet := { packetOf [0] with ended := some (0, 0), judged := true }
    let s : State := { base with queues := [{ handle := 0, taken := 1, packets := [p] }] }
    let full : State := { s with mem := SMap.put 0 base.mem 0x200038 16 }
    (s.getQueue 0).packets.filter (fun x => !x.completed && (s.packetEnd x).isSome) = [p] ∧ s.packetEnd p = some (0, 0) ∧ p.word 1 = 0 ∧
    judgedOk s = true ∧ judgedOk full = true ∧
    full.qCwidx 0 - full.qCridx 0 = full.qCrsize 0 ∧ s.qCwidx 0 = 0 ∧ s.qCwidx 0 - s.qCridx 0 ≠ s.qCrsize 0 ∧ s.qCring 0 = 0x310000 ∧
    reaches s 0x310000 64 false true = true ∧ base.qStopped 0 = false ∧ base.qWidx 0 = 1 ∧ base.qRidx 0 = 0 ∧ base.qSize 0 = 16 := by
  decide +kernel

/-- The same, with a signal. -/
theorem test_witness_completion_signal :
    (signalledEnd.getQueue 0).packets.filter (fun x => !x.completed && (signalledEnd.packetEnd x).isSome) = [ended] ∧ ended.word 1 = 0x500008 ∧
    judgedOk signalledEnd = true ∧ ended.mute = false ∧ signalledEnd.qCwidx 0 = 0 ∧ signalledEnd.qCring 0 = 0x310000 ∧ reaches signalledEnd 0x310000 64 false true = true ∧
    reaches signalledEnd 0x500008 8 true true = true ∧
    signalledEnd.completionRecord ended 0 0 = (([(8, 0), (1, 0), (1, 0), (1, 0), (1, 0), (4, 2 ^ 32 - 1), (8, Config.elapsed 0), (8, 0), (8, 0), (8, 0),
      (16, 0)] : List (Nat × Nat)).flatMap fun f => leBytes f.1 f.2) ∧
    QueueReach (recorded.wr (queueAddr recorded 0 + 56) 8 1) 0 0x500008 8 true true leafData := by
  have h : recorded.wr (queueAddr recorded 0 + 56) 8 1 = counted := by rw [recorded_addr]; rfl
  rw [h]
  exact ⟨by decide +kernel, by decide +kernel, by decide +kernel, by decide +kernel, by decide +kernel, by decide +kernel, by decide +kernel,
    by decide +kernel, rfl, counted_spot⟩
/-- ResultsLandAndFaultsReplay: a result that has come and one that waits; a fault-parked part whose pages have come, and one that waits;
a trap that waited for results. -/
theorem test_witness_results_land :
    let r : LaneResult := { id := 3, writes := [(96, 7), (96, 8)], preds := [(33, true)], flags := 1 }
    let s := baseWith fun p => { p with inflight := [r, { r with id := 4, waits := 1 }] }
    let rec0 : ParkedRec := { seq := 0, pc := 0x40000FF8, lanes := 1, info := { code := 7 }, pages := [] }
    let f := baseWith fun p => { p with state := .faultParked, parked := [rec0] }
    let w := baseWith fun p => { p with state := .faultParked, parked := [{ rec0 with pages := [(5, 1)] }] }
    let i : TrapRec := { code := 8, aux := 1, lanes := 1, pc := 0x40001000 }
    let t := armed fun p => { p with state := .parked .trap, trap := some i }
    let rests (u : State) : State := { u with wg := { u.wg with state := .saved } }
    ([f, t, rests f, rests t].map fun u => decide ((u.getWg (u.getGang (u.getPart 1).gang).workgroup).state = .saved)) = [false, false, true, true] ∧
    (∀ u ∈ [s, f, w, t], ∃ p ∈ u.allParts, p.id = 1) ∧ (s.getPart 1).inflight[0]? = some r ∧ (∃ g ∈ s.allGangs, g.id = 1) ∧
    (∃ g ∈ s.gangsOfWg 1, s.gangOver g.id = false) ∧ (s.getGang 1).workgroup = 1 ∧
    (s.getWg 1).id = 1 ∧ (s.getWg 1).state ≠ .evicted ∧ SMap.wf 0 (s.getGang 1).v = true ∧ (s.getPart 1).inflight[1]? = some { r with id := 4, waits := 1 } ∧
    (f.getPart 1).state = .faultParked ∧ (f.getPart 1).trap = none ∧ (∀ x ∈ (f.getPart 1).parked, x.pages = [] ∧ x.refused = []) ∧
    (w.getPart 1).state = .faultParked ∧ (∃ x ∈ (w.getPart 1).parked, x.pages ≠ []) ∧ (t.getPart 1).state = .parked .trap ∧
    (t.getPart 1).trap = some i ∧ (t.getPart 1).second = false ∧ (t.getPart 1).replay = none ∧ i.pc = (t.getPart 1).pc ∧
    CanEnter (t.takeUp 1) i (spotOf 0x700000) := by
  unfold CanEnter
  decide +kernel

/-- WalksFillsAndAnswersArrive: a walk that ends with a leaf and one that faults, a line with one waiter, a buffer that is released. -/
theorem test_witness_arrivals :
    let wk : Walk := { sector := 0, asid := 1, root := 0x100000, hedge := 1, page := 0x500, quads := [0, 5] }
    let s : State := { base with walks := [wk, { wk with sector := 1, page := 0x80000 }] }
    let r : Req := { part := 1, lane := 0, kind := .read 8 false 3, addr := 0x700080, size := 4, key := 1 + 5 * 2 ^ 32 }
    let m : State := { baseWith fun p => { p with inflight := [{ id := 3, waits := 1 }] } with misses := [{ slice := 0, line := 0xE001, waiters := [r] }] }
    let z : State := { base with zeroing := [{ core := 0, base := 0, length := 65536 }, { core := 191, base := 458752, length := 65536 }] }
    let leafOf (s : State) (w : Walk) : WalkOut :=
      ({ s with walks := s.walks.filter fun x => !(x.sector == w.sector && x.asid == w.asid && x.page == w.page) }.sectorWalk w.sector w.root w.asid
        (4096 * w.page)).2
    (s.walks.find? (fun x => x.sector == 0)).map (fun w => (leafOf s w, w.quads)) = some (.leaf leafData, [0, 5]) ∧
    (s.walks.find? (fun x => x.sector == 1)).map (leafOf s) = some (.fault 7 1) ∧
    (m.misses.find? (fun y => y.slice == 0 && y.line == 0xE001)).map (·.waiters) = some [r] ∧ r.acq = false ∧ m.ways 0 ≠ 0 ∧ m.reqFree r = true ∧
    (∃ p ∈ m.allParts, p.id = r.part) ∧ (∃ g ∈ m.gangsOfWg (m.getGang (m.getPart r.part).gang).workgroup, m.gangOver g.id = false) ∧ m.ingress = [] ∧
    (∀ k ∈ m.allCores, k.l1 = []) ∧ m.sectors = [] ∧ isHbm r.addr = true ∧ m.isPoisoned r.addr r.size = false ∧ r.addr % 128 + r.size ≤ 128 ∧
    z.zeroing.length = 2 ∧ (∀ x ∈ z.zeroing, x.base + x.length ≤ 524288 ∧ x.core < 192) ∧ memoryWf z = true := by
  decide +kernel

/-- NoticesAndTimersWake: a sleeper and a reader of a line, with and without the token; an answer of a line that is as it was and of one
that is not; a context whose parts all sleep. -/
theorem test_witness_notices :
    let rl : ReadLine := { line := 0xA000, version := 0 }
    let sl : Sleep := { lines := [rl], unanswered := [rl], form := .lines }
    let asleep := { baseWith fun p => { p with state := .asleep, sleep := some sl, levels := [level1] } with notices := [(0, 0xA000)] }
    let reader := { baseWith fun p => { p with levels := [level1] } with notices := [(0, 0xA000)] }
    let stuck := baseWith fun p => { p with state := .asleep, sleep := some { sl with unanswered := [] }, levels := [level1] }
    let w := base.getWg (base.getGang 1).workgroup
    w.state = .running ∧ w.core = 0 ∧ asleep.notices[0]? = some (0, 0xA000) ∧ asleep.allParts[0]? = some asleep.me ∧ asleep.me.sleep = some sl ∧
    (∃ r ∈ sl.lines, r.line = 0xA000) ∧ reader.allParts[0]? = some reader.me ∧ reader.me.state ≠ .asleep ∧ reader.me.serial = false ∧
    (∃ r ∈ reader.me.readLines, r.line = 0xA000) ∧ (∀ r ∈ base.me.readLines, r.line ≠ 0xA000) ∧ sl.unanswered[0]? = some rl ∧
    (let u := asleep.watchLine 1 0 0xA000; u.versionOf 0xA000 = 0 ∧ u.versionOf 0xA000 ≠ 3) ∧ base.deadlocked 1 = false ∧ stuck.deadlocked 1 = true ∧ (stuck.getCtx 1).report = none ∧
    (stuck.getCtx 1).live = true ∧ (stuck.getCtx 1).id = 1 := by decide +kernel

/-- The place that a copy's access finds, if it finds one. -/
def copyFound : CopySpot → Option (Nat × Nat × Option TlbEntry)
  | .spot a k e => some (a, k, e)
  | _ => none

/-- A copy of two words from 0x500000 to 0x50007C and on, past a line's end. -/
def job : CopyJob :=
  { id := 5, owner := .gang 1 1 1 0, context := 1, asid := 1, root := 0x100000, key := 5, codeKey := 0, hedge := 1, die := 0, harvest := false
    src := 0x500000, dst := 0x50007C, ssp := 4, dsp := 4, esz := 2, exts := [2], sstr := [], dstr := [], gather := false, idxa := 0
    done := none, stile := none }

set_option synthInstance.maxSize 1000 in
/-- CopyElementsLand: the first and the last element, and a copy that has landed, with and without a completion word. -/
theorem test_witness_copy_elements :
    (∀ i, i < 2 → let j := { job with next := i }
      let s : State := { base with copies := [j] }
      memoryWf s = true ∧ s.copies.find? (fun x => x.id == j.id) = some j ∧ j.landed = false ∧ j.failed = none ∧ j.next < elements j.exts ∧
      copyFound (s.copySpot j j.ssp (elementAddress j.src j.esz j.exts j.sstr j.next) 4 true false) =
        some (0x500000 + 4 * i, 1 + 5 * 2 ^ 32, some leafData) ∧ isPeer (0x500000 + 4 * i) = false ∧
      copyFound (s.copySpot j j.dsp (elementAddress j.dst j.esz j.exts j.dstr j.next) 4 false true) =
        some (0x50007C + 4 * i, 1 + 5 * 2 ^ 32, some leafData) ∧
      s.copyFree j (0x500000 + 4 * i) 4 false = true ∧ s.copyFree j (0x50007C + 4 * i) 4 true = true ∧ s.isPoisoned (0x500000 + 4 * i) 4 = false ∧
      isDoorbell (0x50007C + 4 * i) = false ∧ 0x50007C + 4 * i + 4 ≤ hbmEnd ∧ s.sectors = [] ∧ (0x50007C + 4 * i) % 128 + 4 ≤ 128) ∧
    (∀ d ∈ [none, some (false, 0x500100), some (true, 64)], let j := { job with next := 2, landed := true, done := d }
      let s : State := { base with copies := [j] }
      memoryWf s = true ∧ s.copies.find? (fun x => x.id == j.id) = some j ∧ (∃ g ∈ s.gangsOfWg 1, s.gangOver g.id = false) ∧
      copyFound (s.copySpot j 4 0x500100 8 true true) = some (0x500100, 1 + 5 * 2 ^ 32, some leafData) ∧
      copyFound (s.copySpot j 1 64 8 true true) = some (spadAddr 0 64, 0, none) ∧ ∀ a ∈ [0x500100, spadAddr 0 64], s.homeHeld j.id a 8 true = false) := by
  decide +kernel

set_option synthInstance.maxSize 1000 in
/-- The same, with a stile, from a gathered list and into a tile. -/
theorem test_witness_copies_elsewhere :
    let c := spadAddr 0 256
    let j := { job with exts := [1, 2], sstr := [4], dstr := [4], stile := some c }
    let g := { j with gather := true, idxa := 0x500200 }
    let k := { j with dsp := 5, dst := 0x10000 }
    let with_ (j : CopyJob) : State := { base with copies := [j] }
    ([j, g, k].all fun j => (with_ j).copies.find? (fun x => x.id == j.id) == some j && !j.landed && j.failed == none && decide (j.next < elements j.exts) &&
      (with_ j).heldByOther 0 c 16 true == none && !(with_ j).ownedUnit j.id c 16 && (with_ j).copyFree j 0x500000 4 false &&
      copyFound ((with_ j).copySpot j j.ssp 0x500000 4 true false) == some (0x500000, 1 + 5 * 2 ^ 32, some leafData)) = true ∧
    isSpad c = true ∧ c % 128 + 16 ≤ 128 ∧
    elementAddress j.src j.esz j.exts j.sstr 0 none = 0x500000 ∧
    copyFound ((with_ g).copySpot g 4 ((g.idxa + 4 * elementIndex g.exts 0 1) % 2 ^ 64) 4 true false) = some (0x500200, 1 + 5 * 2 ^ 32, some leafData) ∧
    (with_ g).copyFree g 0x500200 4 false = true ∧
    elementAddress g.src g.esz g.exts g.sstr 0 (some (leNat ((with_ g).homeRead (1 + 5 * 2 ^ 32) 0x500200 4))) = 0x500000 ∧
    ([j, g].all fun j => copyFound ((with_ j).copySpot j j.dsp (elementAddress j.dst j.esz j.exts j.dstr 0) 4 false true) ==
      some (0x50007C, 1 + 5 * 2 ^ 32, some leafData) && (with_ j).copyFree j 0x50007C 4 true) = true ∧ 0x50007C + 4 ≤ c ∧
    k.workgroup = 1 ∧ (∃ x ∈ (with_ k).allWgs, x.id = 1) ∧ (with_ k).ownedTiles = [] ∧ leafData.blk = 0 ∧
    SMap.wf {} ((with_ k).getWg 1).tiles = true ∧ SMap.wf 0 (((with_ k).getWg 1).tile 1).data = true ∧
    SMap.wf 0 (((with_ k).getWg 1).tile 1).side = true := by
  decide +kernel

/-- The fault that a copy's access meets, if it leaves the machine as it is. -/
def copyBad (s : State) : CopySpot → Option (Nat × Nat)
  | .bad t c a => if t = s then some (c, a) else none
  | _ => none

set_option synthInstance.maxSize 1000 in
/-- The same, where the next element meets a fault: at its index, at its source, in its bytes and at its destination; and a copy that has
failed. -/
theorem test_witness_copy_faults :
    let g := { job with exts := [1, 2], sstr := [4], dstr := [4], gather := true, idxa := 2 ^ 60 }
    let a := { job with src := 2 ^ 60 }
    let d := { job with dst := 2 ^ 60 }
    let x := { job with failed := some 8, done := some (true, 64) }
    let with_ (j : CopyJob) : State := { base with copies := [j] }
    let l := { job with ssp := 1, src := 64 }
    let p : State := { with_ l with poisoned := [spadAddr 0 64 / 32] }
    copyBad (with_ g) ((with_ g).copySpot g 4 (2 ^ 60) 4 true false) = some (8, 3) ∧ elementIndex g.exts 0 1 = 0 ∧
    copyBad (with_ a) ((with_ a).copySpot a 4 (2 ^ 60) 4 true false) = some (8, 3) ∧ elementAddress a.src 2 a.exts a.sstr 0 = 2 ^ 60 ∧
    copyFound (p.copySpot l 1 64 4 true false) = some (spadAddr 0 64, 0, none) ∧ p.copyFree l (spadAddr 0 64) 4 false = true ∧
    p.isPoisoned (spadAddr 0 64) 4 = true ∧ copyBad (with_ d) ((with_ d).copySpot d 4 (2 ^ 60) 4 false true) = some (8, 3) ∧
    elementAddress d.dst 2 d.exts d.dstr 0 = 2 ^ 60 ∧ (∃ z ∈ (with_ d).gangsOfWg 1, (with_ d).gangOver z.id = false) ∧ job.exts ≠ [] ∧
    (with_ x).copies.find? (fun y => y.id == x.id) = some x ∧ x.landed = false ∧ x.failed = some 8 ∧
    copyFound ((with_ x).copySpot x 1 64 8 true true) = some (spadAddr 0 64, 0, none) ∧ (with_ x).homeHeld x.id (spadAddr 0 64) 8 true = false := by
  decide +kernel

/-- MessagesReachTheirHandlers: a message to a core with room and to one without; the oldest message of a mailbox where a quadrant has
room for its handler, where none has, and where its workgroup does not run. -/
theorem test_witness_handlers :
    let m : Msg := { context := 1, src := 1, dst := 0, workgroup := 1, part := 1, res := 3, handler := 0x40001000, payload := List.replicate 8 7, harvest := false }
    let s : State := { base with messages := [m] }
    let full : State := { s with core := { base.core with mailbox := List.replicate 64 m } }
    let h : State := { base with core := { base.core with mailbox := [m] } }
    let gs : List Gang := [1, 2, 3].map fun q => { id := 1 + q, workgroup := 1, quad := q, vblk := 32 }
    let none_ : State := { h with gang := { base.gang with vblk := 32 }, gangs := gs, parts := [2, 3, 4].map fun n => { part0 with id := n, gang := n } }
    let saved : State := { h with wg := { base.wg with state := .saved } }
    let evicted : State := { h with wg := { base.wg with state := .evicted } }
    s.messages[0]? = some m ∧ (∀ x ∈ s.messages.take 0, ¬(x.src = m.src ∧ x.dst = m.dst)) ∧ (s.getCore m.dst).mailbox.length < 64 ∧
    full.messages[0]? = some m ∧ ¬(full.getCore m.dst).mailbox.length < 64 ∧ (h.getCore 0).mailbox = m :: [] ∧ (h.getWg 1).state = .running ∧
    m.harvest = false ∧ h.handlerQuad (h.getCtx 1) (h.getWg 1) = some 0 ∧ m.payload.length = 8 ∧ (none_.getCore 0).mailbox = m :: [] ∧
    (none_.getWg 1).state = .running ∧ none_.handlerQuad (none_.getCtx 1) (none_.getWg 1) = none ∧ (saved.getCore 0).mailbox = m :: [] ∧
    (saved.getWg 1).state = .saved ∧ (evicted.getCore 0).mailbox = m :: [] ∧ (evicted.getWg 1).state = .evicted := by decide +kernel

/-- Bytes stored piece by piece behind pages of the first GiB, if each can be reached. -/
def storesAt (x : Space) : List (Nat × Nat) → State → List Byte → Option State
  | [], s, _ => some s
  | (va, n) :: rest, s, bs =>
    if found (s.engineSpot x va n false true) = some leafData then storesAt x rest (s.spaceWrite x leafData va (bs.take n)) (bs.drop n) else none

theorem stored_of {x : Space} {ps : List (Nat × Nat)} {s t : State} {bs : List Byte} (h : storesAt x ps s bs = some t) : StoredAt x s ps bs t := by
  induction ps generalizing s bs with
  | nil => cases h; rfl
  | cons p ps ih =>
    simp only [storesAt] at h
    split at h
    · rename_i hf
      exact ⟨leafData, got_of hf, ih h⟩
    · cases h

/-- Bytes fetched piece by piece, the same. -/
def fetchesAt (x : Space) : List (Nat × Nat) → State → Option (State × List Byte)
  | [], s => some (s, [])
  | (va, n) :: rest, s =>
    if found (s.engineSpot x va n true false) = some leafData then
      let r := s.spaceRead x leafData va n
      (fetchesAt x rest r.1).map fun z => (z.1, r.2 ++ z.2)
    else none

theorem fetched_of {x : Space} {ps : List (Nat × Nat)} {s t : State} {bs : List Byte} (h : fetchesAt x ps s = some (t, bs)) :
    FetchedAt x s ps bs t := by
  induction ps generalizing s bs with
  | nil => cases h; exact ⟨rfl, rfl⟩
  | cons p ps ih =>
    simp only [fetchesAt] at h
    split at h
    · rename_i hf
      obtain ⟨⟨t', more⟩, hb, he⟩ := Option.map_eq_some_iff.1 h
      cases he
      exact ⟨leafData, _, more, got_of hf, rfl, rfl, ih hb⟩
    · cases h

/-- HarvestWorkIsEvictedAndRestarts: harvest work on a core that a paddock with two gangs in its quadrant claims, and without the claim. -/
theorem test_witness_eviction :
    let h : Context := { base.ctx with harvest := true }
    let g : Context := { base.ctx with id := 2, seq := 1, placed := 0, ngang := 5, vpro := 16, vfull := 16, claim := [0] }
    let s : State := { base with ctx := h, ctxs := [g] }
    let v : State := { s with wg := { s.wg with state := .saved }, saves := [{ context := 1, pidx := 0, done := false }] }
    s.unmet 0 = true ∧ s.evictNext 0 = some base.wg ∧ base.wg.state ≠ .saved ∧ v.unmet 0 = true ∧ v.evictNext 0 = some v.wg ∧ (∀ p ∈ s.partsOfWg 1, p.inflight = [] ∧ p.serial = false) ∧ (s.allParts.map (·.id)).Nodup ∧
    base.unmet 0 = false := by decide +kernel

/-- The machine with a bale area at 0x600000. -/
def withBale (sp : List Spill) : State := { base with ctx := { base.ctx with harvest := true, baleArea := 0x600000 }, spills := sp }

/-- The same, for the pieces of a bale, its end, and its restart: the bale's one gang had exited. -/
theorem test_witness_bales :
    let s := withBale [{ workgroup := 1, core := 0, left := [(1, none)] }]
    let d := withBale [{ workgroup := 1, core := 0, left := [] }]
    let r : State := poke { withBale [] with wg := { base.wg with state := .evicted }, hedges := [{ n := 1, cores := 1, pool := 0x250000, restarts := [{ workgroup := 1, context := 1, address := 0x600000 }] }] }
      [(0x600008, 2)]
    let p := pieceOf s (s.getWg 1) (1, none)
    let x := (r.getCtx 1).space 0
    (s.spills.find? (fun y => y.workgroup == 1)).map (·.left) = some [(1, none)] ∧
    (storesAt ((s.getCtx (s.getWg 1).context).space (coreDie (s.getWg 1).core)) (pagePieces p.1 p.2.length) s p.2).isSome = true ∧
    (d.spills.find? (fun y => y.workgroup == 1)).map (·.left) = some [] ∧
    (∀ p ∈ d.partsOfWg 1, p.fending = false ∧ p.inflight = [] ∧ p.pending = [] ∧ p.trap = none) ∧
    (r.hedge? 1).map (fun h => (h.restarts, h.coreList)) = some ([{ workgroup := 1, context := 1, address := 0x600000 }], List.range 8) ∧
    (match fetchesAt x (pagePieces 0x600000 512) r with
      | some (s1, rs) =>
        let gs := baleGangs rs 1 0 0
        let want := baleWant (r.getCtx 1) (r.getWg 1) gs
        (fetchesAt x (pagePieces (0x600000 + 512) (4096 * sumOf BaleGang.vblk gs + want.scr)) s1).isSome &&
          ((List.range 8).filter s1.coreEnabled).find? (fun k => !s1.gWaits k && s1.fits k want everyone) == some 0
      | none => false) = true := by
  decide +kernel

/-- PaddocksArePlacedSavedAndRestored: a launch with a paddock to place, none, a saved paddock with and without its save, and a save that is
to be written. -/
theorem test_witness_paddocks :
    let c : Context := { base.ctx with id := 2, seq := 1, placed := 0 }
    let s : State := { base with ctxs := [c] }
    let order (s : State) := (s.candidates 0).foldl (fun a c => insertCtx c a) []
    let v : State := { base with wg := { base.wg with state := .saved, scr := 0 }, gang := { base.gang with vblk := 1 }, saves := [{ context := 1, pidx := 0, done := true }] }
    let w : State := { v with saves := [{ context := 1, pidx := 0, done := false }] }
    (order s).find? (fun c => s.choose c (admitWants c) != .none) = some c ∧ s.restoreFirst 0 c = false ∧ s.choose c (admitWants c) = .on [0] 0 ∧
    c.id ≠ 0 ∧ s.nextId ≠ 0 ∧ (order base).find? (fun c => base.choose c (admitWants c) != .none) = none ∧
    v.chooseSaved { context := 1, pidx := 0, done := true } = .on [0] 0 ∧ w.chooseSaved { context := 1, pidx := 0, done := false } = .none ∧
    v.outranked (v.getCtx 1) = false ∧
    (let o : State := { v with ctxs := [{ c with queue := 1, priority := 1 }] }; o.outranked (o.getCtx 1) = true) ∧
    s.asidFault 0 = none ∧ (let u : State := { s with mem := SMap.put 0 s.mem 0x21002B 0 }; u.asidFault 0 = some 2 ∧ u.restoreFirst 0 c = false ∧
      (order u).find? (fun c => u.choose c (admitWants c) != .none) = some c ∧ u.choose c (admitWants c) = .on [0] 0) ∧
    (let ws := w.savedWgs { context := 1, pidx := 0, done := false }; ws = [w.wg] ∧ w.saveReady ws = true ∧ w.wg.ordered = false ∧ ∀ x ∈ ws, x.state = .saved) ∧
    (let y : State := { w with wg := { w.wg with ordered := true } }; let ws := y.savedWgs { context := 1, pidx := 0, done := false }
     ws = [y.wg] ∧ y.saveReady ws = true ∧ y.wg.state = .saved) := by
  decide +kernel

/-- No queue of such a machine holds a packet. -/
theorem judged_all {s : State} (h : s.queues = [{ handle := 0 }]) (q : Nat) : Judged s q := by
  intro p hp
  simp only [State.getQueue, h, List.find?] at hp
  split at hp <;> simp_all

theorem test_witness_judged : base.queues = [{ handle := 0 }] := rfl

/-- The same, for the writes of a save: one register block. -/
theorem test_witness_save_writes :
    let w : State := { base with ctx := { base.ctx with saveArea := 0x600000 }, wg := { base.wg with state := .saved, scr := 0, ntiles := 0, cim := 0 },
                                 gang := { base.gang with vblk := 1 } }
    let ms := (w.getCore w.wg.core).mailbox.filter fun m => m.workgroup == w.wg.id
    (storesAt ((w.getCtx 1).space 0) ((w.slotParts (w.getCtx 1) w.wg ms).flatMap fun x => pagePieces x.1 x.2) w
      (w.slotBytes (w.getCtx 1) w.wg ms)).isSome = true := by
  decide +kernel

/-- PageFaultsAreNotifiedAndServed: a notification to post, one that has been posted, a full ring; a response, and none. -/
theorem test_witness_page_answers :
    let x : Notification := { hedge := 1, die := 0, asid := 1, page := 0x80000, aux := 1, acc := 1, cores := [0], posted := false }
    let h : Hedge := { n := 1, cores := 1, pool := 0x250000, fring := 0x260000, fresp := 0x270000 }
    let s : State := { base with hedges := [h], notifications := [x] }
    let full := poke s [(0x260000, 16)]
    let r := poke { s with notifications := [{ x with posted := true }] } [(0x270008, 1), (0x270040, 0x80000000), (0x270048, 1)]
    s.notifications[0]? = some x ∧ s.lastRead x.hedge = h ∧ base.lastRead 1 = { n := 1, cores := 1, pool := 0x250000 } ∧
    h.fring ≠ 0 ∧ h.fresp ≠ 0 ∧ ¬h.frsize ≤ s.rd h.fring 8 - s.rd (h.fring + 8) 8 ∧
    h.frsize ≤ full.rd h.fring 8 - full.rd (h.fring + 8) 8 ∧ s.rd (h.fresp + 8) 8 ≤ s.rd h.fresp 8 ∧ r.lastRead 1 = h ∧
    r.rd h.fresp 8 = 0 ∧ r.rd h.fresp 8 < r.rd (h.fresp + 8) 8 ∧
    (let v := r.engineAcquire (r.keyTag 0) (h.fresp + 64) 16
     let u := v.1.wr h.fresp 8 1
     leNat ((v.2.drop 10).take 1) = 0 ∧ leNat ((v.2.drop 11).take 5) = 0 ∧ leNat (v.2.take 8) / 4096 % 2 ^ 45 = 0x80000 ∧
     leNat ((v.2.drop 8).take 2) = 1 ∧ ∃ y ∈ u.notifications, y.asid = 1 ∧ y.page = 0x80000 ∧ y.posted = true ∧ y.hedge = 1) := by decide +kernel

/-- A request of device 7 for four bytes of its window. -/
def peerRead : PeerReq := { device := 7, asid := 2, offset := 0x50007C, size := 4, op := .read, data := [], data2 := [], harvest := false }

/-- PeerRequestsAreServed: a read, a write and an atomic at the end of a line, a request beyond the window, one that is malformed; a request
on a plane that is not its line's, a close query, a page that faults, and a request that has stalled. -/
theorem test_witness_peer_requests :
    let rs : List PeerReq := [peerRead, { peerRead with op := .write, data := [1, 2, 3, 4] }, { peerRead with op := .atomic 0 true, data := [1, 2, 3, 4] }]
    let far : PeerReq := { peerRead with offset := 0x40000000 }
    let s (r : PeerReq) : State := { base with fabric := [{ req := r }] }
    let oneDead : State := { base with dead := [{ peer := 7, plane := peerRead.offset / 128 % 8, remap := some 5 }] }
    let absent := poke base [(0x220008, 0x80000000)]
    let place (s : State) (r : PeerReq) := s.exportPlace (requestAsker r) r.device r.asid r.offset (requestReads r) (requestWrites r)
    (∀ r ∈ rs, Fits base r (spotOf 0x50007C) ∧ Foremost base r ∧ OnOpenPlane base r ∧ Fits (s r) r (spotOf 0x50007C) ∧
      State.lineQueued ((s r).fabric.take 0) r = false ∧ (s r).portFirst r = false) ∧ SMap.wf 0 base.applied = true ∧
    requestOk far = true ∧ Foremost base far ∧ OnOpenPlane base far ∧ (∀ d ∈ base.dead, d.peer ≠ 7) ∧
    oneDead.dead = [{ peer := peerRead.device, plane := peerRead.offset / 128 % 8, remap := some 5 }] ∧ place base far = .fault 8 3 ∧
    requestOk { peerRead with size := 8 } = false ∧ ¬OnOpenPlane base { peerRead with plane := 5 } ∧
    requestOk { peerRead with op := .close 3, plane := 5 } = true ∧ base.closed = [] ∧
    place absent peerRead = .hold ∧ absent.exportMiss 7 2 peerRead.offset = some (1, 1, 0x80500, 1) ∧ OnOpenPlane absent peerRead ∧
    base.criticalHeld = [] ∧ SMap.get 0 base.critical 7 = 0 ∧ base.fabric = [] ∧ SMap.wf 0 base.critical = true := by
  have h : ∀ r ∈ ([peerRead, { peerRead with op := .write, data := [1, 2, 3, 4] }, { peerRead with op := .atomic 0 true, data := [1, 2, 3, 4] }] :
      List PeerReq), ∀ p, r.op ≠ .close p := by
    intro r hr p
    simp only [List.mem_cons, List.not_mem_nil, or_false] at hr
    rcases hr with rfl | rfl | rfl <;> simp [peerRead]
  refine ⟨fun r hr => ?_, ?_⟩
  · have g : ∀ r ∈ ([peerRead, { peerRead with op := .write, data := [1, 2, 3, 4] }, { peerRead with op := .atomic 0 true, data := [1, 2, 3, 4] }] :
        List PeerReq), ∀ s ∈ [base, { base with fabric := [{ req := r }] }], requestOk r = true ∧
        s.exportPlace (requestAsker r) r.device r.asid r.offset (requestReads r) (requestWrites r) = .spot (spotOf 0x50007C) ∧
        s.homeHeld 0 0x50007C r.size (requestWrites r) = false ∧ s.isPoisoned 0x50007C r.size = false ∧ 0x50007C % 128 + r.size ≤ 128 ∧
        Writable s 0x50007C r.size ∧ State.lineQueued (s.fabric.take 0) r = false ∧ s.portFirst r = false ∧ OnOpenPlane s r := by
      unfold Writable CleanCopies OnOpenPlane
      decide +kernel
    obtain ⟨a1, a2, a3, a4, a5, a6, a7, a8, a9⟩ := g r hr base (by simp)
    obtain ⟨b1, b2, b3, b4, b5, b6, b7, b8, -⟩ := g r hr _ (List.mem_cons_of_mem _ List.mem_cons_self)
    exact ⟨⟨a1, h r hr, a2, a3, a4, by decide, a6, fun _ => by decide, a5⟩, ⟨a7, a8⟩, a9,
      ⟨b1, h r hr, b2, b3, b4, by decide, b6, fun _ => by decide, b5⟩, b7, b8⟩
  · unfold Foremost OnOpenPlane
    decide +kernel

/-- PortsPlanesAndDroves: the ports and planes of reset, and the droveway of reset. -/
theorem test_witness_droves :
    (∀ d ∈ base.dead, d.plane < 8) ∧ (∀ d ∈ base.dead, ¬(d.peer = 1023 ∧ d.plane = 7)) ∧
    base.drove.in0 + base.drove.in1 + base.drove.turning = 64 ∧ base.droveFloor true + base.droveFloor false ≤ 64 ∧ base.onPlane 1023 7 (fun _ => true) = [] ∧
    (let s : State := { base with dead := [{ peer := 3, plane := 2, remap := some 5 }] }
     (s.dead.find? fun d => d.peer == 3 && d.plane == 2).bind (·.remap) = some 5 ∧ s.onPlane 3 5 (· == 2) = []) ∧
    ∀ z ∈ base.allParts, ∀ r ∈ z.pending, isHost r.addr = false := by decide +kernel

/-- The same, for an atomic on its way to peer 9 on plane 2: whether the peer had applied it, the spec leaves open. -/
theorem test_witness_lost_atomic :
    let r : Req := { word0 with kind := .atomic 0 false (some 8) 7, addr := peerAddr 9 1 0x100, key := 0 }
    let s := underWay [r] [{ id := 7, waits := 1 }]
    (∀ d ∈ s.dead, ¬(d.peer = 9 ∧ d.plane = 2)) ∧ s.onPlane 9 2 (fun _ => true) = [r] ∧ r.kind = .atomic 0 false (some 8) 7 ∧ (∃ p ∈ s.allParts, p.id = r.part) ∧
    (∃ g ∈ s.gangsOfWg (s.getGang (s.getPart r.part).gang).workgroup, s.gangOver g.id = false) ∧
    (∀ y ∈ (s.getPart r.part).inflight, y.poison = none) ∧ (Config.atomicApplied s.tick r.id = true ∨ Config.atomicApplied s.tick r.id = false) := by
  refine ⟨by decide +kernel, by decide +kernel, rfl, by decide +kernel, by decide +kernel, by decide +kernel, ?_⟩
  cases Config.atomicApplied _ _ <;> simp

/-- The machine with a connection of ASID 1. -/
def connected : State := { base with connections := [{ n := 3, asid := 1 }] }

/-- HostAccessesArePerformed: eight bytes at the end of a page, a page without a leaf, and an operation behind another. -/
theorem test_witness_host_accesses :
    let waiting : State := { connected with hostQueue := [{ connection := 3, address := 0, length := 8, write := false }] }
    (∀ r w : Bool, r || w → HostAt connected 3 0x500FF8 8 r w { spotOf 0x500FF8 with spans := [] }) ∧ Writable connected 0x500FF8 8 ∧ connected.sectors = [] ∧
    0 < (spotOf 0x500FF8).key ∧ 0x500FF8 % 8 = 0 ∧ Connected connected 3 ∧
    connected.hostPlace (connected.connection 3) 0x80000000 8 true false = .refused ∧ (0x500FFC : Nat) % 8 ≠ 0 ∧
    (waiting.connection 3).failed = false ∧ ∃ o ∈ waiting.hostQueue, o.connection = 3 := by
  unfold HostAt Connected Writable CleanCopies
  decide +kernel

/-- The machine with a request at its management endpoint, in session 4. -/
def asked (req : Request) (body : List Byte := []) (finished : Bool := true) (driver : Option Nat := some 4) : State :=
  { base with mgmt := { base.mgmt with
    inbox := [{ session := some 4, request := req, body := body }], sessions := [{ n := 4, finished := finished }], driver := driver
    keys := [{ n := 9, bound := some 4, key := some [1] }, { n := 10, bound := some 5 }, { n := 5, bound := some 4 }]
    running := some 0, floor := 1 } }

/-- SessionsOpenAndClose: each request, a session that has finished its handshake, one that has not, and 255 and 256 sessions. -/
theorem test_witness_sessions :
    let m (r : Request) : MgmtMsg := { session := some 4, request := r }
    let many (n : Nat) : State := { asked .keyExchange with mgmt := { (asked .keyExchange).mgmt with sessions := List.replicate n { n := 4 } } }
    (∀ r f, Asks (asked r [] f) (m r) [] ∧ InSession (asked r [] f) (m r) 4 f) ∧
    (∀ r ∈ [Request.heartbeat, .keyUpdate, .endSession], ∀ k, ¬InSession (asked r [] false) (m r) k true) ∧
    (asked .keyExchange).mgmt.sessions.length < 256 ∧ (many 255).mgmt.sessions.length < 256 ∧ 256 ≤ (many 256).mgmt.sessions.length ∧
    Asks (many 256) (m .keyExchange) [] ∧ ∃ x ∈ (asked .endSession).mgmt.sessions, x.n = 4 := by
  refine ⟨fun _ _ => ⟨⟨by simp [asked, base], rfl⟩, rfl, _, rfl, rfl⟩, ?_, by decide, by decide +kernel, by decide +kernel,
    ⟨by simp [asked, base], rfl⟩, ⟨_, List.mem_cons_self, rfl⟩⟩
  rintro r - k ⟨hk, x, hx, hf⟩
  cases hk
  cases hx
  exact absurd hf (by decide)

/-- VendorRequestsAct: the bodies of each request, with the driver's session and without. An image is valid or not: which, the spec leaves
open. -/
theorem test_witness_vendor_requests :
    let asked (b : List Byte) (op : Nat := 1) (d : Option Nat := some 4) : State := asked (.vendor op b.length) b true d
    let m (op : Nat) (b : List Byte) : MgmtMsg := { session := some 4, request := .vendor op b.length, body := b }
    let index (b : List Byte) (k : Nat) : Prop := leNat (b.take 2) = k ∧ leNat ((b.drop 2).take 2) = 0
    let key (k : Byte) : List Byte := [k, 0, 0, 0] ++ List.replicate 64 7
    (∀ b op d, Asks (asked b op d) (m op b) [] ∧ (asked b op d).boot = .running ∧ InSession (asked b op d) (m op b) 4 true ∧
      (m op b).request = .vendor op (m op b).body.length) ∧
    (asked [] 1 none).mgmt.driver = none ∧ (asked []).mgmt.driver = some 4 ∧ (∀ op ∈ [1, 2, 3, 4, 0x10, 0x11, 0x20, 0x21, 0x30], op ≠ 5) ∧
    index [255, 15, 0, 0, 4, 0, 0, 0] 4095 ∧ leNat (([1, 0, 0, 0, 4, 0, 0, 0] : List Byte).drop 4) = 4 ∧ index (key 9) 9 ∧ (key 9).length = 68 ∧
    (asked []).keyInUse 9 = false ∧ (asked []).keyInUse 5 = true ∧ index [9, 0, 0, 0] 9 ∧
    ((asked []).mgmt.keys.find? fun e => e.n == 9).map (·.bound) = some (some 4) ∧ ((asked []).mgmt.keys.find? fun e => e.n == 10).map (·.bound) = some (some 5) ∧
    leNat (([47, 0, 0, 0] : List Byte).take 1) < 48 ∧ leNat ((([47, 0, 0, 0] : List Byte).drop 1).take 3) = 0 ∧
    SMap.wf 0 (asked []).mgmt.slotB.image = true ∧ (List.replicate 9 (0 : Byte)).length = 9 ∧ (List.replicate 1032 (0 : Byte)).length = 1032 ∧
    SMap.getAll 0 (asked []).mgmt.slotB.image 0 0 = ([] : List Byte) ∧
    (let image : List Byte := SMap.getAll 0 (asked []).mgmt.slotB.image 0 8
     image ≠ [] ∧ ((Config.signatureValid image = true ∧ (asked []).mgmt.floor ≤ Config.imageRollback image) ∨
       Config.signatureValid image = false ∨ Config.imageRollback image < (asked []).mgmt.floor)) := by
  refine ⟨fun _ _ _ => ⟨⟨by simp [asked, base], rfl⟩, rfl, ⟨rfl, _, rfl, rfl⟩, rfl⟩, rfl, rfl, by decide, by decide, by decide, by decide +kernel, by decide +kernel,
    by decide +kernel, by decide +kernel, by decide, by decide, by decide, by decide, by decide, rfl, by simp, List.length_replicate, rfl, by decide, ?_⟩
  cases Config.signatureValid (SMap.getAll 0 (asked (.vendor 1 0)).mgmt.slotB.image 0 8)
  · simp
  · rcases Nat.lt_or_ge (Config.imageRollback (SMap.getAll 0 (asked (.vendor 1 0)).mgmt.slotB.image 0 8)) (asked (.vendor 1 0)).mgmt.floor with h | h
    · exact .inr (.inr h)
    · exact .inl ⟨rfl, h⟩

/-- PowerErrorsAndGating: a device without its supply, a running one; an address of each memory; a report with room and without; a bank that
no hedge holds, a way of an enabled slice, a quadrant of a free core. -/
theorem test_witness_power :
    let off : State := { base with boot := .off }
    let rep : State := { base with mgmt := { base.mgmt with reports := [(1, 1, 1, 1)] } }
    let full := poke rep [(0x230000, 16)]
    off.boot = .off ∧ base.boot ≠ .off ∧ base.boot ≠ .tripped ∧ isHbm 0 = true ∧ isHbm (hbmEnd - 1) = true ∧ isCsp (cspAddr 1 47 0) = true ∧
    isSpad (spadAddr 191 524287) = true ∧ rep.mgmt.reports = (1, 1, 1, 1) :: [] ∧ rep.rd rep.hring 8 - rep.rd (rep.hring + 8) 8 < rep.hrsize ∧
    full.hrsize ≤ full.rd full.hring 8 - full.rd (full.hring + 8) 8 ∧ (∀ h ∈ base.hedges, h.csp1.getLsbD 47 = false) ∧ memoryWf base = true ∧
    (∃ g ∈ base.allGangs, g.id = 1) ∧ (∃ p ∈ base.allParts, p.id = 1) ∧ (∃ w ∈ base.allWgs, w.id = 1) ∧ SMap.wf {} (base.getWg 1).tiles = true ∧
    15 < (base.getWg 1).ntiles ∧ SMap.wf {} (base.getWg 1).banks = true ∧ (base.getWg 1).cim.getLsbD 1 = true ∧ base.ingress = [] ∧
    47 ∈ base.enabledSlices 1 ∧ ∀ h ∈ base.hedges, 191 ∉ h.coreList := by decide +kernel


/-- WaitAndHarvestEventsComplete: the states of the events' own statements, a part that polls, and a bale's piece at its place. -/
theorem test_witness_events_complete :
    let polling := baseWith fun p => { p with state := .polling }
    let s := withBale [{ workgroup := 1, core := 0, left := [(1, none)] }]
    let d := withBale [{ workgroup := 1, core := 0, left := [] }]
    (∃ p ∈ polling.allParts, p.id = 1) ∧ (polling.getPart 1).state = .polling ∧
    (s.spills.find? (fun y => y.workgroup == 1)).map (·.left) = some ((1, none) :: []) ∧
    (s.getCtx 1).baleArea.toNat + 524288 * (s.getWg 1).pidx + 512 * (s.getGang 1).index = 0x600000 ∧ 0x600000 % 4096 + 512 ≤ 4096 ∧
    found (s.engineSpot ((s.getCtx 1).space 0) 0x600000 512 false true) = some leafData ∧
    (∃ h ∈ d.hedges, h.n = (d.getCtx (d.getWg 1).context).hedge) := by decide +kernel

/-- PaddockAndPowerEventsComplete: a saved workgroup of one block, with and without its save, and the device's supply. -/
theorem test_witness_supply_complete :
    let v : State := { base with ctx := { base.ctx with saveArea := 0x600000 }, saves := [{ context := 1, pidx := 0, done := true }]
                                 wg := { base.wg with state := .saved, scr := 0, ntiles := 0, cim := 0 }, gang := { base.gang with vblk := 1 } }
    let sp : SavedPaddock := { context := 1, pidx := 0, done := true }
    let u : State := { v with saves := [{ sp with done := false }] }
    v.wg.ordered = false ∧ base.ingress = [] ∧ v.outranked (v.getCtx 1) = false ∧ v.chooseSaved sp = .on [0] 0 ∧ v.savedMembers sp = [v.wg] ∧
    (fetchesAt ((v.getCtx 1).space 0) ((v.slotParts (v.getCtx 1) v.wg []).flatMap fun x => pagePieces x.1 x.2) v).isSome = true ∧
    u.savedWgs { sp with done := false } = [u.wg] ∧ u.saveReady [u.wg] = true ∧ base.boot = .running ∧ isHbm 0 = true ∧
    0 ∈ base.enabledSlices 0 ∧ (∀ h ∈ base.hedges, h.csp0.getLsbD 0 = false ∧ 191 ∉ h.coreList) := by decide +kernel

end Sys2Proof.Tests
end

namespace Sys2Proof
open Machine

/-! ## The checks of R50, and a gang word's write -/

/-- A word whose checks pass, as the statements say it, has its effect. -/
theorem Ready.checked_eq {i : Instr} {s : State} (h : Ready i s) (k : State → State) : checked i s k = .next (k s) :=
  checked_ready k h.2.1 h.2.2

/-- A gang write and the next word, as the statements say it. -/
theorem setG_advance_eq_wroteGang (s : State) (d : Field) (x : Word64) : (s.setG d.toNat x).advance = wroteGang s d x := by
  unfold State.setG State.advance wroteGang gangWith Part.setG
  split <;> rfl

/-! ## System registers (R22 to R28, R83, R84) -/

/-- XDEPTH.ALT, counted from the innermost level outwards, is the sum over the levels of their bits. -/
theorem altBits_eq_sum (ls : List Level) (k : Nat) :
    ((ls.zipIdx k).map fun x => x.1.alt.toNat * 2 ^ (4 + (k + ls.length - 1 - x.2))).sum = at' 4 (altBits ls) := by
  induction ls generalizing k with
  | nil => rfl
  | cons l ls ih =>
    have hk : k + (ls.length + 1) - 1 - k = ls.length := by omega
    have hs : k + (ls.length + 1) - 1 = k + 1 + ls.length - 1 := by omega
    simp only [List.zipIdx_cons, List.map_cons, List.sum_cons, List.length_cons, hk]
    rw [hs, ih (k + 1)]
    simp only [altBits, at', Nat.pow_add, Nat.add_mul]
    rw [Nat.mul_assoc, Nat.mul_comm (2 ^ 4)]

/-- COREID field by field (R23). -/
theorem coreIdOf_eq (g : Gang) (core : Nat) :
    coreIdOf g core = core / 96 * 2 ^ 15 + core % 96 / 8 * 2 ^ 11 + core % 8 * 2 ^ 8 + core % 96 / 8 / 4 * 2 ^ 6 +
      g.quad * 2 ^ 4 + g.slot * 2 := by
  simp only [coreIdOf, at', coreIdHigh, coreDie, coreCol, coreRow]
  omega

/-- A register's fields are at the places of R23 to R26, FFLAGS being those that the read meets. -/
theorem sysreg_eq_systemRegister (s : State) (n : Nat) (h0 : n ≠ 0) (h : n < 16) :
    s.sysreg n = BitVec.ofNat 64 (systemRegister s s.fflagsSeen n) := by
  have halt := altBits_eq_sum s.me.levels 0
  rw [Nat.zero_add] at halt
  match n, h0, h with
  | 3, _, _ => exact congrArg (BitVec.ofNat 64) (coreIdOf_eq s.gang s.wg.core)
  | 6, _, _ => exact congrArg (fun x => BitVec.ofNat 64 (x + s.me.levels.length)) halt.symm
  | 9, _, _ => exact (BitVec.ofNat_toNat ..).symm
  | 10, _, _ => exact (BitVec.ofNat_toNat ..).symm
  | 1, _, _ | 2, _, _ | 4, _, _ | 5, _, _ | 7, _, _ | 8, _, _ | 11, _, _ | 12, _, _ | 13, _, _ | 14, _, _ | 15, _, _ => rfl
  | n + 16, _, h => exact absurd h (by omega)

/-- The bits of one set are among those of another. -/
theorem and_eq_left_iff {n : Nat} (a b : BitVec n) : a &&& b = a ↔ ∀ i, a.getLsbD i = true → b.getLsbD i = true := by
  constructor
  · intro h i ha
    rw [← h, BitVec.getLsbD_and, Bool.and_eq_true] at ha
    exact ha.2
  · intro h
    refine BitVec.eq_of_getLsbD_eq fun i _ => ?_
    rw [BitVec.getLsbD_and, Bool.and_eq_left_iff_imp]
    exact h i

/-- Flags gathered from some of the results in flight hold what was there first, and nothing that all of them do not (R27). -/
theorem flags_gathered_between (seen : Nat → Bool) (rs : List LaneResult) (k : Nat) (a b : BitVec 6) (hab : a &&& b = a) :
    let met := (rs.zipIdx k).foldl (fun a (r, i) => if seen i then a ||| r.flags else a) a
    a &&& met = a ∧ met &&& rs.foldl (fun a r => a ||| r.flags) b = met := by
  induction rs generalizing k a b with
  | nil => exact ⟨BitVec.and_self, hab⟩
  | cons r rs ih =>
    rw [and_eq_left_iff] at hab
    let a' := if seen k then a ||| r.flags else a
    have grown : ∀ i, a.getLsbD i = true → a'.getLsbD i = true := by
      intro i h; by_cases hk : seen k <;> simp [a', hk, h]
    have within : a' &&& (b ||| r.flags) = a' := (and_eq_left_iff _ _).2 fun i h => by
      rw [BitVec.getLsbD_or, Bool.or_eq_true]
      by_cases hk : seen k <;> simp only [a', hk, if_true, if_false, BitVec.getLsbD_or, Bool.or_eq_true, Bool.false_eq_true] at h
      · exact h.imp_left (hab i)
      · exact .inl (hab i h)
    obtain ⟨low, high⟩ := ih (k + 1) a' (b ||| r.flags) within
    exact ⟨(and_eq_left_iff _ _).2 fun i h => (and_eq_left_iff _ _).1 low i (grown i h), high⟩

theorem sreadWritesTheRegistersValue : Claims.SreadWritesTheRegistersValue := by
  intro o s hr h0 h16
  have ha : o.a ≠ 0 := fun h => h0 (by rw [h]; rfl)
  have run : exec (.sread o) s = .next ((s.setG o.d.toNat (s.sysreg o.a.toNat)).advance) := by
    show execSread o s = _
    rw [execSread, plain, hr.checked_eq, if_neg ha]
  refine ⟨s.fflagsSeen, ?_, flags_gathered_between _ _ 0 _ _ BitVec.and_self⟩
  rw [run, setG_advance_eq_wroteGang, sysreg_eq_systemRegister s _ h0 h16]

/-- A register pair's lane result, as the statements say it (R14, R47). -/
theorem putVP_eq_inFlight (s : State) (d : Field) (ls : List Nat) (f : Nat → Word64 × BitVec 6) :
    s.putVP d.toNat ls f = inFlight s ls (.pair d f) := by
  rw [Machine.putVP_eq]
  have hw : (writesVP d.toNat ls fun l => (f l).1) = ls.flatMap fun l =>
      [(32 * d.toNat + l, BitVec.ofNat 32 (f l).1.toNat), (32 * (d.toNat + 1) + l, BitVec.ofNat 32 ((f l).1.toNat / 2 ^ 32))] := by
    unfold writesVP
    congr 1
    funext l
    have hi : ((f l).1 >>> 32).truncate 32 = BitVec.ofNat 32 ((f l).1.toNat / 2 ^ 32) := by
      apply BitVec.eq_of_toNat_eq
      simp [Nat.shiftRight_eq_div_pow]
    rw [hi]
    rfl
  rw [hw]
  rfl

theorem sreadOfWidNumbersTheLanes : Claims.SreadOfWidNumbersTheLanes := by
  intro o s hr h0
  have ha : o.a = 0 := BitVec.eq_of_toNat_eq h0
  show execSread o s = _
  rw [execSread, plain, hr.checked_eq, if_pos ha, putVP_eq_inFlight]

/-- Settles O33: each register's value is the model's, field by field; WID is a lane result. -/
theorem systemRegistersAreRead : Obligations.SystemRegistersAreRead :=
  ⟨sreadWritesTheRegistersValue, sreadOfWidNumbersTheLanes⟩

/-- The two conditions on what TRAPVEC takes, as the model tests them (R26). -/
theorem trapvec_test (x : Nat) : (decide (x < 2 ^ 57) && decide (bits x 2 1 = 0)) = true ↔ x < 2 ^ 57 ∧ x / 2 % 4 = 0 := by
  simp [bits]

theorem swriteSetsTheRegister : Claims.SwriteSetsTheRegister := by
  intro o s x
  refine ⟨fun hr hx => ?_, fun hr hx => ?_, fun hr hx hz => ?_, fun hr hx => ?_, fun s1 hr hlo hhi hg => ?_⟩
  · show execSwriteFflags o s = _
    rw [execSwriteFflags, plain, hr.checked_eq]
    exact congrArg _ (if_pos hx)
  · show execSwriteFmode o s = _
    rw [execSwriteFmode, plain, hr.checked_eq]
    exact congrArg _ (if_pos hx)
  · have odd : (s.rg o.a.toNat).getLsbD 0 = decide (x % 2 = 1) := by simp [BitVec.getLsbD, Nat.testBit_zero, x]
    show execSwriteTrapvec o s = _
    rw [execSwriteTrapvec, plain, hr.checked_eq, ← odd]
    exact congrArg _ (if_pos ((trapvec_test x).2 ⟨hx, hz⟩))
  · show execSwritePrivhwm o s = _
    rw [execSwritePrivhwm, plain, hr.checked_eq]
    exact congrArg _ (if_pos hx)
  · show execSwritePrivhwm o s = _
    rw [execSwritePrivhwm, plain, hr.checked_eq]
    refine congrArg _ ((if_neg (Nat.not_le.2 hlo)).trans ((if_neg (Nat.not_lt.2 hhi)).trans ?_))
    rw [hg]
    rfl

theorem illegalRegisterWritesTrap : Claims.IllegalRegisterWritesTrap := by
  intro o op s x illegal
  refine ⟨fun hr ho => ?_, fun hid ho => ?_, fun hid => ?_, fun hr hx => ?_, fun hr hx => ?_, fun hr hx => ?_,
    fun hr hlo hhi => ?_⟩
  · show execSwriteReadOnly o s = _
    rw [execSwriteReadOnly, if_pos ho, plain, hr.checked_eq]
  · show execSwriteReadOnly o s = _
    rw [execSwriteReadOnly, if_neg (Nat.not_lt.2 ho), if_neg hid]
  · show execUnassignedOpcode op s = _
    rw [execUnassignedOpcode, if_neg hid]
  · show execSwriteFflags o s = _
    rw [execSwriteFflags, plain, hr.checked_eq]
    exact congrArg _ (if_neg (Nat.not_lt.2 hx))
  · show execSwriteFmode o s = _
    rw [execSwriteFmode, plain, hr.checked_eq]
    exact congrArg _ (if_neg (Nat.not_lt.2 hx))
  · have bad : ¬(x < 2 ^ 57 ∧ x / 2 % 4 = 0) := fun ⟨hlt, hz⟩ => hx.elim (Nat.not_le.2 hlt) (· hz)
    show execSwriteTrapvec o s = _
    rw [execSwriteTrapvec, plain, hr.checked_eq]
    exact congrArg _ (if_neg (mt (trapvec_test x).1 bad))
  · show execSwritePrivhwm o s = _
    rw [execSwritePrivhwm, plain, hr.checked_eq]
    exact congrArg _ ((if_neg (Nat.not_le.2 hlo)).trans (if_pos hhi))

/-- Settles O34: each write acts when its checks pass, and each fault has its trap. -/
theorem systemRegistersAreWritten : Obligations.SystemRegistersAreWritten :=
  ⟨swriteSetsTheRegister, illegalRegisterWritesTrap⟩

end Sys2Proof

namespace Sys2Proof
open Machine

/-! ## Masks of lanes and slices -/

/-- A sum of distinct powers of two has the bits that were chosen. -/
theorem testBit_sum_two_pow (p : Nat → Bool) (n : Nat) :
    let x := (List.range n).foldl (fun a l => if p l then a + 2 ^ l else a) 0
    x < 2 ^ n ∧ ∀ i, x.testBit i = (decide (i < n) && p i) := by
  induction n with
  | zero => simp
  | succ n ih =>
    obtain ⟨small, bit⟩ := ih
    simp only [List.range_succ, List.foldl_append, List.foldl_cons, List.foldl_nil]
    generalize (List.range n).foldl (fun a l => if p l then a + 2 ^ l else a) 0 = x at small bit
    have high : ∀ i, (i < n + 1 ↔ i < n ∨ i = n) := fun i => by omega
    cases hp : p n
    · refine ⟨by rw [if_neg (by simp)]; exact Nat.lt_trans small (Nat.pow_lt_pow_right (by omega) (by omega)), fun i => ?_⟩
      rw [if_neg (by simp), bit i]
      by_cases hi : i = n
      · simp [hi, hp]
      · simp [high, hi]
    · refine ⟨by rw [if_pos rfl, Nat.pow_succ]; omega, fun i => ?_⟩
      rw [if_pos rfl, Nat.add_comm]
      rcases Nat.lt_trichotomy i n with hi | hi | hi
      · rw [Nat.testBit_two_pow_add_gt hi, bit i]
        simp [hi, Nat.lt_succ_of_lt hi]
      · rw [hi, Nat.testBit_two_pow_add_eq, bit n]
        simp [hp]
      · rw [Nat.testBit_lt_two_pow (i := i)]
        · simp; omega
        · calc 2 ^ n + x < 2 ^ (n + 1) := by rw [Nat.pow_succ]; omega
            _ ≤ 2 ^ i := Nat.pow_le_pow_right (by omega) hi

@[simp] theorem getLsbD_maskOf (p : Nat → Bool) (l : Nat) : (maskOf p).getLsbD l = (decide (l < 32) && p l) := by
  rw [maskOf, BitVec.getLsbD_ofNat, (testBit_sum_two_pow p 32).2]
  by_cases h : l < 32 <;> simp [h]

@[simp] theorem getLsbD_maskOfList (ls : List Nat) (l : Nat) : (maskOfList ls).getLsbD l = (decide (l < 32) && ls.contains l) :=
  getLsbD_maskOf _ l

/-- The mask of some of a part's slices. -/
theorem getLsbD_sliceMask_filter (p : Part) (q : Nat → Bool) (i : Nat) :
    (sliceMask (p.sliceList.filter q)).getLsbD i = (p.slices.getLsbD i && q i) := by
  rw [Part.sliceList, List.filter_filter, sliceMask, List.foldl_filter, BitVec.getLsbD_ofNat, (testBit_sum_two_pow _ 8).2]
  by_cases h : i < 8
  · simp [h, Bool.and_comm]
  · simp [h, BitVec.getLsbD_of_ge p.slices i (by omega)]

theorem mem_sliceLanes {l i : Nat} : l ∈ sliceLanes i ↔ l / 4 = i := by
  simp only [sliceLanes, List.mem_map, List.mem_range]
  constructor
  · rintro ⟨k, hk, rfl⟩
    omega
  · intro h
    exact ⟨l % 4, by omega, by omega⟩

/-! ## Branches (R69, R70, R75) -/

/-- BR, or CALL at a depth that lets it push (R75, R76); `push` says which. -/
def Branches (i : Instr) (o : FB) (s : State) (push : Bool) : Prop :=
  (i = .br o ∧ push = false) ∨ (i = .call o ∧ push = true ∧ s.me.stack.length < 255)

/-- The target of a B word, as the statements say it (R37). -/
theorem target_eq_targetOf (s : State) (o : FB) : s.target o = targetOf s o := by
  unfold State.target targetOf BitVec.signExtend
  rw [BitVec.ofInt_add, BitVec.ofInt_mul, BitVec.ofInt_natCast, BitVec.ofNat_toNat, BitVec.setWidth_eq]
  rfl

/-- What a branch does: a disagreeing slice traps DIVERGE, and otherwise each slice goes its way. -/
theorem exec_of_branches {i : Instr} {o : FB} {s : State} {push : Bool} (h : Branches i o s push) (hr : Ready i s) :
    exec i s = .next (if (s.decide o).2 ≠ 0 then s.raise { code := 6, lanes := (s.decide o).2 }
      else s.branch (s.decide o).1 (targetOf s o) push) := by
  rw [← target_eq_targetOf]
  rcases h with ⟨rfl, rfl⟩ | ⟨rfl, rfl, hd⟩
  · show execBr o s = _
    rw [execBr, plain, hr.checked_eq]
  · show execCall o s = _
    rw [execCall, plain, hr.checked_eq]
    exact congrArg _ (if_neg (Nat.ne_of_lt hd))

/-- Q of a conditional branch is one of the three codes of R69. -/
theorem mode_of_ready {i : Instr} {o : FB} {s : State} (h : i = .br o ∨ i = .call o) (hr : Ready i s)
    (hg : o.guard.ge = true) : o.q.toNat % 4 ≠ 3 := by
  have hf : o.branchFaults = [] := by
    have := hr.1
    rcases h with rfl | rfl <;> exact List.isEmpty_iff.1 this
  simp only [FB.branchFaults, List.append_eq_nil_iff, need, hg, if_true, ite_eq_left_iff] at hf
  intro h3
  simp [h3] at hf

/-- Two lanes of a slice disagree where one of its lanes has the condition and not all have. -/
theorem any_and_not_all_sliceLanes (c : Nat → Bool) (i : Nat) :
    ((sliceLanes i).any c && !(sliceLanes i).all c) = true ↔ ∃ l k, l / 4 = i ∧ k / 4 = i ∧ c l ≠ c k := by
  simp only [Bool.and_eq_true, List.any_eq_true, Bool.not_eq_true', List.all_eq_false, mem_sliceLanes]
  constructor
  · rintro ⟨⟨l, hl, cl⟩, k, hk, ck⟩
    exact ⟨l, k, hl, hk, fun e => ck (e ▸ cl)⟩
  · rintro ⟨l, k, hl, hk, ne⟩
    cases hc : c l
    · exact ⟨⟨k, hk, by simpa [hc] using ne⟩, l, hl, by simp [hc]⟩
    · exact ⟨⟨l, hl, hc⟩, k, hk, by simpa [hc] using ne⟩

/-- Slices that are there on a condition. -/
theorem getLsbD_if_zero {n : Nat} (p : Prop) [Decidable p] (b : BitVec n) (k : Nat) :
    (if p then b else 0#n).getLsbD k = true ↔ b.getLsbD k = true ∧ p := by
  by_cases h : p <;> simp [h]

/-- The slices that take a branch, and the lanes of those that disagree, bit by bit (R69). -/
theorem decide_spec {i : Instr} {o : FB} {s : State} (h : i = .br o ∨ i = .call o) (hr : Ready i s) :
    (∀ k, (s.decide o).1.getLsbD k = true ↔ s.me.slices.getLsbD k = true ∧ takes s o k) ∧
    ∀ l, (s.decide o).2.getLsbD l = true ↔ l < 32 ∧ Disagrees s o (l / 4) := by
  have mode := mode_of_ready h hr
  unfold State.decide takes Disagrees
  cases hg : o.guard.ge
  · simp
  · have codes : o.q.toNat % 4 = 0 ∨ o.q.toNat % 4 = 1 ∨ o.q.toNat % 4 = 2 := by
      have := mode hg
      omega
    rcases codes with hq | hq | hq
    · simp only [hq, Bool.not_true, Bool.false_eq_true, if_false, true_and, getLsbD_sliceMask_filter, Bool.and_eq_true,
        List.all_eq_true, mem_sliceLanes, State.cond, bne_iff_ne, getLsbD_maskOfList, decide_eq_true_eq, List.contains_iff_mem,
        List.mem_flatMap, List.mem_filter, reduceCtorEq, implies_true]
      refine fun l => and_congr_right fun hl => ?_
      constructor
      · rintro ⟨k, ⟨hk, bad⟩, rfl⟩
        exact ⟨(List.mem_filter.1 hk).2, (any_and_not_all_sliceLanes _ _).1 (Bool.and_eq_true _ _ ▸ bad)⟩
      · rintro ⟨present, bad⟩
        refine ⟨l / 4, ⟨List.mem_filter.2 ⟨List.mem_range.2 (by omega), present⟩, ?_⟩, rfl⟩
        exact (Bool.and_eq_true _ _).symm ▸ (any_and_not_all_sliceLanes _ _).2 bad
    all_goals simp [hq, State.cond, getLsbD_if_zero]

theorem eq_zero_of_no_bit {n : Nat} {b : BitVec n} (h : ∀ k, ¬b.getLsbD k = true) : b = 0 :=
  BitVec.eq_of_getLsbD_eq fun k _ => (Bool.eq_false_iff.2 (h k)).trans BitVec.getLsbD_zero.symm

/-- Slices that agree let the branch go its way. -/
theorem decide_of_agreeing {i : Instr} {o : FB} {s : State} (h : i = .br o ∨ i = .call o) (hr : Ready i s)
    (agree : ∀ k, ¬Disagrees s o k) : (s.decide o).2 = 0 :=
  eq_zero_of_no_bit fun l hl => agree _ (((decide_spec h hr).2 l).1 hl).2

theorem Branches.word {i : Instr} {o : FB} {s : State} {push : Bool} (h : Branches i o s push) : i = .br o ∨ i = .call o :=
  h.imp And.left And.left

/-- A branch whose slices agree sends each its way. -/
theorem exec_of_agreeing {i : Instr} {o : FB} {s : State} {push : Bool} (h : Branches i o s push) (hr : Ready i s)
    (agree : ∀ k, ¬Disagrees s o k) : exec i s = .next (s.branch (s.decide o).1 (targetOf s o) push) := by
  rw [exec_of_branches h hr, if_neg fun ne => ne (decide_of_agreeing h.word hr agree)]

/-! ## Where the slices go -/

/-- The return stack of the slices that take a branch. -/
def pushed (s : State) (push : Bool) : List Frame := if push then .ret (s.me.pc + 8) :: s.me.stack else s.me.stack

theorem branch_all (s : State) (target : Word64) (push : Bool) :
    s.branch s.me.slices target push = movedTo s target (pushed s push) := by
  have nobody : s.me.slices &&& ~~~s.me.slices = 0 := BitVec.and_not_self _
  unfold State.branch
  simp only [nobody, if_true]
  rfl

theorem branch_none (s : State) (target : Word64) (push : Bool) (h : s.me.slices ≠ 0) : s.branch 0 target push = wentOn s := by
  have all : s.me.slices &&& ~~~(0 : BitVec 8) = s.me.slices := BitVec.and_allOnes
  unfold State.branch
  simp only [all, if_neg h, if_true]
  rfl

/-- The shares of a split in the order of their lowest slices. -/
def shares (a b : Split) : Split × Split := if lowestSlice a.slices < lowestSlice b.slices then (a, b) else (b, a)

theorem branch_some (s : State) (yes : BitVec 8) (target : Word64) (push : Bool) (hy : yes ≠ 0)
    (hn : s.me.slices &&& ~~~yes ≠ 0) :
    let x := shares { slices := yes, pc := target, stack := pushed s push }
      { slices := s.me.slices &&& ~~~yes, pc := s.me.pc + 8, stack := s.me.stack }
    s.branch yes target push = s.scatter [x.1, x.2] := by
  unfold State.branch shares
  simp only [if_neg hn, if_neg hy]
  split <;> rfl

/-- Where no part may split, two ways are a trap (R71, R336). -/
theorem scatter_two_barred (s : State) (x y : Split)
    (h : s.me.levels ≠ [] ∨ s.me.inFurrow = true ∨ s.ctx.harvest = true) : s.scatter [x, y] = s.trapAux 6 1 := by
  refine if_pos ?_
  simpa [or_assoc] using h

/-- Two ways of a settled part make two parts (R70). -/
theorem scatter_two_settled (s : State) (x y : Split) (hl : s.me.levels = []) (hf : s.me.inFurrow = false)
    (hh : s.ctx.harvest = false) (hs : s.me.settled = true) :
    s.scatter [x, y] = { s with me := s.me.share s.me.id true x, parts := s.parts ++ [s.me.share s.nextId false y],
                                nextId := s.nextId + 1 } := by
  simp [State.scatter, State.splitInto, hl, hf, hh, hs]

theorem uniformBranchesGoOneWay : Claims.UniformBranchesGoOneWay := by
  intro o s present agree all no
  have taken {i : Instr} (h : i = .br o ∨ i = .call o) (hr : Ready i s) (ha : all) : (s.decide o).1 = s.me.slices := by
    refine BitVec.eq_of_getLsbD_eq fun k _ => Bool.eq_iff_iff.2 (((decide_spec h hr).1 k).trans ?_)
    exact and_iff_left_of_imp (ha k)
  have left {i : Instr} (h : i = .br o ∨ i = .call o) (hr : Ready i s) (hn : no) : (s.decide o).1 = 0 := by
    refine eq_zero_of_no_bit fun k hk => ?_
    obtain ⟨here, goes⟩ := ((decide_spec h hr).1 k).1 hk
    exact hn k here goes
  have br : Branches (.br o) o s false := .inl ⟨rfl, rfl⟩
  have call (hd : s.me.stack.length < 255) : Branches (.call o) o s true := .inr ⟨rfl, rfl, hd⟩
  refine ⟨fun hr ha => ?_, fun hr hn => ?_, fun hr ha hd => ?_, fun hr hn hd => ?_, fun hr hd => ?_⟩
  · rw [exec_of_agreeing br hr agree, taken br.word hr ha, branch_all]
    rfl
  · rw [exec_of_agreeing br hr agree, left br.word hr hn, branch_none _ _ _ present]
  · rw [exec_of_agreeing (call hd) hr agree, taken (call hd).word hr ha, branch_all]
    rfl
  · rw [exec_of_agreeing (call hd) hr agree, left (call hd).word hr hn, branch_none _ _ _ present]
  · show execCall o s = _
    rw [execCall, plain, hr.checked_eq]
    exact congrArg _ (if_pos hd)

theorem splitBranchesMakeTwoParts : Claims.SplitBranchesMakeTwoParts := by
  intro o s yes no i stack word hr agree hyes hno hy hn
  obtain ⟨push, branches, hstack⟩ : ∃ push, Branches i o s push ∧ stack = pushed s push := by
    rcases word with ⟨hi, hst⟩ | ⟨hi, hst, hd⟩
    · exact ⟨false, .inl ⟨hi, rfl⟩, hst⟩
    · exact ⟨true, .inr ⟨hi, rfl, hd⟩, hst⟩
  have take : (s.decide o).1 = yes := BitVec.eq_of_getLsbD_eq fun k _ =>
    Bool.eq_iff_iff.2 (((decide_spec branches.word hr).1 k).trans (hyes k).symm)
  subst hstack hno
  rw [exec_of_agreeing branches hr agree, take, branch_some s yes _ push hy hn]
  refine ⟨fun hl hf hh hs => ?_, fun h => congrArg _ (scatter_two_barred _ _ _ h)⟩
  rw [scatter_two_settled _ _ _ hl hf hh hs]
  rfl

theorem disagreeingSlicesDiverge : Claims.DisagreeingSlicesDiverge := by
  rintro o s i word hr ⟨k, hk⟩
  have branches : ∃ push, Branches i o s push :=
    word.elim (fun h => ⟨false, .inl ⟨h, rfl⟩⟩) fun h => ⟨true, .inr ⟨h.1, rfl, h.2⟩⟩
  obtain ⟨push, branches⟩ := branches
  have bits := (decide_spec branches.word hr).2
  have low : k < 8 := by
    obtain ⟨-, -, here, -⟩ := hk
    exact Nat.lt_of_not_le fun h => by simp [BitVec.getLsbD_of_ge s.me.slices k h] at here
  have bad : (s.decide o).2 ≠ 0 := fun h => by
    have := (bits (4 * k)).2 ⟨by omega, by rwa [Nat.mul_div_cancel_left k (by omega)]⟩
    simp [h] at this
  refine ⟨(s.decide o).2, ?_, fun l hl => (bits l).trans (and_iff_right hl)⟩
  rw [exec_of_branches branches hr, if_pos bad]

/-- Settles O35: by the slices that take the branch and the lanes that disagree, which `decide_spec` gives bit by bit. -/
theorem branchesGoOneWaySplitOrDiverge : Obligations.BranchesGoOneWaySplitOrDiverge :=
  ⟨uniformBranchesGoOneWay, splitBranchesMakeTwoParts, disagreeingSlicesDiverge⟩

end Sys2Proof

namespace Sys2Proof
open Machine

/-! ## The values of a floating format (R289, R290) -/

/-- The exponent of the least significant bit of a subnormal value. -/
def Machine.FFmt.low (f : FFmt) : Int := f.emin - f.mb

/-- Two to a power. -/
def pw (e : Int) : Rat := (2 : Rat) ^ e

theorem pw_pos (e : Int) : 0 < pw e := Rat.zpow_pos (by decide)

theorem pw_succ (e : Int) : pw (e + 1) = 2 * pw e := (Rat.zpow_add_one (by decide) e).trans (Rat.mul_comm ..)

theorem pw_add_nat (e : Int) (n : Nat) : pw (e + n) = (2 ^ n : Nat) * pw e := by
  induction n with
  | zero => exact (congrArg pw (Int.add_zero e)).trans (Rat.one_mul _).symm
  | succ n ih =>
    rw [show e + ((n + 1 : Nat) : Int) = e + n + 1 by omega, pw_succ, ih, Nat.pow_succ, Nat.mul_comm, Rat.natCast_mul,
      Rat.mul_assoc]
    rfl

theorem pw_le {a b : Int} (h : a ≤ b) : pw a ≤ pw b := by
  obtain ⟨n, rfl⟩ := Int.le.dest h
  have one : (1 : Rat) ≤ (2 ^ n : Nat) := Rat.natCast_le_natCast.2 (Nat.two_pow_pos n)
  calc pw a = 1 * pw a := (Rat.one_mul _).symm
    _ ≤ (2 ^ n : Nat) * pw a := Rat.mul_le_mul_of_nonneg_right one (Rat.le_of_lt (pw_pos a))
    _ = pw (a + n) := (pw_add_nat a n).symm

/-- Whole multiples of a power of two are ordered as their counts. -/
theorem count_le_count {a b : Nat} (h : a ≤ b) (q : Int) : (a : Rat) * pw q ≤ b * pw q :=
  Rat.mul_le_mul_of_nonneg_right (Rat.natCast_le_natCast.2 h) (Rat.le_of_lt (pw_pos q))

theorem mul_inj_of_pos {a b c : Rat} (hc : 0 < c) : a * c = b * c ↔ a = b :=
  ⟨fun h => Rat.le_antisymm (Rat.le_of_mul_le_mul_right (h ▸ Rat.le_refl) hc)
    (Rat.le_of_mul_le_mul_right (h ▸ Rat.le_refl) hc), fun h => h ▸ rfl⟩

theorem abs_mul_of_pos (a : Rat) {c : Rat} (hc : 0 < c) : (a * c).abs = a.abs * c := by
  have nonneg := Rat.le_of_lt hc
  rcases Rat.le_total (a := 0) (b := a) with h | h
  · rw [Rat.abs_of_nonneg h, Rat.abs_of_nonneg (Rat.mul_nonneg h nonneg)]
  · have below : a * c ≤ 0 := Rat.zero_mul c ▸ Rat.mul_le_mul_of_nonneg_right h nonneg
    rw [Rat.abs_of_nonpos h, Rat.abs_of_nonpos below, Rat.neg_mul]

/-- The sign of a floating value. -/
def sgn (neg : Bool) : Rat := if neg then -1 else 1

theorem sgn_false_mul (x : Rat) : sgn false * x = x := Rat.one_mul x

theorem sgn_true_mul (x : Rat) : sgn true * x = -x := (Rat.neg_mul 1 x).trans (congrArg _ (Rat.one_mul x))

theorem ratOf_eq (neg : Bool) (m : Nat) (e : Int) : ratOf neg m e = sgn neg * (m * pw e) := Rat.mul_assoc ..

theorem abs_sgn_mul (neg : Bool) (x : Rat) : (sgn neg * x).abs = x.abs := by
  cases neg
  · rw [sgn_false_mul]
  · rw [sgn_true_mul, Rat.abs_neg]

theorem sgn_mul_self (neg : Bool) (x : Rat) : sgn neg * (sgn neg * x) = x := by
  cases neg
  · rw [sgn_false_mul, sgn_false_mul]
  · rw [sgn_true_mul, sgn_true_mul, Rat.neg_neg]

theorem sgn_mul_inj (neg : Bool) {x y : Rat} : sgn neg * x = sgn neg * y ↔ x = y :=
  ⟨fun h => by rw [← sgn_mul_self neg x, h, sgn_mul_self], fun h => h ▸ rfl⟩

/-- A finite value has at most mb + 1 significant bits, none of them below the lowest. -/
theorem decode_fin_bounds {f : FFmt} {k : Nat} {neg : Bool} {m : Nat} {e : Int} (h : f.decode k = .fin neg m e) :
    m < 2 ^ (f.mb + 1) ∧ f.low ≤ e := by
  have hm : k % 2 ^ f.mb < 2 ^ f.mb := Nat.mod_lt _ (Nat.two_pow_pos _)
  unfold FFmt.decode at h
  dsimp only at h
  split at h
  · split at h <;> cases h
  · split at h
    · cases h
    · split at h
      · cases h
        exact ⟨by rw [Nat.pow_succ]; omega, Int.le_refl _⟩
      · cases h
        refine ⟨by rw [Nat.pow_succ]; omega, ?_⟩
        unfold FFmt.low FFmt.emin
        omega

/-- An encoding with its sign bit. -/
def Machine.FFmt.signed (f : FFmt) (neg : Bool) (n : Nat) : Nat := if neg then n + 2 ^ f.width else n

/-- The fields of a signed encoding: mantissa, exponent and sign (R289). -/
theorem signed_fields (f : FFmt) (neg : Bool) {n : Nat} (h : n < 2 ^ f.width) :
    f.signed neg n % 2 ^ f.mb = n % 2 ^ f.mb ∧ f.signed neg n / 2 ^ f.mb % 2 ^ f.eb = n / 2 ^ f.mb ∧
    (f.signed neg n / 2 ^ f.width % 2 == 1) = neg := by
  have hw : 2 ^ f.width = 2 ^ f.mb * 2 ^ f.eb := by rw [FFmt.width, Nat.pow_add]
  have he : n / 2 ^ f.mb < 2 ^ f.eb := Nat.div_lt_of_lt_mul (hw ▸ h)
  cases neg
  · have sign : n / 2 ^ f.width = 0 := Nat.div_eq_of_lt h
    exact ⟨rfl, Nat.mod_eq_of_lt he, congrArg (· % 2 == 1) sign⟩
  · have signed : f.signed true n = n + 2 ^ f.width := rfl
    have sign : (n + 2 ^ f.width) / 2 ^ f.width = 1 := by
      rw [Nat.add_div_right _ (Nat.two_pow_pos f.width), Nat.div_eq_of_lt h]
    rw [signed, sign, hw, Nat.add_mul_mod_self_left, Nat.add_mul_div_left _ _ (Nat.two_pow_pos f.mb), Nat.add_mod_right]
    exact ⟨rfl, Nat.mod_eq_of_lt he, rfl⟩

/-- An encoding up to the greatest finite one is neither an infinity nor a NaN. -/
theorem finite_of_le_maxEnc {f : FFmt} (hf : f ∈ floatFormats) {n : Nat} (h : n ≤ f.maxEnc) :
    n < 2 ^ f.width ∧ (f.ieee && n / 2 ^ f.mb == 2 ^ f.eb - 1) = false ∧
    (f.mb == 3 && !f.ieee && n / 2 ^ f.mb == 15 && n % 2 ^ f.mb == 7) = false := by
  simp only [floatFormats, List.mem_cons, List.not_mem_nil, or_false] at hf
  rcases hf with rfl | rfl | rfl | rfl | rfl | rfl <;>
    simp [FFmt.maxEnc, FFmt.width, fmt32, fmt16, fmtB16, fmtE5M2, fmtE4M3, fmtF4] at h ⊢ <;> omega

/-- What an encoding up to the greatest finite one stands for (R290). -/
theorem decode_signed {f : FFmt} (hf : f ∈ floatFormats) (neg : Bool) {n : Nat} (h : n ≤ f.maxEnc) :
    f.decode (f.signed neg n) = if n / 2 ^ f.mb = 0 then .fin neg (n % 2 ^ f.mb) (1 - (f.bias : Int) - f.mb)
      else .fin neg (2 ^ f.mb + n % 2 ^ f.mb) ((n / 2 ^ f.mb : Nat) - (f.bias : Int) - f.mb) := by
  obtain ⟨hn, notInf, notNan⟩ := finite_of_le_maxEnc hf h
  obtain ⟨mant, expo, sign⟩ := signed_fields f neg hn
  simp only [FFmt.decode, mant, expo, sign, notInf, notNan, Bool.false_eq_true, if_false]

/-! ## One rounding (R26, R293) -/

/-- The greater of two neighbours d and d + 1 is taken for d + r (R26). -/
def goesUp (rm : Nat) (neg : Bool) (d : Nat) (r : Rat) : Prop :=
  match rm with
  | 0 => 1 < 2 * r ∨ (2 * r = 1 ∧ d % 2 = 1)
  | 1 => False
  | 2 => neg = true ∧ r ≠ 0
  | _ => neg = false ∧ r ≠ 0

/-- A whole number is its own rounding. -/
theorem not_goesUp_zero (rm : Nat) (neg : Bool) (d : Nat) : ¬goesUp rm neg d 0 := by
  unfold goesUp
  split <;> grind

/-- The number d + r lies between d and d + 1, and t is that neighbour which the direction takes. -/
structure RoundedTo (rm : Nat) (neg : Bool) (d : Nat) (r : Rat) (t : Nat) : Prop where
  nonneg : 0 ≤ r
  lt_one : r < 1
  chosen : (goesUp rm neg d r ∧ t = d + 1) ∨ (¬goesUp rm neg d r ∧ t = d)

/-- The test that the model makes on the remainder r * 2^k of a division by 2^k. -/
theorem roundUp_iff_goesUp (rm : Nat) (neg : Bool) (d : Nat) {rem k : Nat} {r : Rat} (hr : r * (2 ^ k : Nat) = rem) :
    roundUp rm neg (d % 2 == 1) rem k = true ↔ goesUp rm neg d r := by
  have pos : (0 : Rat) < (2 ^ k : Nat) := Rat.natCast_pos.2 (Nat.two_pow_pos k)
  have twice : 2 * r * (2 ^ k : Nat) = ((2 * rem : Nat) : Rat) := by
    rw [Rat.mul_assoc, hr, Rat.natCast_mul]
    rfl
  have half : 1 < 2 * r ↔ 2 ^ k < 2 * rem := by
    rw [← Rat.mul_lt_mul_right pos, twice, Rat.one_mul, Rat.natCast_lt_natCast]
  have tie : 2 * r = 1 ↔ 2 * rem = 2 ^ k := by
    rw [← mul_inj_of_pos pos, twice, Rat.one_mul, Rat.natCast_inj]
  have whole : r = 0 ↔ rem = 0 := by
    rw [← mul_inj_of_pos pos, hr, Rat.zero_mul, Rat.natCast_eq_zero_iff]
  match rm with
  | 0 => simp only [roundUp, goesUp, half, tie, Bool.or_eq_true, Bool.and_eq_true, decide_eq_true_eq, beq_iff_eq]
  | 1 => exact iff_of_false Bool.false_ne_true id
  | 2 => simp only [roundUp, goesUp, whole, ne_eq, Bool.and_eq_true, bne_iff_ne]
  | _ + 3 => simp only [roundUp, goesUp, whole, ne_eq, Bool.and_eq_true, bne_iff_ne, Bool.not_eq_true']

/-- A number is a whole number of units of each lower power of two. -/
theorem mul_pw_eq_of_le (m : Nat) {q e : Int} (h : q ≤ e) : (m : Rat) * pw e = (m * 2 ^ (e - q).toNat : Nat) * pw q := by
  have split : e = q + (e - q).toNat := by omega
  calc (m : Rat) * pw e = m * pw (q + (e - q).toNat) := by rw [← split]
    _ = (m * 2 ^ (e - q).toNat : Nat) * pw q := by rw [pw_add_nat, ← Rat.mul_assoc, ← Rat.natCast_mul]

/-- Rounding to a multiple of 2^q takes one of the two neighbours, and says whether the value is one. -/
theorem roundAt_spec (rm : Nat) (neg : Bool) (m : Nat) (e q : Int) :
    ∃ (d : Nat) (r : Rat), (m : Rat) * pw e = (d + r) * pw q ∧ RoundedTo rm neg d r (roundAt rm neg m e q).1 ∧
      ((roundAt rm neg m e q).2 = true ↔ r = 0) := by
  unfold roundAt
  by_cases h : q ≤ e
  · rw [if_pos h]
    refine ⟨m * 2 ^ (e - q).toNat, 0, ?_, ⟨Rat.le_refl, by decide, .inr ⟨not_goesUp_zero _ _ _, rfl⟩⟩, ?_⟩
    · rw [Rat.add_zero, mul_pw_eq_of_le m h]
    · exact iff_of_true rfl rfl
  · rw [if_neg h]
    generalize hk : (q - e).toNat = k
    have hq : q = e + k := by omega
    have pos : (0 : Rat) < (2 ^ k : Nat) := Rat.natCast_pos.2 (Nat.two_pow_pos k)
    obtain ⟨r, hr⟩ : ∃ r : Rat, r * (2 ^ k : Nat) = (m % 2 ^ k : Nat) :=
      ⟨(m % 2 ^ k : Nat) / (2 ^ k : Nat), Rat.div_mul_cancel (Rat.ne_of_gt pos)⟩
    have whole : (m % 2 ^ k == 0) = true ↔ r = 0 := by
      rw [← mul_inj_of_pos pos, hr, Rat.zero_mul, Rat.natCast_eq_zero_iff, beq_iff_eq]
    refine ⟨m / 2 ^ k, r, ?_, ⟨?_, ?_, ?_⟩, whole⟩
    · calc (m : Rat) * pw e = ((m / 2 ^ k * 2 ^ k + m % 2 ^ k : Nat) : Rat) * pw e := by
            rw [Nat.mul_comm (m / 2 ^ k), Nat.div_add_mod]
        _ = ((m / 2 ^ k : Nat) + r) * pw q := by
          rw [Rat.natCast_add, Rat.natCast_mul, ← hr, ← Rat.add_mul, Rat.mul_assoc, ← pw_add_nat, ← hq]
    · exact Rat.le_of_mul_le_mul_right (by rw [hr, Rat.zero_mul]; exact Rat.natCast_nonneg) pos
    · refine Rat.lt_of_mul_lt_mul_right ?_ (Rat.le_of_lt pos)
      rw [hr, Rat.one_mul]
      exact Rat.natCast_lt_natCast.2 (Nat.mod_lt m (Nat.two_pow_pos k))
    · rw [← roundUp_iff_goesUp rm neg (m / 2 ^ k) hr]
      by_cases up : roundUp rm neg (m / 2 ^ k % 2 == 1) (m % 2 ^ k) k = true
      · exact .inl ⟨up, if_pos up⟩
      · exact .inr ⟨up, if_neg up⟩

/-! ## Encoding (R293) -/

/-- The encoding of t units in the last place of the binade of 2^l; a carry goes into the exponent field. -/
def encodingOf (f : FFmt) (l : Int) (t : Nat) : Nat :=
  if l < f.emin then t else t - 2 ^ f.mb + (l + f.bias).toNat * 2 ^ f.mb

/-- The exponent of the last place of the binade of 2^l. -/
def lastPlace (f : FFmt) (l : Int) : Int := max f.low (l - f.mb)

/-- A value overflows with OF, or is rounded at the last place of its binade. -/
theorem encode_fin_cases (f : FFmt) (rm : Nat) (sat neg : Bool) {m : Nat} (e : Int) (hm : m ≠ 0) :
    let out := f.encode (.fin neg m e) rm sat false
    let l := floorLog m e
    let r := roundAt rm neg m e (lastPlace f l)
    out.2 &&& flagOF ≠ 0 ∨
    encodingOf f l r.1 ≤ f.maxEnc ∧ out.1 = f.signed neg (encodingOf f l r.1) ∧ (out.2 &&& flagNX = 0 ↔ r.2 = true) := by
  intro out l r
  by_cases hov : f.maxEnc < encodingOf f l r.1
  · have eq : out = _ := (if_neg hm).trans (if_pos hov)
    rw [eq]
    simp only [apply_ite Prod.snd, Bool.false_and, Bool.false_eq_true, if_false]
    refine .inl ?_
    split
    · decide
    · split
      · decide
      · split <;> decide
  · have eq : out = _ := (if_neg hm).trans (if_neg hov)
    rw [eq]
    refine .inr ⟨Nat.le_of_not_lt hov, rfl, ?_⟩
    change (if r.2 then (0 : BitVec 6) else _) &&& flagNX = 0 ↔ r.2 = true
    cases r.2
    · rw [if_neg Bool.false_ne_true]
      split <;> decide
    · rw [if_pos rfl]
      decide

/-- What a mantissa and an exponent field stand for (R289, R290). -/
theorem decode_fields {f : FFmt} (hf : f ∈ floatFormats) (neg : Bool) {frac expo : Nat} (hfrac : frac < 2 ^ f.mb)
    (h : frac + expo * 2 ^ f.mb ≤ f.maxEnc) :
    f.decode (f.signed neg (frac + expo * 2 ^ f.mb)) = if expo = 0 then .fin neg frac f.low
      else .fin neg (2 ^ f.mb + frac) ((expo : Int) - f.bias - f.mb) := by
  have hdiv : (frac + expo * 2 ^ f.mb) / 2 ^ f.mb = expo := by
    rw [Nat.add_mul_div_right _ _ (Nat.two_pow_pos _), Nat.div_eq_of_lt hfrac, Nat.zero_add]
  have hmod : (frac + expo * 2 ^ f.mb) % 2 ^ f.mb = frac := by
    rw [Nat.add_mul_mod_self_right, Nat.mod_eq_of_lt hfrac]
  rw [decode_signed hf neg h, hdiv, hmod]
  rfl

/-- Where t, in units of the last place of the binade of 2^l, may lie after one rounding. -/
def InBinade (f : FFmt) (l : Int) (t : Nat) : Prop :=
  if l < f.emin then t ≤ 2 ^ f.mb else 2 ^ f.mb ≤ t ∧ t ≤ 2 ^ (f.mb + 1)

/-- The encoding of t units in the last place stands for them, whether or not it carries into the next binade. -/
theorem decode_encodingOf {f : FFmt} (hf : f ∈ floatFormats) (neg : Bool) {l : Int} {t : Nat} (ht : InBinade f l t)
    (h : encodingOf f l t ≤ f.maxEnc) :
    ∃ m e, f.decode (f.signed neg (encodingOf f l t)) = .fin neg m e ∧ (m : Rat) * pw e = t * pw (lastPlace f l) := by
  have pos := Nat.two_pow_pos f.mb
  unfold encodingOf InBinade lastPlace at *
  by_cases hl : l < f.emin
  · rw [if_pos hl] at ht h ⊢
    have hq : max f.low (l - f.mb) = f.low := Int.max_eq_left (by unfold Machine.FFmt.low; omega)
    rw [hq]
    rcases Nat.lt_or_eq_of_le ht with hlt | heq
    · have := decode_fields hf neg (expo := 0) hlt (by simpa using h)
      exact ⟨t, f.low, by simpa using this, rfl⟩
    · have := decode_fields hf neg (frac := 0) (expo := 1) pos (by simpa [← heq] using h)
      refine ⟨2 ^ f.mb, f.low, ?_, by rw [heq]⟩
      simpa [← heq, Machine.FFmt.low, FFmt.emin] using this
  · rw [if_neg hl] at ht h ⊢
    have hq : max f.low (l - f.mb) = l - f.mb := Int.max_eq_right (by unfold Machine.FFmt.low; omega)
    rw [hq]
    obtain ⟨low, high⟩ := ht
    have double : 2 ^ (f.mb + 1) = 2 ^ f.mb + 2 ^ f.mb := by rw [Nat.pow_succ, Nat.mul_two]
    generalize hE : (l + f.bias).toNat = expo at h ⊢
    have hexpo : (expo : Int) = l + f.bias ∧ expo ≠ 0 := by
      unfold FFmt.emin at hl
      omega
    obtain ⟨hexpo, hne⟩ := hexpo
    rcases Nat.lt_or_eq_of_le high with hlt | heq
    · have := decode_fields hf neg (by omega) h
      refine ⟨t, l - f.mb, ?_, rfl⟩
      rw [this, if_neg hne, Nat.add_sub_cancel' low, hexpo, Int.add_sub_cancel]
    · have carry : t - 2 ^ f.mb + expo * 2 ^ f.mb = 0 + (expo + 1) * 2 ^ f.mb := by
        rw [heq, double, Nat.add_sub_cancel, Nat.succ_mul, Nat.zero_add, Nat.add_comm]
      rw [carry] at h ⊢
      refine ⟨2 ^ f.mb, l - f.mb + 1, ?_, ?_⟩
      · rw [decode_fields hf neg pos h, if_neg (Nat.succ_ne_zero _), Nat.add_zero]
        exact congrArg (FVal.fin neg _) (by omega)
      · rw [heq, pw_succ, Nat.pow_succ, Rat.natCast_mul, Rat.mul_assoc]
        rfl

/-- In a binade the last bits of t and of its encoding agree, for every format has a mantissa. -/
theorem encodingOf_parity {f : FFmt} (hf : f ∈ floatFormats) (neg : Bool) {l : Int} {t : Nat} (ht : InBinade f l t) :
    f.signed neg (encodingOf f l t) % 2 = t % 2 := by
  have even : ∀ n, 1 ≤ n → 2 ^ n % 2 = 0 := fun n hn => by
    rw [show n = n - 1 + 1 by omega, Nat.pow_succ, Nat.mul_mod_left]
  have hmb : 1 ≤ f.mb := by
    simp only [floatFormats, List.mem_cons, List.not_mem_nil, or_false] at hf
    rcases hf with rfl | rfl | rfl | rfl | rfl | rfl <;> decide
  have unit := even f.mb hmb
  have sign := even f.width (Nat.le_add_right_of_le hmb)
  have unsigned : encodingOf f l t % 2 = t % 2 := by
    unfold encodingOf InBinade at *
    split at ht
    · rw [if_pos ‹_›]
    · rw [if_neg ‹_›, Nat.add_mod, Nat.mul_mod, unit]
      omega
  unfold Machine.FFmt.signed
  split <;> omega

/-- The value before its rounding lies in the binade of its logarithm. -/
theorem floorLog_bounds {m : Nat} (e : Int) (hm : m ≠ 0) :
    pw (floorLog m e) ≤ m * pw e ∧ (m : Rat) * pw e < 2 * pw (floorLog m e) := by
  have hl : floorLog m e = e + m.log2 := Int.add_comm ..
  have low : ((2 ^ m.log2 : Nat) : Rat) ≤ m := Rat.natCast_le_natCast.2 (Nat.log2_self_le hm)
  have high : (m : Rat) < (2 ^ (m.log2 + 1) : Nat) := Rat.natCast_lt_natCast.2 Nat.lt_log2_self
  rw [hl, ← pw_succ, Int.add_assoc, show ((m.log2 : Int) + 1) = (m.log2 + 1 : Nat) from rfl, pw_add_nat, pw_add_nat]
  exact ⟨Rat.mul_le_mul_of_nonneg_right low (Rat.le_of_lt (pw_pos e)), Rat.mul_lt_mul_of_pos_right high (pw_pos e)⟩

theorem RoundedTo.bounds {rm : Nat} {neg : Bool} {d t : Nat} {r : Rat} (h : RoundedTo rm neg d r t) : d ≤ t ∧ t ≤ d + 1 := by
  rcases h.chosen with ⟨-, ht⟩ | ⟨-, ht⟩ <;> omega

/-- A value in the binade of 2^l, counted in its last place, lies in the binade after its rounding too; the count has all its
bits where the binade has a last place of its own. -/
theorem inBinade_of_roundedTo {f : FFmt} {rm : Nat} {neg : Bool} {l : Int} {x r : Rat} {d t : Nat} (low : pw l ≤ x)
    (high : x < 2 * pw l) (hx : x = (d + r) * pw (lastPlace f l)) (h : RoundedTo rm neg d r t) :
    InBinade f l t ∧ (f.low < lastPlace f l → 2 ^ f.mb ≤ d) := by
  obtain ⟨hdt, htd⟩ := h.bounds
  have r0 := h.nonneg
  have r1 := h.lt_one
  unfold InBinade
  by_cases hl : l < f.emin
  · have hq : lastPlace f l = f.low := Int.max_eq_left (by unfold Machine.FFmt.low; omega)
    rw [hq] at hx ⊢
    have top : 2 * pw l ≤ (2 ^ f.mb : Nat) * pw f.low := by
      rw [← pw_succ, ← pw_add_nat]
      exact pw_le (by unfold Machine.FFmt.low; omega)
    have below : (d : Rat) + r < (2 ^ f.mb : Nat) :=
      Rat.lt_of_mul_lt_mul_right (by grind) (Rat.le_of_lt (pw_pos f.low))
    have : d < 2 ^ f.mb := Rat.natCast_lt_natCast.1 (by grind)
    exact ⟨by rw [if_pos hl]; omega, fun hlt => absurd hlt (Int.lt_irrefl _)⟩
  · have hq : lastPlace f l = l - f.mb := Int.max_eq_right (by unfold Machine.FFmt.low; omega)
    have hp : pw l = (2 ^ f.mb : Nat) * pw (l - f.mb) := by rw [← pw_add_nat, Int.sub_add_cancel]
    rw [hq] at hx ⊢
    have pos := pw_pos (l - f.mb)
    have bottom : ((2 ^ f.mb : Nat) : Rat) ≤ d + r := Rat.le_of_mul_le_mul_right (by rwa [← hp, ← hx]) pos
    have top : (d : Rat) + r < (2 * 2 ^ f.mb : Nat) :=
      Rat.lt_of_mul_lt_mul_right (by rw [Rat.natCast_mul, Rat.mul_assoc, ← hp, ← hx]; exact high) (Rat.le_of_lt pos)
    have hd : 2 ^ f.mb < d + 1 := Rat.natCast_lt_natCast.1 (by rw [Rat.natCast_add]; grind)
    have hd' : d < 2 * 2 ^ f.mb := Rat.natCast_lt_natCast.1 (by grind)
    exact ⟨by rw [if_neg hl, Nat.pow_succ]; omega, fun _ => Nat.lt_succ_iff.1 hd⟩

/-- An encoding is one of the two neighbours of its value x, d and d + 1 units of 2^q, which is a grid that no value of the
format refines between them: the neighbour that the direction takes, with NX where it is not x itself. -/
structure Encodes (f : FFmt) (rm : Nat) (neg : Bool) (x : Rat) (out : Nat × BitVec 6) (q : Int) (d : Nat) (r : Rat) (t : Nat) :
    Prop where
  value : x = (d + r) * pw q
  rounded : RoundedTo rm neg d r t
  fine : f.low < q → 2 ^ f.mb ≤ d
  decoded : ∃ m e, f.decode out.1 = .fin neg m e ∧ (m : Rat) * pw e = t * pw q
  inexact : out.2 &&& flagNX = 0 ↔ r = 0
  parity : out.1 % 2 = t % 2

theorem encode_encodes {f : FFmt} (hf : f ∈ floatFormats) (neg : Bool) (m : Nat) (e : Int) (rm : Nat) (sat : Bool)
    (h : (f.encode (.fin neg m e) rm sat false).2 &&& flagOF = 0) :
    ∃ q d r t, Encodes f rm neg (m * pw e) (f.encode (.fin neg m e) rm sat false) q d r t := by
  by_cases hm : m = 0
  · have eq : f.encode (.fin neg m e) rm sat false = (f.signed neg 0, 0) := if_pos hm
    have zero : InBinade f (f.emin - 1) 0 := (if_pos (Int.sub_one_lt_of_le (Int.le_refl _))).mpr (Nat.zero_le _)
    have enc : encodingOf f (f.emin - 1) 0 = 0 := if_pos (by omega)
    rw [eq]
    refine ⟨lastPlace f (f.emin - 1), 0, 0, 0, ?_, ⟨Rat.le_refl, by decide, .inr ⟨not_goesUp_zero _ _ _, rfl⟩⟩,
      fun hlt => ?_, ?_, iff_of_true (BitVec.zero_and : 0#6 &&& flagNX = 0) rfl, ?_⟩
    · rw [hm, Rat.add_zero]
      exact (Rat.zero_mul _).trans (Rat.zero_mul _).symm
    · unfold lastPlace Machine.FFmt.low at hlt
      omega
    · simpa [enc] using decode_encodingOf hf neg zero (by simp [enc])
    · simpa [enc] using encodingOf_parity hf neg zero
  · obtain overflow | ⟨fits, code, nx⟩ := encode_fin_cases f rm sat neg e hm
    · exact absurd h overflow
    · obtain ⟨low, high⟩ := floorLog_bounds e hm
      obtain ⟨d, r, hx, rounded, whole⟩ := roundAt_spec rm neg m e (lastPlace f (floorLog m e))
      obtain ⟨binade, fine⟩ := inBinade_of_roundedTo low high hx rounded
      exact ⟨_, d, r, _, hx, rounded, fine, code ▸ decode_encodingOf hf neg binade fits, nx.trans whole,
        code ▸ encodingOf_parity hf neg binade⟩

/-! ## Between two neighbours -/

/-- No value of the format has its magnitude between d and d + 1 units. -/
theorem no_value_between {f : FFmt} {q e : Int} {d m : Nat} (fine : f.low < q → 2 ^ f.mb ≤ d) (hm : m < 2 ^ (f.mb + 1))
    (he : f.low ≤ e) : (m : Rat) * pw e ≤ d * pw q ∨ (d + 1) * pw q ≤ (m : Rat) * pw e := by
  have nonneg := Rat.le_of_lt (pw_pos q)
  by_cases h : q ≤ e
  · rw [mul_pw_eq_of_le m h]
    rcases Nat.lt_or_ge d (m * 2 ^ (e - q).toNat) with hlt | hle
    · refine .inr ?_
      have := count_le_count (Nat.succ_le_of_lt hlt) q
      rwa [Nat.succ_eq_add_one, Rat.natCast_add] at this
    · exact .inl (count_le_count hle q)
  · have hd : 2 ^ f.mb ≤ d := fine (by omega)
    have hm' : m ≤ 2 ^ f.mb * 2 := Nat.le_of_lt hm
    refine .inl ?_
    calc (m : Rat) * pw e ≤ (2 ^ f.mb * 2 : Nat) * pw e := count_le_count hm' e
      _ = (2 ^ f.mb : Nat) * pw (e + 1) := by rw [pw_succ, Rat.natCast_mul, Rat.mul_assoc]; rfl
      _ ≤ (2 ^ f.mb : Nat) * pw q := Rat.mul_le_mul_of_nonneg_left (pw_le (by omega)) Rat.natCast_nonneg
      _ ≤ d * pw q := count_le_count hd q

/-- Every value of the format, counted in units of 2^q toward the sign of the value that is rounded, lies outside the gap
between d and d + 1 on either side of zero. -/
theorem value_outside_gap {f : FFmt} {q : Int} {d k : Nat} {neg' : Bool} {m : Nat} {e : Int} (neg : Bool)
    (fine : f.low < q → 2 ^ f.mb ≤ d) (h : f.decode k = .fin neg' m e) :
    ∃ z : Rat, ratOf neg' m e = sgn neg * (z * pw q) ∧ (z.abs ≤ d ∨ d + 1 ≤ z.abs) := by
  obtain ⟨hm, he⟩ := decode_fin_bounds h
  have pos := pw_pos q
  obtain ⟨z, hz⟩ : ∃ z : Rat, z * pw q = sgn neg * ratOf neg' m e :=
    ⟨sgn neg * ratOf neg' m e / pw q, Rat.div_mul_cancel (Rat.ne_of_gt pos)⟩
  have size : z.abs * pw q = m * pw e := by
    rw [← abs_mul_of_pos z pos, hz, abs_sgn_mul, ratOf_eq, abs_sgn_mul, abs_mul_of_pos _ (pw_pos e),
      Rat.abs_of_nonneg Rat.natCast_nonneg]
  refine ⟨z, by rw [hz, sgn_mul_self], ?_⟩
  exact (no_value_between fine hm he).imp (fun below => Rat.le_of_mul_le_mul_right (size ▸ below) pos)
    fun above => Rat.le_of_mul_le_mul_right (size ▸ above) pos

/-- What holds of every number outside the gap, in units, holds of every value of the format. -/
theorem forall_value_of_units {f : FFmt} {q : Int} {d : Nat} {P : Rat → Prop} (neg : Bool) (fine : f.low < q → 2 ^ f.mb ≤ d)
    (h : ∀ z : Rat, z.abs ≤ d ∨ d + 1 ≤ z.abs → P (sgn neg * (z * pw q))) :
    ∀ y, (∃ (k : Nat) (neg' : Bool) (m : Nat) (e : Int), f.decode k = .fin neg' m e ∧ y = ratOf neg' m e) → P y := by
  rintro y ⟨k, neg', m, e, hk, rfl⟩
  obtain ⟨z, hz, gap⟩ := value_outside_gap neg fine hk
  rw [hz]
  exact h z gap

/-- Distances between numbers of units, whatever their common sign. -/
theorem abs_sub_units (neg : Bool) (a b : Rat) (q : Int) :
    (sgn neg * (a * pw q) - sgn neg * (b * pw q)).abs = (a - b).abs * pw q := by
  have common : sgn neg * (a * pw q) - sgn neg * (b * pw q) = sgn neg * ((a - b) * pw q) := by grind
  rw [common, abs_sgn_mul, abs_mul_of_pos _ (pw_pos q)]

theorem abs_units (neg : Bool) (a : Rat) (q : Int) : (sgn neg * (a * pw q)).abs = a.abs * pw q := by
  rw [abs_sgn_mul, abs_mul_of_pos _ (pw_pos q)]

/-- A number outside the gap on either side of zero lies below it or above it. -/
theorem below_or_above {d : Nat} {z : Rat} (gap : z.abs ≤ d ∨ d + 1 ≤ z.abs) : z ≤ d ∨ (d : Rat) + 1 ≤ z := by
  have pos : (0 : Rat) ≤ d := Rat.natCast_nonneg
  grind [Rat.abs]

/-- To nearest, d is the nearer neighbour or the even one of two, or d + 1 is the nearer or the odd d's other (R26). -/
theorem RoundedTo.nearest {neg : Bool} {d t : Nat} {r : Rat} (h : RoundedTo 0 neg d r t) :
    (t = d ∧ (2 * r < 1 ∨ 2 * r = 1 ∧ d % 2 = 0)) ∨ (t = d + 1 ∧ (1 < 2 * r ∨ 2 * r = 1 ∧ d % 2 = 1)) := by
  rcases h.chosen with ⟨up, ht⟩ | ⟨down, ht⟩
  · exact .inr ⟨ht, up⟩
  · obtain ⟨notMore, notOdd⟩ := not_or.1 down
    refine .inl ⟨ht, (Rat.le_iff_lt_or_eq.1 (Rat.not_lt.1 notMore)).imp_right fun tie => ⟨tie, ?_⟩⟩
    have : ¬d % 2 = 1 := fun odd => notOdd ⟨tie, odd⟩
    omega

/-- Rounding to nearest takes no farther neighbour. -/
theorem RoundedTo.nearest_le {neg : Bool} {d t : Nat} {r z : Rat} (h : RoundedTo 0 neg d r t) (gap : z.abs ≤ d ∨ d + 1 ≤ z.abs) :
    ((t : Rat) - (d + r)).abs ≤ (z - (d + r)).abs := by
  have r0 := h.nonneg
  have r1 := h.lt_one
  have outside := below_or_above gap
  rcases h.nearest with ⟨rfl, near⟩ | ⟨rfl, near⟩
  · have half : 2 * r ≤ 1 := near.elim Rat.le_of_lt fun tie => tie.1 ▸ Rat.le_refl
    grind [Rat.abs]
  · have half : 1 ≤ 2 * r := near.elim Rat.le_of_lt fun tie => tie.1 ▸ Rat.le_refl
    rw [Rat.natCast_add]
    grind [Rat.abs]

/-- To nearest, another value at the same distance means a tie, which goes to the even neighbour. -/
theorem RoundedTo.even_of_tie {neg : Bool} {d t : Nat} {r z : Rat} (h : RoundedTo 0 neg d r t) (gap : z.abs ≤ d ∨ d + 1 ≤ z.abs)
    (other : z ≠ t) (same : (z - (d + r)).abs = ((t : Rat) - (d + r)).abs) : t % 2 = 0 := by
  have r0 := h.nonneg
  have r1 := h.lt_one
  -- the other value lies as far from d + r on its other side
  have mirrored : z = 2 * (d + r) - t := by grind [Rat.abs]
  rcases h.nearest with ⟨rfl, near⟩ | ⟨rfl, near⟩
  · refine near.elim (fun less => ?_) And.right
    rcases below_or_above gap with hz | hz <;> grind
  · rw [Rat.natCast_add] at mirrored other
    refine near.elim (fun more => ?_) fun tie => by omega
    rcases below_or_above gap with hz | hz <;> grind

/-- The lower neighbour has every number outside the gap below it that the rounded one has. -/
theorem RoundedTo.of_down {rm : Nat} {neg : Bool} {d t : Nat} {r : Rat} (h : RoundedTo rm neg d r t)
    (down : ¬goesUp rm neg d r) : (t : Rat) ≤ d + r ∧ ∀ z : Rat, z.abs ≤ d ∨ d + 1 ≤ z.abs → z ≤ d + r → z ≤ t := by
  have r0 := h.nonneg
  have r1 := h.lt_one
  obtain rfl : t = d := h.chosen.elim (fun up => absurd up.1 down) And.right
  exact ⟨by grind, fun z gap hz => (below_or_above gap).elim id fun above => by grind⟩

/-- The upper neighbour, or the rounded number itself where it is whole, has every number outside the gap above it that the
rounded one has. -/
theorem RoundedTo.of_up {rm : Nat} {neg : Bool} {d t : Nat} {r : Rat} (h : RoundedTo rm neg d r t)
    (up : goesUp rm neg d r ↔ r ≠ 0) : (d : Rat) + r ≤ t ∧ ∀ z : Rat, z.abs ≤ d ∨ d + 1 ≤ z.abs → d + r ≤ z → t ≤ z := by
  have r0 := h.nonneg
  have r1 := h.lt_one
  rcases h.chosen with ⟨goes, rfl⟩ | ⟨stays, rfl⟩
  · have pos : 0 < r := Rat.lt_of_le_of_ne r0 (up.1 goes).symm
    rw [Rat.natCast_add]
    exact ⟨by grind, fun z gap hz => (below_or_above gap).elim (fun below => by grind) id⟩
  · have whole : r = 0 := Decidable.of_not_not (mt up.2 stays)
    exact ⟨by grind, fun z _ hz => by grind⟩

/-- The order of numbers of units toward the sign is that of the values, or its reverse. -/
theorem units_le_iff (neg : Bool) (a b : Rat) (q : Int) :
    sgn neg * (a * pw q) ≤ sgn neg * (b * pw q) ↔ if neg then b ≤ a else a ≤ b := by
  have ordered (a b : Rat) : a * pw q ≤ b * pw q ↔ a ≤ b :=
    ⟨fun h => Rat.le_of_mul_le_mul_right h (pw_pos q), fun h => Rat.mul_le_mul_of_nonneg_right h (Rat.le_of_lt (pw_pos q))⟩
  cases neg
  · rw [sgn_false_mul, sgn_false_mul, ordered, if_neg Bool.false_ne_true]
  · rw [sgn_true_mul, sgn_true_mul, Rat.neg_le_neg_iff, ordered, if_pos rfl]

/-- One rounding of each direction, in units. -/
theorem roundsTo_of_encodes {f : FFmt} {rm : Nat} {neg : Bool} {m : Nat} {e : Int} {out : Nat × BitVec 6} {q : Int} {d : Nat}
    {r : Rat} {t : Nat} (hrm : rm < 4) (h : Encodes f rm neg (m * pw e) out q d r t) :
    RoundsTo f rm (ratOf neg m e) (sgn neg * (t * pw q)) := by
  obtain ⟨m₀, e₀, code, units⟩ := h.decoded
  have value : ratOf neg m e = sgn neg * ((d + r) * pw q) := by rw [ratOf_eq, h.value]
  refine ⟨⟨out.1, neg, m₀, e₀, code, by rw [ratOf_eq, units]⟩, ?_⟩
  rw [value]
  have pos := Rat.le_of_lt (pw_pos q)
  have whole : (t : Rat).abs = t := Rat.abs_of_nonneg Rat.natCast_nonneg
  match rm, hrm, h with
  | 0, _, h =>
    refine forall_value_of_units neg h.fine fun z gap => ?_
    rw [abs_sub_units, abs_sub_units]
    exact Rat.mul_le_mul_of_nonneg_right (h.rounded.nearest_le gap) pos
  | 1, _, h =>
    obtain ⟨low, greatest⟩ := h.rounded.of_down id
    have sum : ((d : Rat) + r).abs = d + r :=
      Rat.abs_of_nonneg (Rat.add_nonneg Rat.natCast_nonneg h.rounded.nonneg)
    rw [abs_units, abs_units, whole, sum]
    refine ⟨Rat.mul_le_mul_of_nonneg_right low pos, forall_value_of_units neg h.fine fun z gap below => ?_⟩
    rw [abs_units] at below ⊢
    exact Rat.mul_le_mul_of_nonneg_right (greatest z.abs (by rwa [Rat.abs_of_nonneg Rat.abs_nonneg])
      (Rat.le_of_mul_le_mul_right below (pw_pos q))) pos
  | 2, _, h =>
    cases neg
    · obtain ⟨low, greatest⟩ := h.rounded.of_down (by simp [goesUp])
      exact ⟨(units_le_iff ..).2 low, forall_value_of_units false h.fine fun z gap below =>
        (units_le_iff ..).2 (greatest z gap ((units_le_iff ..).1 below))⟩
    · obtain ⟨high, least⟩ := h.rounded.of_up (by simp [goesUp])
      exact ⟨(units_le_iff ..).2 high, forall_value_of_units true h.fine fun z gap below =>
        (units_le_iff ..).2 (least z gap ((units_le_iff ..).1 below))⟩
  | 3, _, h =>
    cases neg
    · obtain ⟨high, least⟩ := h.rounded.of_up (by simp [goesUp])
      exact ⟨(units_le_iff ..).2 high, forall_value_of_units false h.fine fun z gap above =>
        (units_le_iff ..).2 (least z gap ((units_le_iff ..).1 above))⟩
    · obtain ⟨low, greatest⟩ := h.rounded.of_down (by simp [goesUp])
      exact ⟨(units_le_iff ..).2 low, forall_value_of_units true h.fine fun z gap above =>
        (units_le_iff ..).2 (greatest z gap ((units_le_iff ..).1 above))⟩

/-- The neighbour taken is the number itself exactly where that is whole. -/
theorem RoundedTo.eq_iff {rm : Nat} {neg : Bool} {d t : Nat} {r : Rat} (h : RoundedTo rm neg d r t) :
    (t : Rat) = d + r ↔ r = 0 := by
  have r1 := h.lt_one
  rcases h.chosen with ⟨up, rfl⟩ | ⟨-, rfl⟩
  · have nonzero : r ≠ 0 := fun e => not_goesUp_zero rm neg d (e ▸ up)
    rw [Rat.natCast_add]
    exact iff_of_false (fun e => by grind) nonzero
  · exact ⟨fun e => by grind, fun e => by grind⟩

theorem encodingRoundsToANeighbour : Claims.EncodingRoundsToANeighbour := by
  intro f hf neg m e rm sat hrm out hof
  obtain ⟨q, d, r, t, h⟩ := encode_encodes hf neg m e rm sat hof
  obtain ⟨m', e', code, units⟩ := h.decoded
  have result : ratOf neg m' e' = sgn neg * (t * pw q) := by rw [ratOf_eq, units]
  have value : ratOf neg m e = sgn neg * ((d + r) * pw q) := by rw [ratOf_eq, h.value]
  refine ⟨neg, m', e', code, result ▸ roundsTo_of_encodes hrm h, ?_⟩
  rw [result, value, sgn_mul_inj, mul_inj_of_pos (pw_pos q), h.rounded.eq_iff]
  exact h.inexact

theorem nearestTiesGoToEven : Claims.NearestTiesGoToEven := by
  intro f hf neg m e sat out hof n' m' e' hout k n'' m'' e'' hk other same
  obtain ⟨q, d, r, t, h⟩ := encode_encodes hf neg m e 0 sat hof
  obtain ⟨m₀, e₀, code, units⟩ := h.decoded
  obtain ⟨rfl, rfl, rfl⟩ := FVal.fin.inj (code.symm.trans hout)
  obtain ⟨z, hz, gap⟩ := value_outside_gap neg h.fine hk
  have result : ratOf neg m₀ e₀ = sgn neg * (t * pw q) := by rw [ratOf_eq, units]
  have value : ratOf neg m e = sgn neg * ((d + r) * pw q) := by rw [ratOf_eq, h.value]
  rw [hz, result] at other same
  rw [value, abs_sub_units, abs_sub_units] at same
  rw [h.parity]
  exact h.rounded.even_of_tie gap (fun e => other (by rw [e])) ((mul_inj_of_pos (pw_pos q)).1 same)

/-- Settles O30: every encoding is a neighbour of its value on a grid that no value refines between the two. -/
theorem encodingRoundsCorrectly : Obligations.EncodingRoundsCorrectly :=
  ⟨encodingRoundsToANeighbour, nearestTiesGoToEven⟩

end Sys2Proof

namespace Sys2Proof
open Machine

/-! ## A save that an eviction order has waited for (R31): two parts of one number

The statement asks nothing of the numbers of parts. Where two parts bear one number, the eviction lands the results of the
first of them, whatever its workgroup; poisoned data among them ends the context, which drops the bale just ordered. -/

/-- The paddock whose save is finished. -/
def twinSave : SavedPaddock := { context := 1, pidx := 0, done := false }

/-- Its only member, which an eviction order waits for. -/
def twinWg : Workgroup := { id := 1, context := 1, state := .saved, ordered := true }

/-- Part 1 of the saved workgroup has exited; part 1 of another paddock of the launch has poisoned data in flight, and the
launch's trap area lies beyond every address, so that no record can be written. -/
def twinParts : State :=
  { ctxs := [{ id := 1, live := true, trapArea := 0x0200000000000000 }]
    wgs := [twinWg, { id := 2, context := 1, pidx := 1, state := .running }]
    gangs := [{ id := 1, workgroup := 1 }, { id := 2, workgroup := 2 }]
    parts := [{ id := 1, gang := 2, state := .ready, inflight := [{ id := 1, poison := some { code := 0x0B } }] },
              { id := 1, gang := 1, state := .exited }]
    saves := [twinSave] }

/-- The state that a step leads to has no bale to write. -/
def leavesNoBale : Host.Outcome State Machine.Fault Refusal → Bool
  | .next t => t.spills.isEmpty
  | _ => false

theorem twinParts_savedWgs : twinParts.savedWgs twinSave = [twinWg] := by decide +kernel

/-- No piece is written in no step. -/
theorem storedAt_nil (x : Space) (s : State) (bs : List Byte) : StoredAt x s [] bs s := rfl

/-- Nothing of the exited member is to be saved: its slot is written at once. -/
theorem twinParts_slots : SlotsWritten (twinParts.getCtx 1) twinParts [twinWg] twinParts := by
  have pieces : ((twinParts.slotParts (twinParts.getCtx 1) twinWg []).flatMap fun x => pagePieces x.1 x.2) = [] := by decide +kernel
  have mail : ((twinParts.getCore twinWg.core).mailbox.filter fun m => m.workgroup == twinWg.id) = [] := by decide +kernel
  refine ⟨twinParts, ?_, rfl⟩
  simp only [mail, pieces]
  exact storedAt_nil ..

/-- The end of the other part's context takes the bale along. -/
theorem twinParts_loses_bale : leavesNoBale (exec (.preemptionSaveDone 0) twinParts) = true := by decide +kernel

/-- Refutes O58: an eviction order that has waited for a save leaves no bale to write where another part bears the number of a
part of the saved workgroup, for that part's poisoned data lands and ends the context. -/
theorem not_harvestAndPaddocksMove : ¬ Obligations.HarvestAndPaddocksMove := by
  rintro ⟨-, paddocks⟩
  have judged : ∀ q, Judged twinParts q := fun q p hp => absurd hp List.not_mem_nil
  obtain ⟨-, -, -, -, -, save⟩ := paddocks twinParts 0 {} [] 0 judged
  have ready : twinParts.saveReady (twinParts.savedWgs twinSave) = true := by decide +kernel
  have allSaved : ∀ w ∈ twinParts.savedWgs twinSave, w.state = .saved := by decide +kernel
  have slots : SlotsWritten (twinParts.getCtx 1) twinParts (twinParts.savedWgs twinSave) twinParts :=
    twinParts_savedWgs ▸ twinParts_slots
  have member : twinWg ∈ twinParts.savedWgs twinSave := twinParts_savedWgs ▸ List.mem_singleton_self _
  obtain ⟨ordered, -⟩ := save twinSave twinParts rfl rfl ready allSaved slots
  obtain ⟨t, ht, bales, -⟩ := ordered ⟨twinWg, member, rfl⟩
  obtain ⟨x, hx, -⟩ := bales twinWg member
  have gone : t.spills.isEmpty = true := by
    have := twinParts_loses_bale
    rwa [ht] at this
  exact List.ne_nil_of_mem hx (List.isEmpty_iff.1 gone)

end Sys2Proof
